-- ==== Sys2Proof/Word.lean ====
section
/-! DEFINITION. The byte of the control link, of the flash port and of the show image, and its plainest arithmetic. -/

namespace Sys2Proof

/-- One byte on the link, in flash or in the show image. -/
abbrev Byte := BitVec 8

/-- The 8-bit sum of a list of bytes (10_the_control_link.md section 10.2). -/
def byteSum : List Byte → Byte
  | [] => 0
  | b :: bs => b + byteSum bs

end Sys2Proof
end

