-- ==== Sys2Proof/Syntax.lean ====
section
/-! DEFINITION. The commands of the part: one constructor per row of spec/opcode_table.json.

A command is one step of the part, whole and indivisible (95_what_each_step_holds.md). What comes from outside
the part at that step is an operand: bytes from the link or from flash, sampled pin levels, the number of the
unit whose event it is, and, for every event of the show-frame time base, the number `f` of the show frame it
belongs to (log entry 2). The requests carry no operand: the step that executes a request takes it, with its
payload, from the front of the request queue (R184, log entry 3). -/

namespace Sys2Proof

/-- The levels of the part's sampled inputs at one input sample (R165): `true` is high. -/
structure InputLevels where
  /-- Sensor inputs 0 to 15, bit i for sensor i. -/
  sensors : BitVec 16
  /-- Button inputs 0 to 15, bit i for button i. -/
  buttons : BitVec 16
  /-- The HOUSE_n input. -/
  houseN : Bool
  /-- The ESTOP_n input. -/
  estopN : Bool
  deriving DecidableEq, Repr

inductive Instr where
  /-- Power-on reset ends; MODE1, MODE0 and the baud strap (`true` is 1,000,000 baud) as sampled (R12). -/
  | powerOnReset (mode1 mode0 fastBaud : Bool)
  /-- RESET_n is released; the same operands (R12). -/
  | resetN (mode1 mode0 fastBaud : Bool)
  /-- A link frame whose check sum is 0 has been received, with this kind byte and payload (R183). -/
  | arrival (kind : Byte) (payload : List Byte)
  /-- More than 5 ms pass after a kept byte (R182). -/
  | gapTimeout
  /-- The transmitter finishes a frame (R185). -/
  | transmitEnd
  | unknownRequest
  | ident
  | status
  | query
  | reportLevel
  | softReset
  | showMode
  | loadImage
  | tableOpen
  | tableWrite
  | tableRead
  | trigger
  | cancel
  | stopAll
  | holdGroup
  | freeGroup
  | setLevel
  | setMaster
  | setGrand
  | setBed
  | setLanguage
  | setLamp
  | moveAxis
  | homeAxis
  /-- The image read in flight completes with these bytes (R15, R16). -/
  | imageReadComplete (data : List Byte)
  /-- The patience of the scene's pending entry runs out in show frame f (R31). -/
  | patienceExpiry (scene : Fin 64) (f : Nat)
  /-- The cooldown of the scene runs out in show frame f (R34). -/
  | cooldownEnd (scene : Fin 64) (f : Nat)
  /-- The frame event of a player in show frame f (R43). -/
  | playerFrameEvent (player : Fin 8) (f : Nat)
  /-- The frame event of a DELAYING player whose delay is over (R43). -/
  | cueDelayExpiry (player : Fin 8) (f : Nat)
  /-- The frame event of an AWAITING player at its last frame of waiting (R52). -/
  | awaitTimeout (player : Fin 8) (f : Nat)
  /-- The lighting frame event of show frame f (R86). -/
  | lightingFrameEvent (f : Nat)
  /-- The lighting frame event of show frame f in which the attract hold ends (R113). -/
  | attractHoldExpiry (f : Nat)
  /-- The PWM period of a channel starts (R104). -/
  | pwmPeriodStart (channel : Fin 48)
  /-- The published HOUSE changes in show frame f (R179). -/
  | houseEvent (asserted : Bool) (f : Nat)
  /-- The published ESTOP changes in show frame f (R179). -/
  | estopEvent (asserted : Bool) (f : Nat)
  /-- The burst in flight completes with these bytes (R125). -/
  | burstComplete (data : List Byte)
  | sampleEvent
  /-- The sound frame event of show frame f (R142). -/
  | soundFrameEvent (f : Nat)
  /-- The fade-out of a voice ends in show frame f (R131). -/
  | fadeOutEnd (voice : Fin 4) (f : Nat)
  /-- The stall of a voice runs out in show frame f (R130). -/
  | stallTimeout (voice : Fin 4) (f : Nat)
  /-- The duck stage of a bed moves in show frame f (R136). -/
  | duckStep (bed : Fin 4) (f : Nat)
  /-- The profile interval event of an axis, with the levels of its HOME and LIMIT inputs (R146). -/
  | profileIntervalEvent (axis : Fin 8) (home limit : Bool)
  /-- The motion frame events of show frame f (R146). -/
  | motionFrameEvent (f : Nat)
  /-- The resume wait of an axis ends in show frame f (R160). -/
  | resumeWaitExpiry (axis : Fin 8) (f : Nat)
  /-- The input sample of show frame f (R165). -/
  | inputSample (levels : InputLevels) (f : Nat)
  /-- A zone becomes OCCUPIED from ENTERING in show frame f (R168). -/
  | zoneBecomesOccupied (zone : Fin 12) (f : Nat)
  /-- A zone becomes CLEAR from EMPTYING in show frame f (R168). -/
  | zoneBecomesClear (zone : Fin 12) (f : Nat)
  /-- A button is pressed in show frame f (R173). -/
  | press (button : Fin 16) (f : Nat)
  /-- A button is released in show frame f (R172). -/
  | buttonRelease (button : Fin 16) (f : Nat)
  /-- The acknowledge flash of a lamp ends in show frame f (R176). -/
  | flashEnd (lamp : Fin 16) (f : Nat)
  /-- A byte is received; `stopOk` is false for a stop error (R182). -/
  | byteReceived (b : Byte) (stopOk : Bool)
  /-- Power-on reset or RESET_n is asserted (R12, R181). -/
  | resetBegins
  /-- The Scene Engine counts patience and cooldown in show frame f (R31, R34). -/
  | patienceAndCooldownCount (f : Nat)
  deriving DecidableEq, Repr

end Sys2Proof
end

