-- ==== Sys2Proof/Decode.lean ====
section
/-! DEFINITION. The part has no instruction word: spec/opcode_table.json gives no row any bits, so no word
spells a command. The byte layouts that the part does decode (link frames, request payloads, records, the show
image) are in Machine/Bytes.lean, Machine/Codec.lean, Machine/Operands.lean and Machine/Loading.lean. -/

namespace Sys2Proof

/-- The command that a word spells by the table's bits: no row of the table gives bits, so none. -/
def decodeTableWord (_nbits _w : Nat) : Option Instr := none

end Sys2Proof
end

