-- ==== Sys2Proof/Config.lean ====
section
/-! DEFINITION. The numbers that the manual fixes for the part, and its two free values: constants with no body, so that a
claim about the part holds whatever they are. -/

namespace Sys2Proof.Config

/-- R188: the family and part number. -/
def partNumber : Nat := 7240
/-- R188: the silicon revision of the manual. -/
def siliconRevision : Nat := 1
/-- Section 4.5 of 00_scope.md: the acknowledge flash SHORT, in show frames. -/
def flashShort : Nat := 25
/-- Section 4.5 of 00_scope.md: the acknowledge flash LONG, in show frames. -/
def flashLong : Nat := 100
/-- R126: the fixed gain of every voice. -/
def voiceGain : Nat := 255
/-- Section 2.5: the most entries the pending queue holds. -/
def queueMax : Nat := 16
/-- R44: the most cues a player executes in one frame event. -/
def cueLimit : Nat := 16
/-- R53: the most open loops of a player. -/
def loopMax : Nat := 4
/-- R183: the most requests that wait in the request queue. -/
def requestMax : Nat := 4
/-- R185: the most BUSY replies in the reply list. -/
def busyMax : Nat := 4
/-- R186: the most reports in the report queue. -/
def reportMax : Nat := 32
/-- R31: the patience that does not count. -/
def patienceForever : Nat := 65535
/-- R130: the stall frames at which a stalled voice ends. -/
def stallLimit : Nat := 50
/-- R131: the fade stage at which a fade-out has ended. -/
def fadeStages : Nat := 8
/-- R124: the highest buffer fill at which a stream requests. -/
def requestFill : Nat := 256
/-- R122: the most bytes of one burst. -/
def burstBytes : Nat := 64
/-- R127, R134: the fill that ends PRIMING. -/
def primedFill : Nat := 256
/-- R129, R135: the fill that ends STALLED. -/
def resumeFill : Nat := 128
/-- R105: the counts of one PWM period. -/
def pwmCounts : Nat := 4096
/-- R105: the counts of one phase slot. -/
def slotCounts : Nat := 512
/-- R107: the flicker register after reset. -/
def flickerSeed : BitVec 16 := 0xACE1
/-- R13: the bytes of the image header. -/
def headerBytes : Nat := 12
/-- R192: the payload bytes of a TABLE READ reply left for records. -/
def readBytes : Nat := 197
/-- R122: the bytes that the 26 bits of a flash address reach. -/
def flashBytes : Nat := 67108864

/-! ### Free values -/

/-- FREE VALUE (log entry 26): whether a HOME that finds an axis HOMING makes it STOPPING, as R155 says, or lets its homing
go on, as R148 says. -/
opaque homeStopsHoming : Bool
/-- FREE VALUE (log entry 28): the flash cursor of 26 bits (R126) that has advanced to `n`, past the last byte of the
flash. -/
opaque cursorPastFlash (n : Nat) : BitVec 26

end Sys2Proof.Config
end

