-- ==== Sys2Proof/Machine/Bytes.lean ====
section
/-! DEFINITION. The encoding of numbers as bytes, on the link and in the show image alike (R191). -/

namespace Sys2Proof.Machine

/-- A 1-byte number. -/
def put8 (n : Nat) : List Byte := [BitVec.ofNat 8 n]

/-- A 2-byte number, least significant byte first (R191). -/
def put16 (n : Nat) : List Byte := [BitVec.ofNat 8 n, BitVec.ofNat 8 (n / 256)]

/-- A 3-byte number, least significant byte first (the length of a clip variant). -/
def put24 (n : Nat) : List Byte := put16 n ++ [BitVec.ofNat 8 (n / 65536)]

/-- A 4-byte number, least significant byte first. -/
def put32 (n : Nat) : List Byte := put16 n ++ put16 (n / 65536)

/-- A signed 4-byte number in two's complement (R191). -/
def putS32 (i : Int) : List Byte := put32 (i % 4294967296).toNat

/-- A flag or presence byte: 1 when set, 0 when clear (R191). -/
def putFlag (b : Bool) : List Byte := [if b then 1 else 0]

/-- An optional field of width `w`: its presence byte and then its bytes, or zeros when absent (R191). -/
def putOpt {α : Type} (w : Nat) (enc : α → List Byte) : Option α → List Byte
  | none => 0 :: List.replicate w 0
  | some x => 1 :: enc x

/-- A 1-byte index or NONE, UNUSED, AUTO or DEFAULT, coded 0xFF (R191). -/
def putIndex {n : Nat} : Option (Fin n) → List Byte
  | none => [0xFF]
  | some i => put8 i.val

/-- A list of varying length: a count byte and then its entries (R191). -/
def putList {α : Type} (enc : α → List Byte) (xs : List α) : List Byte :=
  put8 xs.length ++ (xs.map enc).flatten

/-- The byte at an offset of a record or payload. -/
def byteAt (bs : List Byte) (k : Nat) : Nat := (bs.getD k 0).toNat

/-- The 2-byte number at an offset. -/
def get16 (bs : List Byte) (k : Nat) : Nat := byteAt bs k + 256 * byteAt bs (k + 1)

/-- The 3-byte number at an offset. -/
def get24 (bs : List Byte) (k : Nat) : Nat := get16 bs k + 65536 * byteAt bs (k + 2)

/-- The 4-byte number at an offset. -/
def get32 (bs : List Byte) (k : Nat) : Nat := get16 bs k + 65536 * get16 bs (k + 2)

/-- The signed 4-byte number at an offset (R191). -/
def getS32 (bs : List Byte) (k : Nat) : Int :=
  let n := get32 bs k
  if n < 2147483648 then (n : Int) else (n : Int) - 4294967296

/-- The flag in one bit of the byte at an offset; the bits that a layout does not name are ignored (R191). -/
def getBit (bs : List Byte) (k bit : Nat) : Bool := (bs.getD k 0).getLsbD bit

/-- An index below `n`, or nothing when the number lies outside the range (R3). -/
def index? (n k : Nat) : Option (Fin n) := if h : k < n then some ⟨k, h⟩ else none

/-- An index below `n` or the code 0xFF of NONE, UNUSED, AUTO or DEFAULT; nothing when the number is neither. -/
def indexOrNone? (n k : Nat) : Option (Option (Fin n)) :=
  if k = 255 then some none else (index? n k).map some

end Sys2Proof.Machine
end

