-- ==== Sys2Proof/Machine/Records.lean ====
section
/-! DEFINITION. The records of the show tables with their empty records (R2), the sparse table that holds them,
and the store of all tables (R1). -/

namespace Sys2Proof.Machine

/-- What raises a trigger (section 2.3); BUTTON, ZONE_ENTRY and ZONE_CLEAR may stand in a scene record. -/
inductive Source where
  | button (b : Fin 16)
  | zoneEntry (z : Fin 12)
  | zoneClear (z : Fin 12)
  | link
  | again
  deriving DecidableEq, Repr

inductive Retrigger where
  | ignore | restart | queue
  deriving DecidableEq, Repr

/-- R19: a scene record. -/
structure SceneRec where
  enabled : Bool
  priority : Nat
  sources : List Source
  zone : Option (Fin 12)
  firstCue : Fin 2048
  retrigger : Retrigger
  cooldown : Nat
  patience : Nat
  groupMask : BitVec 16
  axisMask : BitVec 8
  narration : Bool
  deriving DecidableEq, Repr

def SceneRec.empty : SceneRec :=
  ⟨false, 1, [], none, 0, .ignore, 0, 0, 0, 0, false⟩

/-- R42: the fourteen cue kinds, in the order of their codes. -/
inductive CueKind where
  | light | level | master | say | hush | move | home | await | loop | next | lamp | mark | goto | finish
  deriving DecidableEq, Repr

/-- R42: a cue record; the six operand bytes are stored as written. -/
structure CueRec where
  delay : Nat
  kind : CueKind
  operands : Vector Byte 6
  deriving DecidableEq, Repr

def CueRec.empty : CueRec := ⟨0, .finish, Vector.replicate 6 0⟩

/-- R82: a look's range of the look pool. -/
structure LookRec where
  first : Nat
  count : Nat
  deriving DecidableEq, Repr

def LookRec.empty : LookRec := ⟨0, 0⟩

/-- R82: one entry of the look pool. -/
structure PoolRec where
  channel : Fin 48
  level : Nat
  deriving DecidableEq, Repr

def PoolRec.empty : PoolRec := ⟨0, 0⟩

inductive OutputCurve where
  | linear | square
  deriving DecidableEq, Repr

inductive Combine where
  | and | or
  deriving DecidableEq, Repr

inductive Alignment where
  | edge | centre
  deriving DecidableEq, Repr

/-- R80, R101, R105: a channel record. `slot` none is AUTO. -/
structure ChannelRec where
  group : Fin 16
  curve : OutputCurve
  floor : Nat
  ceiling : Nat
  house : Nat
  participates : Bool
  carrier : Option (Fin 4)
  combine : Combine
  align : Alignment
  slot : Option (Fin 8)
  deriving DecidableEq, Repr

def ChannelRec.empty : ChannelRec :=
  ⟨0, .linear, 0, 4095, 4095, true, none, .and, .edge, none⟩

/-- R111: a group record. -/
structure GroupRec where
  attract : Bool
  returnFade : Nat
  deriving DecidableEq, Repr

def GroupRec.empty : GroupRec := ⟨false, 100⟩

inductive CarrierMode where
  | off | square | flicker
  deriving DecidableEq, Repr

/-- R107: a carrier record. -/
structure CarrierRec where
  mode : CarrierMode
  period : Nat
  onFrames : Nat
  deriving DecidableEq, Repr

def CarrierRec.empty : CarrierRec := ⟨.off, 2, 1⟩

/-- Section 6.4: one slot of the attract table. -/
structure SlotRec where
  look : Fin 128
  hold : Nat
  fade : Nat
  deriving DecidableEq, Repr

def SlotRec.empty : SlotRec := ⟨0, 1, 0⟩

/-- R121: one variant of a clip. -/
structure Variant where
  language : Fin 4
  address : Nat
  length : Nat
  deriving DecidableEq, Repr

/-- R121: a clip directory record. -/
structure ClipRec where
  variants : List Variant
  loop : Bool
  deriving DecidableEq, Repr

def ClipRec.empty : ClipRec := ⟨[⟨0, 0, 1⟩], false⟩

/-- R133: a bed record of the bed table. -/
structure BedRec where
  clip : Option (Fin 256)
  gain : Nat
  duck : Nat
  step : Nat
  deriving DecidableEq, Repr

def BedRec.empty : BedRec := ⟨none, 255, 255, 10⟩

/-- R167, R170: a zone record. -/
structure ZoneRec where
  entry : Nat
  clear : Nat
  language : Fin 4
  languages : BitVec 4
  output : Fin 4
  deriving DecidableEq, Repr

def ZoneRec.empty : ZoneRec := ⟨5, 200, 0, 1, 0⟩

/-- R165: a sensor entry of the input map; `zone` none is UNUSED. -/
structure SensorRec where
  zone : Option (Fin 12)
  activeLow : Bool
  deriving DecidableEq, Repr

def SensorRec.empty : SensorRec := ⟨none, false⟩

/-- R173: a button's function. -/
inductive ButtonFunction where
  | scene
  | language (z : Fin 12)
  deriving DecidableEq, Repr

/-- R172 to R176: a button entry of the input map. -/
structure ButtonRec where
  debounce : Nat
  function : ButtonFunction
  ackLong : Bool
  manual : Bool
  deriving DecidableEq, Repr

def ButtonRec.empty : ButtonRec := ⟨3, .scene, false, false⟩

/-- R147, R154, R159, R160: an axis record. -/
structure AxisRec where
  minPos : Int
  maxPos : Int
  homeRate : Nat
  guard : Option (Fin 12)
  resume : Nat
  profile : Fin 16
  deriving DecidableEq, Repr

def AxisRec.empty : AxisRec := ⟨0, 0, 200, none, 100, 0⟩

/-- Section 8.3: a profile record. -/
structure ProfileRec where
  top : Nat
  accel : Nat
  deriving DecidableEq, Repr

def ProfileRec.empty : ProfileRec := ⟨1000, 10⟩

/-- A table of records: the entries that differ from the empty record, in rising index order. An entry that is
not listed holds the empty record, so every entry holds one complete record at all times (R1). -/
abbrev Table (α : Type) := List (Nat × α)

/-- The record at an index; `d` is the table's empty record. -/
def Table.read {α : Type} (d : α) : List (Nat × α) → Nat → α
  | [], _ => d
  | (k, x) :: rest, i => if k = i then x else Table.read d rest i

/-- Puts a record in its place by rising index. -/
def Table.place {α : Type} (i : Nat) (x : α) : List (Nat × α) → List (Nat × α)
  | [] => [(i, x)]
  | (k, y) :: rest =>
    if i < k then (i, x) :: (k, y) :: rest
    else if k = i then (i, x) :: rest
    else (k, y) :: Table.place i x rest

/-- Takes an index out of the listing. -/
def Table.drop {α : Type} (i : Nat) : List (Nat × α) → List (Nat × α)
  | [] => []
  | (k, y) :: rest => if k = i then Table.drop i rest else (k, y) :: Table.drop i rest

/-- Replaces the record at an index whole (R1). Writing the empty record removes the entry from the listing. -/
def Table.write {α : Type} [DecidableEq α] (d : α) (t : List (Nat × α)) (i : Nat) (x : α) : List (Nat × α) :=
  if x = d then Table.drop i t else Table.place i x t

/-- The one canonical form of a table: indices rising from at least `low`, no entry equal to the empty record. -/
def Table.wfFrom {α : Type} [DecidableEq α] (d : α) : Nat → List (Nat × α) → Bool
  | _, [] => true
  | low, (k, x) :: rest => decide (low ≤ k) && decide (x ≠ d) && Table.wfFrom d (k + 1) rest

/-- The one canonical form of a table. -/
def Table.wf {α : Type} [DecidableEq α] (d : α) (t : List (Nat × α)) : Bool := Table.wfFrom d 0 t

/-- R1: the show tables. The attract header and slots, and the sensor and button entries of the input map, are
held apart because their records differ; table ids 7 and 11 address both halves. -/
structure Tables where
  scenes : List (Nat × SceneRec)
  cues : List (Nat × CueRec)
  looks : List (Nat × LookRec)
  pool : List (Nat × PoolRec)
  channels : List (Nat × ChannelRec)
  groups : List (Nat × GroupRec)
  carriers : List (Nat × CarrierRec)
  slotCount : Nat
  slots : List (Nat × SlotRec)
  clips : List (Nat × ClipRec)
  beds : List (Nat × BedRec)
  zones : List (Nat × ZoneRec)
  sensors : List (Nat × SensorRec)
  buttons : List (Nat × ButtonRec)
  axes : List (Nat × AxisRec)
  profiles : List (Nat × ProfileRec)
  deriving DecidableEq, Repr

/-- R2: every table at its empty records. -/
def Tables.empty : Tables := ⟨[], [], [], [], [], [], [], 0, [], [], [], [], [], [], [], []⟩

def Tables.scene (t : Tables) (i : Fin 64) : SceneRec := Table.read SceneRec.empty t.scenes i
def Tables.cue (t : Tables) (i : Fin 2048) : CueRec := Table.read CueRec.empty t.cues i
def Tables.look (t : Tables) (i : Fin 128) : LookRec := Table.read LookRec.empty t.looks i
def Tables.poolEntry (t : Tables) (i : Nat) : PoolRec := Table.read PoolRec.empty t.pool i
def Tables.channel (t : Tables) (i : Fin 48) : ChannelRec := Table.read ChannelRec.empty t.channels i
def Tables.group (t : Tables) (i : Fin 16) : GroupRec := Table.read GroupRec.empty t.groups i
def Tables.carrier (t : Tables) (i : Fin 4) : CarrierRec := Table.read CarrierRec.empty t.carriers i
def Tables.slot (t : Tables) (i : Fin 16) : SlotRec := Table.read SlotRec.empty t.slots i
def Tables.clip (t : Tables) (i : Fin 256) : ClipRec := Table.read ClipRec.empty t.clips i
def Tables.bed (t : Tables) (i : Fin 4) : BedRec := Table.read BedRec.empty t.beds i
def Tables.zone (t : Tables) (i : Fin 12) : ZoneRec := Table.read ZoneRec.empty t.zones i
def Tables.sensor (t : Tables) (i : Fin 16) : SensorRec := Table.read SensorRec.empty t.sensors i
def Tables.button (t : Tables) (i : Fin 16) : ButtonRec := Table.read ButtonRec.empty t.buttons i
def Tables.axis (t : Tables) (i : Fin 8) : AxisRec := Table.read AxisRec.empty t.axes i
def Tables.profile (t : Tables) (i : Fin 16) : ProfileRec := Table.read ProfileRec.empty t.profiles i

/-- The one canonical form of every table. -/
def Tables.wf (t : Tables) : Bool :=
  Table.wf SceneRec.empty t.scenes && Table.wf CueRec.empty t.cues && Table.wf LookRec.empty t.looks
  && Table.wf PoolRec.empty t.pool && Table.wf ChannelRec.empty t.channels && Table.wf GroupRec.empty t.groups
  && Table.wf CarrierRec.empty t.carriers && Table.wf SlotRec.empty t.slots && Table.wf ClipRec.empty t.clips
  && Table.wf BedRec.empty t.beds && Table.wf ZoneRec.empty t.zones && Table.wf SensorRec.empty t.sensors
  && Table.wf ButtonRec.empty t.buttons && Table.wf AxisRec.empty t.axes && Table.wf ProfileRec.empty t.profiles

/-- Section 1.1: the entries of each table id. -/
def tableEntries (t : Fin 14) : Nat :=
  [64, 2048, 128, 4096, 48, 16, 4, 17, 256, 4, 12, 32, 8, 16].getD t 0

/-- Section 11.5: the record size of each table id, in bytes. -/
def recordSize (t : Fin 14) : Nat :=
  [18, 9, 3, 2, 10, 3, 3, 4, 34, 5, 6, 4, 14, 4].getD t 0

end Sys2Proof.Machine
end

