-- ==== Sys2Proof/Machine/Codec.lean ====
section
/-! DEFINITION. The byte layouts of the show-table records (section 11.5), the record check (R3, R42) and the
clamp (R4). A decoder answers nothing for a record that the check refuses; `put` gives the bytes that TABLE READ
returns. -/

namespace Sys2Proof.Machine

/-- A number, when it lies in a range (R3). -/
def inRange? (lo hi n : Nat) : Option Nat := if lo ≤ n ∧ n ≤ hi then some n else none

/-! ### Scene table -/

def Retrigger.code : Retrigger → Nat
  | .ignore => 0 | .restart => 1 | .queue => 2

def Retrigger.ofCode? : Nat → Option Retrigger
  | 0 => some .ignore | 1 => some .restart | 2 => some .queue | _ => none

/-- Section 11.2: the trigger source code. -/
def Source.kindCode : Source → Nat
  | .button _ => 0 | .zoneEntry _ => 1 | .zoneClear _ => 2 | .link => 3 | .again => 4

/-- R193: the source number is the button or zone, and 0 for LINK and AGAIN. -/
def Source.number : Source → Nat
  | .button b => b | .zoneEntry z => z | .zoneClear z => z | .link => 0 | .again => 0

def Source.put (s : Source) : List Byte := put8 s.kindCode ++ put8 s.number

/-- R3: a source of a scene record is BUTTON, ZONE_ENTRY or ZONE_CLEAR with its number in range. -/
def Source.ofCodes? (kind number : Nat) : Option Source :=
  match kind with
  | 0 => (index? 16 number).map .button
  | 1 => (index? 12 number).map .zoneEntry
  | 2 => (index? 12 number).map .zoneClear
  | _ => none

/-- The sources named by the source count; the entries beyond it are not checked (R3). -/
def sources? (bs : List Byte) : Option (List Source) :=
  match byteAt bs 13 with
  | 0 => some []
  | 1 => do
    let a ← Source.ofCodes? (byteAt bs 14) (byteAt bs 15)
    some [a]
  | 2 => do
    let a ← Source.ofCodes? (byteAt bs 14) (byteAt bs 15)
    let b ← Source.ofCodes? (byteAt bs 16) (byteAt bs 17)
    some [a, b]
  | _ => none

/-- The two source entries; an entry beyond the count reads back as 0 (R191). -/
def putSources : List Source → List Byte
  | [] => [0, 0, 0, 0, 0]
  | [a] => [1] ++ a.put ++ [0, 0]
  | a :: b :: _ => [2] ++ a.put ++ b.put

def SceneRec.put (r : SceneRec) : List Byte :=
  [BitVec.ofNat 8 ((if r.enabled then 1 else 0) + (if r.narration then 2 else 0))]
  ++ put8 r.priority ++ put8 r.retrigger.code ++ putIndex r.zone ++ put16 r.firstCue ++ put16 r.cooldown
  ++ put16 r.patience ++ put16 r.groupMask.toNat ++ put8 r.axisMask.toNat ++ putSources r.sources

def SceneRec.decode? (bs : List Byte) : Option SceneRec := do
  let priority ← inRange? 1 7 (byteAt bs 1)
  let retrigger ← Retrigger.ofCode? (byteAt bs 2)
  let zone ← indexOrNone? 12 (byteAt bs 3)
  let firstCue ← index? 2048 (get16 bs 4)
  let sources ← sources? bs
  some { enabled := getBit bs 0 0, priority, sources, zone, firstCue, retrigger,
         cooldown := get16 bs 6, patience := get16 bs 8, groupMask := BitVec.ofNat 16 (get16 bs 10),
         axisMask := BitVec.ofNat 8 (byteAt bs 12), narration := getBit bs 0 1 }

/-! ### Cue store -/

/-- R50, R51: an await condition with its operand. -/
inductive AwaitCond where
  | voiceDone
  | axisDone (a : Fin 8)
  | axesDone
  | zoneClear (z : Fin 12)
  | zoneOccupied (z : Fin 12)
  | button (b : Fin 16)
  deriving DecidableEq, Repr

/-- Section 9.5: a lamp's mode. -/
inductive LampMode where
  | off | on | slow | fast | auto
  deriving DecidableEq, Repr

/-- R84: the shape of a channel fade. -/
inductive FadeCurve where
  | linear | stepped8
  deriving DecidableEq, Repr

/-- R42: a cue with its operands read out. -/
inductive Cue where
  | light (look : Fin 128) (mask : BitVec 16) (fade : Nat) (curve : FadeCurve)
  | level (channel : Fin 48) (level fade : Nat)
  | master (group : Fin 16) (level fade : Nat)
  | say (clip : Fin 256)
  | hush
  /-- `profile` none is DEFAULT. -/
  | move (axis : Fin 8) (position : Int) (profile : Option (Fin 16))
  | home (axis : Fin 8)
  /-- `timeout` 0 is none; `operand` is the operand byte as written. -/
  | await (cond : AwaitCond) (operand : Byte) (timeout : Nat) (target : Fin 2048)
  | loop (count : Nat)
  | next
  | lamp (button : Fin 16) (mode : LampMode)
  | mark (code : Nat)
  | goto (cue : Nat)
  | finish
  deriving DecidableEq, Repr

def CueKind.code : CueKind → Nat
  | .light => 0 | .level => 1 | .master => 2 | .say => 3 | .hush => 4 | .move => 5 | .home => 6
  | .await => 7 | .loop => 8 | .next => 9 | .lamp => 10 | .mark => 11 | .goto => 12 | .finish => 13

def CueKind.ofCode? : Nat → Option CueKind
  | 0 => some .light | 1 => some .level | 2 => some .master | 3 => some .say | 4 => some .hush
  | 5 => some .move | 6 => some .home | 7 => some .await | 8 => some .loop | 9 => some .next
  | 10 => some .lamp | 11 => some .mark | 12 => some .goto | 13 => some .finish | _ => none

def AwaitCond.code : AwaitCond → Nat
  | .voiceDone => 0 | .axisDone _ => 1 | .axesDone => 2 | .zoneClear _ => 3 | .zoneOccupied _ => 4 | .button _ => 5

/-- R42: the operand is ignored for VOICE_DONE and AXES_DONE. -/
def AwaitCond.ofCodes? (cond operand : Nat) : Option AwaitCond :=
  match cond with
  | 0 => some .voiceDone
  | 1 => (index? 8 operand).map .axisDone
  | 2 => some .axesDone
  | 3 => (index? 12 operand).map .zoneClear
  | 4 => (index? 12 operand).map .zoneOccupied
  | 5 => (index? 16 operand).map .button
  | _ => none

/-- R174, R191: the code of a lamp's mode, with AUTO 0xFF, in the reply of QUERY zone. -/
def LampMode.code : LampMode → Nat
  | .off => 0 | .on => 1 | .slow => 2 | .fast => 3 | .auto => 0xFF

/-- R42, R56, R191: a lamp's mode from its code, with AUTO 0xFF, in a LAMP cue record (log entry 29). -/
def LampMode.ofCode? : Nat → Option LampMode
  | 0 => some .off | 1 => some .on | 2 => some .slow | 3 => some .fast | 0xFF => some .auto | _ => none

def FadeCurve.code : FadeCurve → Nat
  | .linear => 0 | .stepped8 => 1

def FadeCurve.ofCode? : Nat → Option FadeCurve
  | 0 => some .linear | 1 => some .stepped8 | _ => none

/-- R42, R163: a position of −1,000,000 to 1,000,000 steps. -/
def position? (i : Int) : Option Int := if -1000000 ≤ i ∧ i ≤ 1000000 then some i else none

/-- R42: the cue that a record holds, or nothing when an operand lies outside its range. -/
def CueRec.cue? (r : CueRec) : Option Cue :=
  let bs := r.operands.toList
  match r.kind with
  | .light => do
    let look ← index? 128 (byteAt bs 0)
    let curve ← FadeCurve.ofCode? (byteAt bs 5)
    some (.light look (BitVec.ofNat 16 (get16 bs 1)) (get16 bs 3) curve)
  | .level => do
    let channel ← index? 48 (byteAt bs 0)
    some (.level channel (byteAt bs 1) (get16 bs 2))
  | .master => do
    let group ← index? 16 (byteAt bs 0)
    some (.master group (byteAt bs 1) (get16 bs 2))
  | .say => (index? 256 (byteAt bs 0)).map .say
  | .hush => some .hush
  | .move => do
    let axis ← index? 8 (byteAt bs 0)
    let position ← position? (getS32 bs 1)
    let profile ← indexOrNone? 16 (byteAt bs 5)
    some (.move axis position profile)
  | .home => (index? 8 (byteAt bs 0)).map .home
  | .await => do
    let cond ← AwaitCond.ofCodes? (byteAt bs 0) (byteAt bs 1)
    let target ← index? 2048 (get16 bs 4)
    some (.await cond (bs.getD 1 0) (get16 bs 2) target)
  | .loop => some (.loop (byteAt bs 0))
  | .next => some .next
  | .lamp => do
    let button ← index? 16 (byteAt bs 0)
    let mode ← LampMode.ofCode? (byteAt bs 1)
    some (.lamp button mode)
  | .mark => some (.mark (byteAt bs 0))
  | .goto => some (.goto (get16 bs 0))
  | .finish => some .finish

def CueRec.put (r : CueRec) : List Byte := put16 r.delay ++ put8 r.kind.code ++ r.operands.toList

/-- R3, R42: a cue of no kind, or with an operand out of range, is refused; the bytes are stored as written. -/
def CueRec.decode? (bs : List Byte) : Option CueRec := do
  let kind ← CueKind.ofCode? (byteAt bs 2)
  let r : CueRec :=
    { delay := get16 bs 0, kind,
      operands := #v[bs.getD 3 0, bs.getD 4 0, bs.getD 5 0, bs.getD 6 0, bs.getD 7 0, bs.getD 8 0] }
  let _ ← r.cue?
  some r

/-! ### Look table and look pool -/

def LookRec.put (r : LookRec) : List Byte := put16 r.first ++ put8 r.count

def LookRec.decode? (bs : List Byte) : Option LookRec := do
  let first ← inRange? 0 4095 (get16 bs 0)
  let count ← inRange? 0 48 (byteAt bs 2)
  if first + count ≤ 4096 then some ⟨first, count⟩ else none

def PoolRec.put (r : PoolRec) : List Byte := put8 r.channel ++ put8 r.level

def PoolRec.decode? (bs : List Byte) : Option PoolRec := do
  let channel ← index? 48 (byteAt bs 0)
  some ⟨channel, byteAt bs 1⟩

/-! ### Channel, group, carrier and attract tables -/

def ChannelRec.put (r : ChannelRec) : List Byte :=
  put8 r.group
  ++ [BitVec.ofNat 8 ((if r.curve = .square then 1 else 0) + (if r.participates then 0 else 2)
      + (if r.combine = .or then 4 else 0) + (if r.align = .centre then 8 else 0))]
  ++ put16 r.floor ++ put16 r.ceiling ++ put16 r.house ++ putIndex r.carrier ++ putIndex r.slot

def ChannelRec.decode? (bs : List Byte) : Option ChannelRec := do
  let group ← index? 16 (byteAt bs 0)
  let floor ← inRange? 0 4095 (get16 bs 2)
  let ceiling ← inRange? 0 4095 (get16 bs 4)
  let house ← inRange? 0 4095 (get16 bs 6)
  let carrier ← indexOrNone? 4 (byteAt bs 8)
  let slot ← indexOrNone? 8 (byteAt bs 9)
  some { group, floor, ceiling, house, carrier, slot,
         curve := if getBit bs 1 0 then .square else .linear, participates := !getBit bs 1 1,
         combine := if getBit bs 1 2 then .or else .and, align := if getBit bs 1 3 then .centre else .edge }

/-- R4: a ceiling below the floor is stored equal to the floor. -/
def ChannelRec.clamp (r : ChannelRec) : ChannelRec :=
  if r.ceiling < r.floor then { r with ceiling := r.floor } else r

def GroupRec.put (r : GroupRec) : List Byte := putFlag r.attract ++ put16 r.returnFade

def GroupRec.decode? (bs : List Byte) : Option GroupRec := some ⟨getBit bs 0 0, get16 bs 1⟩

def CarrierMode.code : CarrierMode → Nat
  | .off => 0 | .square => 1 | .flicker => 2

def CarrierMode.ofCode? : Nat → Option CarrierMode
  | 0 => some .off | 1 => some .square | 2 => some .flicker | _ => none

def CarrierRec.put (r : CarrierRec) : List Byte := put8 r.mode.code ++ put8 r.period ++ put8 r.onFrames

def CarrierRec.decode? (bs : List Byte) : Option CarrierRec := do
  let mode ← CarrierMode.ofCode? (byteAt bs 0)
  let period ← inRange? 2 255 (byteAt bs 1)
  let onFrames ← inRange? 1 255 (byteAt bs 2)
  some ⟨mode, period, onFrames⟩

/-- R4: on-frames equal to or greater than the period is stored as the period minus 1. -/
def CarrierRec.clamp (r : CarrierRec) : CarrierRec :=
  if r.period ≤ r.onFrames then { r with onFrames := r.period - 1 } else r

/-- The attract header; its spare bytes read back as 0 (R191). -/
def putSlotCount (n : Nat) : List Byte := put8 n ++ [0, 0, 0]

def slotCount? (bs : List Byte) : Option Nat := inRange? 0 16 (byteAt bs 0)

def SlotRec.put (r : SlotRec) : List Byte := put8 r.look ++ put8 r.hold ++ put16 r.fade

def SlotRec.decode? (bs : List Byte) : Option SlotRec := do
  let look ← index? 128 (byteAt bs 0)
  let hold ← inRange? 1 255 (byteAt bs 1)
  some ⟨look, hold, get16 bs 2⟩

/-! ### Clip directory and bed table -/

def Variant.put (v : Variant) : List Byte := put8 v.language ++ put32 v.address ++ put24 v.length

/-- R3: a variant names a language, has an address of 26 bits and a length of at least 1, and lies within one
flash chip. -/
def variantAt? (bs : List Byte) (k : Nat) : Option Variant := do
  let language ← index? 4 (byteAt bs k)
  let address ← inRange? 0 67108863 (get32 bs (k + 1))
  let length ← inRange? 1 16777215 (get24 bs (k + 5))
  if address % 16777216 + length ≤ 16777216 then some ⟨language, address, length⟩ else none

/-- The first `n` variant entries of the layout, from the offset `k`. -/
def variants? (bs : List Byte) (k : Nat) : Nat → Option (List Variant)
  | 0 => some []
  | n + 1 => do
    let v ← variantAt? bs k
    let vs ← variants? bs (k + 8) n
    some (v :: vs)

/-- The variants, and zeros for the entries beyond the count (R191). -/
def putVariants (n : Nat) (vs : List Variant) : List Byte :=
  match n, vs with
  | 0, _ => []
  | n + 1, [] => List.replicate 8 0 ++ putVariants n []
  | n + 1, v :: vs => v.put ++ putVariants n vs

def ClipRec.put (r : ClipRec) : List Byte :=
  put8 r.variants.length ++ putFlag r.loop ++ putVariants 4 r.variants

def ClipRec.decode? (bs : List Byte) : Option ClipRec := do
  let count ← inRange? 1 4 (byteAt bs 0)
  let variants ← variants? bs 2 count
  some ⟨variants, getBit bs 1 0⟩

/-- A clip number of 2 bytes, 0xFFFF for NONE (section 11.5); nothing when it is neither 0–255 nor NONE. -/
def clipOrNone? (n : Nat) : Option (Option (Fin 256)) :=
  if n = 65535 then some none else (index? 256 n).map some

def putClip : Option (Fin 256) → List Byte
  | none => [0xFF, 0xFF]
  | some c => put16 c

def BedRec.put (r : BedRec) : List Byte := putClip r.clip ++ put8 r.gain ++ put8 r.duck ++ put8 r.step

def BedRec.decode? (bs : List Byte) : Option BedRec := do
  let clip ← clipOrNone? (get16 bs 0)
  let step ← inRange? 1 255 (byteAt bs 4)
  some ⟨clip, byteAt bs 2, byteAt bs 3, step⟩

/-- R4: a duck level above the bed gain is stored equal to the bed gain. -/
def BedRec.clamp (r : BedRec) : BedRec := { r with duck := min r.duck r.gain }

/-! ### Zone table and input map -/

def ZoneRec.put (r : ZoneRec) : List Byte :=
  put8 r.entry ++ put16 r.clear ++ put8 r.language ++ put8 r.languages.toNat ++ put8 r.output

def ZoneRec.decode? (bs : List Byte) : Option ZoneRec := do
  let entry ← inRange? 1 255 (byteAt bs 0)
  let clear ← inRange? 1 65535 (get16 bs 1)
  let language ← index? 4 (byteAt bs 3)
  let output ← index? 4 (byteAt bs 5)
  let languages := BitVec.ofNat 4 (byteAt bs 4)
  if languages.getLsbD language then some ⟨entry, clear, language, languages, output⟩ else none

def SensorRec.put (r : SensorRec) : List Byte := putIndex r.zone ++ putFlag r.activeLow ++ [0, 0]

def SensorRec.decode? (bs : List Byte) : Option SensorRec := do
  let zone ← indexOrNone? 12 (byteAt bs 0)
  let polarity ← inRange? 0 1 (byteAt bs 1)
  some ⟨zone, polarity = 1⟩

/-- The function and the language zone; the zone of a SCENE button reads back as 0 (R191). -/
def ButtonFunction.put : ButtonFunction → List Byte
  | .scene => [0, 0]
  | .language z => [1] ++ put8 z

def ButtonFunction.ofCodes? (function zone : Nat) : Option ButtonFunction :=
  match function with
  | 0 => some .scene
  | 1 => (index? 12 zone).map .language
  | _ => none

def ButtonRec.put (r : ButtonRec) : List Byte :=
  put8 r.debounce ++ r.function.put
  ++ [BitVec.ofNat 8 ((if r.ackLong then 1 else 0) + (if r.manual then 2 else 0))]

def ButtonRec.decode? (bs : List Byte) : Option ButtonRec := do
  let debounce ← inRange? 1 255 (byteAt bs 0)
  let function ← ButtonFunction.ofCodes? (byteAt bs 1) (byteAt bs 2)
  some ⟨debounce, function, getBit bs 3 0, getBit bs 3 1⟩

/-! ### Axis and profile tables -/

def AxisRec.put (r : AxisRec) : List Byte :=
  putS32 r.minPos ++ putS32 r.maxPos ++ put16 r.homeRate ++ putIndex r.guard ++ put16 r.resume ++ put8 r.profile

def AxisRec.decode? (bs : List Byte) : Option AxisRec := do
  let homeRate ← inRange? 10 5000 (get16 bs 8)
  let guard ← indexOrNone? 12 (byteAt bs 10)
  let profile ← index? 16 (byteAt bs 13)
  let lo := getS32 bs 0
  let hi := getS32 bs 4
  if -1000000 ≤ lo ∧ hi ≤ 1000000 then some ⟨lo, hi, homeRate, guard, get16 bs 11, profile⟩ else none

/-- R4: a min above 0 and a max below 0 are stored as 0. -/
def AxisRec.clamp (r : AxisRec) : AxisRec := { r with minPos := min r.minPos 0, maxPos := max r.maxPos 0 }

def ProfileRec.put (r : ProfileRec) : List Byte := put16 r.top ++ put16 r.accel

def ProfileRec.decode? (bs : List Byte) : Option ProfileRec := do
  let top ← inRange? 10 20000 (get16 bs 0)
  let accel ← inRange? 1 500 (get16 bs 2)
  some ⟨top, accel⟩

/-! ### One record of any table -/

/-- The bytes of one entry as TABLE READ returns them (R7). -/
def Tables.putEntry (t : Tables) (table : Fin 14) (i : Nat) : List Byte :=
  match table with
  | 0 => (Table.read SceneRec.empty t.scenes i).put
  | 1 => (Table.read CueRec.empty t.cues i).put
  | 2 => (Table.read LookRec.empty t.looks i).put
  | 3 => (Table.read PoolRec.empty t.pool i).put
  | 4 => (Table.read ChannelRec.empty t.channels i).put
  | 5 => (Table.read GroupRec.empty t.groups i).put
  | 6 => (Table.read CarrierRec.empty t.carriers i).put
  | 7 => if i = 0 then putSlotCount t.slotCount else (Table.read SlotRec.empty t.slots (i - 1)).put
  | 8 => (Table.read ClipRec.empty t.clips i).put
  | 9 => (Table.read BedRec.empty t.beds i).put
  | 10 => (Table.read ZoneRec.empty t.zones i).put
  | 11 => if i < 16 then (Table.read SensorRec.empty t.sensors i).put
          else (Table.read ButtonRec.empty t.buttons (i - 16)).put
  | 12 => (Table.read AxisRec.empty t.axes i).put
  | 13 => (Table.read ProfileRec.empty t.profiles i).put

/-- Offers one record to an entry: checked by R3, clamped by R4 and stored, or refused. -/
def Tables.storeEntry? (t : Tables) (table : Fin 14) (i : Nat) (bs : List Byte) : Option Tables :=
  match table with
  | 0 => (SceneRec.decode? bs).map fun r => { t with scenes := Table.write SceneRec.empty t.scenes i r }
  | 1 => (CueRec.decode? bs).map fun r => { t with cues := Table.write CueRec.empty t.cues i r }
  | 2 => (LookRec.decode? bs).map fun r => { t with looks := Table.write LookRec.empty t.looks i r }
  | 3 => (PoolRec.decode? bs).map fun r => { t with pool := Table.write PoolRec.empty t.pool i r }
  | 4 => (ChannelRec.decode? bs).map fun r =>
      { t with channels := Table.write ChannelRec.empty t.channels i r.clamp }
  | 5 => (GroupRec.decode? bs).map fun r => { t with groups := Table.write GroupRec.empty t.groups i r }
  | 6 => (CarrierRec.decode? bs).map fun r =>
      { t with carriers := Table.write CarrierRec.empty t.carriers i r.clamp }
  | 7 => if i = 0 then (slotCount? bs).map fun n => { t with slotCount := n }
         else (SlotRec.decode? bs).map fun r => { t with slots := Table.write SlotRec.empty t.slots (i - 1) r }
  | 8 => (ClipRec.decode? bs).map fun r => { t with clips := Table.write ClipRec.empty t.clips i r }
  | 9 => (BedRec.decode? bs).map fun r => { t with beds := Table.write BedRec.empty t.beds i r.clamp }
  | 10 => (ZoneRec.decode? bs).map fun r => { t with zones := Table.write ZoneRec.empty t.zones i r }
  | 11 => if i < 16 then (SensorRec.decode? bs).map fun r =>
            { t with sensors := Table.write SensorRec.empty t.sensors i r }
          else (ButtonRec.decode? bs).map fun r =>
            { t with buttons := Table.write ButtonRec.empty t.buttons (i - 16) r }
  | 12 => (AxisRec.decode? bs).map fun r => { t with axes := Table.write AxisRec.empty t.axes i r.clamp }
  | 13 => (ProfileRec.decode? bs).map fun r => { t with profiles := Table.write ProfileRec.empty t.profiles i r }

end Sys2Proof.Machine
end

