-- ==== Sys2Proof/Machine/Operands.lean ====
section
/-! DEFINITION. The operands that the requests carry in their payloads (section 11.4, R192). Each reader gives
nothing when an argument lies outside the range that the request's own rule gives, which is answered BAD_ARG. -/

namespace Sys2Proof.Machine

/-- R190: a selection of QUERY with its index. -/
inductive Selection where
  | scene (i : Fin 64)
  | player (i : Fin 8)
  | queue
  | claims
  | channel (i : Fin 48)
  | group (i : Fin 16)
  | voice (i : Fin 4)
  | bed (i : Fin 4)
  | axis (i : Fin 8)
  | zone (i : Fin 12)
  deriving DecidableEq, Repr

/-- R190: the operands of QUERY. -/
def queryOperand? (bs : List Byte) : Option Selection :=
  let i := byteAt bs 1
  match byteAt bs 0 with
  | 0 => (index? 64 i).map .scene
  | 1 => (index? 8 i).map .player
  | 2 => some .queue
  | 3 => some .claims
  | 4 => (index? 48 i).map .channel
  | 5 => (index? 16 i).map .group
  | 6 => (index? 4 i).map .voice
  | 7 => (index? 4 i).map .bed
  | 8 => (index? 8 i).map .axis
  | 9 => (index? 12 i).map .zone
  | _ => none

/-- R9: the target of SHOW MODE; `true` is SHOW, `false` STANDBY. -/
def showTarget? (bs : List Byte) : Option Bool :=
  match byteAt bs 0 with
  | 1 => some false
  | 2 => some true
  | _ => none

/-- R14: the flash address of LOAD IMAGE, of 26 bits. -/
def loadAddress? (bs : List Byte) : Option Nat := inRange? 0 67108863 (get32 bs 0)

/-- R5: the operands of TABLE OPEN: table, index, auto-increment. -/
def openOperands? (bs : List Byte) : Option (Fin 14 × Nat × Bool) := do
  let t ← index? 14 (byteAt bs 0)
  if get16 bs 1 < tableEntries t then some (t, get16 bs 1, getBit bs 3 0) else none

/-- R97: the operands of SET LEVEL: channel, level, fade, curve. -/
def levelOperands? (bs : List Byte) : Option (Fin 48 × Nat × Nat × FadeCurve) := do
  let c ← index? 48 (byteAt bs 0)
  let curve ← FadeCurve.ofCode? (byteAt bs 4)
  some (c, byteAt bs 1, get16 bs 2, curve)

/-- R98: the operands of SET MASTER: group, level, fade. -/
def masterOperands? (bs : List Byte) : Option (Fin 16 × Nat × Nat) := do
  let g ← index? 16 (byteAt bs 0)
  some (g, byteAt bs 1, get16 bs 2)

/-- R138: the operands of SET BED: output, clip, gain. -/
def bedOperands? (bs : List Byte) : Option (Fin 4 × Option (Fin 256) × Nat) := do
  let o ← index? 4 (byteAt bs 0)
  let clip ← clipOrNone? (get16 bs 1)
  some (o, clip, byteAt bs 3)

/-- R177: the operands of SET LANGUAGE: zone, language; the language set is checked apart. -/
def languageOperands? (bs : List Byte) : Option (Fin 12 × Fin 4) := do
  let z ← index? 12 (byteAt bs 0)
  let l ← index? 4 (byteAt bs 1)
  some (z, l)

/-- R192: the codes of the modes that SET LAMP gives for its own operand, with AUTO 4 (log entry 29). -/
def LampMode.ofRequestCode? : Nat → Option LampMode
  | 0 => some .off | 1 => some .on | 2 => some .slow | 3 => some .fast | 4 => some .auto | _ => none

/-- R178: the operands of SET LAMP: button, mode. -/
def lampOperands? (bs : List Byte) : Option (Fin 16 × LampMode) := do
  let b ← index? 16 (byteAt bs 0)
  let mode ← LampMode.ofRequestCode? (byteAt bs 1)
  some (b, mode)

/-- R163: the operands of MOVE AXIS: axis, position, profile (none is DEFAULT). -/
def moveOperands? (bs : List Byte) : Option (Fin 8 × Int × Option (Fin 16)) := do
  let a ← index? 8 (byteAt bs 0)
  let position ← position? (getS32 bs 1)
  let profile ← indexOrNone? 16 (byteAt bs 5)
  some (a, position, profile)

/-- R36, R37: the scene of TRIGGER and CANCEL. -/
def sceneOperand? (bs : List Byte) : Option (Fin 64) := index? 64 (byteAt bs 0)

/-- R75, R76: the group of HOLD GROUP and FREE GROUP. -/
def groupOperand? (bs : List Byte) : Option (Fin 16) := index? 16 (byteAt bs 0)

/-- R163: the axis of HOME AXIS. -/
def axisOperand? (bs : List Byte) : Option (Fin 8) := index? 8 (byteAt bs 0)

/-- R187: the threshold of REPORT LEVEL. -/
def thresholdOperand? (bs : List Byte) : Option Nat := inRange? 0 3 (byteAt bs 0)

/-- R7: the count of TABLE READ. -/
def countOperand? (bs : List Byte) : Option Nat := inRange? 1 255 (byteAt bs 0)

end Sys2Proof.Machine
end

