-- ==== Sys2Proof/Machine/Runtime.lean ====
section
/-! DEFINITION. The runtime state of the seven blocks, as plain data, with the reset values of each piece
(R12: what every block holds when power-on reset ends). -/

namespace Sys2Proof.Machine

/-! ### Enumerations of reports and replies -/

/-- R58: why a player was stopped, in the order of the codes of section 11.2. -/
inductive StopReason where
  | finish | cancelled | preempted | restarted | standby | estop | axisFault | cueError
  deriving DecidableEq, Repr

/-- R28, R30, R31, R37: why a trigger was dropped. -/
inductive DropReason where
  | noWait | full | evicted | patience | cancelled
  deriving DecidableEq, Repr

/-- R23, R24, R28: the outcome of a trigger. -/
inductive TriggerOutcome where
  | started | pending | alreadyPending | ignored | restarted | queuedAgain | cooldown | disabled | dropped | house
  deriving DecidableEq, Repr

/-- R184: the status of a reply. -/
inductive Status where
  | ok | unknown | badLength | badArg | wrongState | notOwner | busy
  deriving DecidableEq, Repr

/-- R15, R16: why a load failed. -/
inductive LoadCause where
  | tag | length | count | crc | table | overrun | entry
  deriving DecidableEq, Repr

/-- R17: the load status. -/
inductive LoadStatus where
  | none | verifying | applying | done
  | failed (cause : LoadCause)
  deriving DecidableEq, Repr

/-- R8: the show state; `running` is SHOW. -/
inductive ShowState where
  | loading | standby | running
  deriving DecidableEq, Repr

/-- R188: the start cause. -/
inductive StartCause where
  | powerOn | resetPin | softReset
  deriving DecidableEq, Repr

/-- R166: a zone's state. -/
inductive ZoneState where
  | clear | entering | occupied | emptying
  deriving DecidableEq, Repr

/-- R144: the fault cause of an axis. -/
inductive AxisCause where
  | limit | homeNotFound | estop
  deriving DecidableEq, Repr

/-! ### Link Interface -/

/-- R193: the reports with their content. -/
inductive Report where
  | mark (code : Nat) (scene : Fin 64) (player : Fin 8) (cue : Fin 2048)
  | zoneState (zone : Fin 12) (state : ZoneState)
  | axisHomed (axis : Fin 8) (owner : Option (Fin 8))
  | sceneStarted (scene : Fin 64) (player : Fin 8) (priority : Nat) (source : Source)
  | sceneEnded (scene : Fin 64) (player : Fin 8) (reason : StopReason) (cue : Fin 2048)
  | triggerDropped (scene : Fin 64) (reason : DropReason) (source : Source)
  | voiceUnderrun (voice : Fin 4) (owner : Option (Fin 8)) (scene : Option (Fin 64)) (clip : Option (Fin 256))
      (language : Option (Fin 4)) (left : Nat)
  | loadDone (address sections : Nat)
  | loadFailed (cause : LoadCause) (address : Nat) (sect entry : Option Nat)
  | axisFault (axis : Fin 8) (cause : AxisCause) (position : Int) (owner : Option (Fin 8))
      (scene : Option (Fin 64))
  | house (asserted : Bool)
  | estop (asserted : Bool)
  deriving DecidableEq, Repr

/-- R183: a waiting request. -/
structure Request where
  kind : Byte
  payload : List Byte
  deriving DecidableEq, Repr

/-- R185: a waiting reply; `busy` tells a BUSY reply from the reply of an executed request. -/
structure Reply where
  kind : Byte
  payload : List Byte
  busy : Bool
  deriving DecidableEq, Repr

/-- R182: the receiver's state. -/
inductive ReceiverState where
  | hunt | length | body | check
  deriving DecidableEq, Repr

/-- R182: the receiver. The gap timer runs exactly outside HUNT, so it needs no field (log entry 6). -/
structure Receiver where
  state : ReceiverState
  length : Nat
  body : List Byte
  sum : Byte
  deriving DecidableEq, Repr

def Receiver.reset : Receiver := ⟨.hunt, 0, [], 0⟩

/-- R5: the table cursor. -/
structure Cursor where
  table : Fin 14
  index : Nat
  auto : Bool
  deriving DecidableEq, Repr

def Cursor.reset : Cursor := ⟨0, 0, false⟩

/-- Chapter 10: the Link Interface. -/
structure Link where
  receiver : Receiver
  requests : List Request
  replies : List Reply
  /-- The frame being sent, from its sync byte; none when the transmitter is idle (R185). -/
  sending : Option (List Byte)
  reports : List Report
  lost : Bool
  threshold : Nat
  cursor : Cursor
  /-- The baud strap as sampled: 1,000,000 baud when set (R181). -/
  fastBaud : Bool
  mode1 : Bool
  mode0 : Bool
  cause : StartCause
  deriving DecidableEq, Repr

def Link.reset : Link :=
  ⟨Receiver.reset, [], [], none, [], false, 0, Cursor.reset, false, false, false, .powerOn⟩

/-! ### Show Store -/

/-- R17: the show state that a successful load ends in. -/
inductive LoadGoal where
  | standby
  | running (triggers attract : Bool)
  deriving DecidableEq, Repr

/-- R15, R16: the two passes of a load. -/
inductive LoadPass where
  | verify | apply
  deriving DecidableEq, Repr

/-- R14 to R16: an image load in progress. -/
structure Load where
  address : Nat
  goal : LoadGoal
  pass : LoadPass
  /-- The header bytes read so far, at most 12. -/
  header : List Byte
  /-- The image offset of the next byte of the present pass. -/
  pos : Nat
  /-- The CRC over the bytes after the header read so far. -/
  crc : BitVec 16
  /-- The number of the present section, from 0. -/
  sect : Nat
  /-- The bytes of the descriptor or record read so far. -/
  part : List Byte
  /-- The table of the present section; none while its descriptor is read. -/
  table : Option (Fin 14)
  /-- The entry that the next record goes to. -/
  entry : Nat
  /-- The records of the section still to be read. -/
  left : Nat
  deriving DecidableEq, Repr

/-- Chapter 1: the Show Store. -/
structure Store where
  tables : Tables
  mode : ShowState
  triggersOn : Bool
  attractOn : Bool
  status : LoadStatus
  load : Option Load
  deriving DecidableEq, Repr

def Store.reset : Store := ⟨Tables.empty, .standby, false, false, .none, none⟩

/-! ### Scene Engine -/

/-- Section 2.2: a scene's state. -/
inductive SceneState where
  | disabled | ready | pending | running | cooldown
  deriving DecidableEq, Repr

/-- Section 2.2: a scene's runtime record. `since` is the show frame in which it entered COOLDOWN (log entry 4). -/
structure SceneRun where
  state : SceneState
  cooldown : Nat
  again : Bool
  since : Option Nat
  deriving DecidableEq, Repr

def SceneRun.reset : SceneRun := ⟨.disabled, 0, false, none⟩

/-- Section 2.5: an entry of the pending queue. `since` is the show frame of its arrival (log entry 4). -/
structure Entry where
  scene : Fin 64
  priority : Nat
  source : Source
  arrival : Nat
  patience : Nat
  since : Option Nat
  deriving DecidableEq, Repr

/-- R39: an await record. -/
structure Await where
  cond : AwaitCond
  operand : Byte
  timeout : Option Nat
  target : Fin 2048
  seen : Bool
  deriving DecidableEq, Repr

/-- R40: the state of a non-FREE player, with what it holds in that state. The blocked cue is the cue at the cue
pointer, of which the record holds no copy (R39). -/
inductive Phase where
  | delaying (remaining : Nat)
  | awaiting (a : Await)
  | blocked
  deriving DecidableEq, Repr

/-- R53: an open loop. -/
structure LoopEntry where
  cue : Fin 2048
  count : Nat
  deriving DecidableEq, Repr

/-- R39: the record of a non-FREE player. `frame` is the last show frame whose frame event it may not take again:
the show frame of its start, and then of each frame event it takes (R41, R43; log entry 2). -/
structure Run where
  scene : Fin 64
  priority : Nat
  order : Nat
  cue : Fin 2048
  phase : Phase
  /-- Newest last (R39). -/
  loops : List LoopEntry
  voice : Option (Fin 4)
  executed : Nat
  frame : Option Nat
  deriving DecidableEq, Repr

/-- R63: the owner of a lighting group. -/
inductive GroupOwner where
  | none | direct
  | player (p : Fin 8)
  deriving DecidableEq, Repr

/-- R63: the claims table. -/
structure Claims where
  groups : Vector GroupOwner 16
  axes : Vector (Option (Fin 8)) 8
  voices : Vector (Option (Fin 8)) 4
  deriving DecidableEq, Repr

def Claims.reset : Claims := ⟨Vector.replicate 16 .none, Vector.replicate 8 none, Vector.replicate 4 none⟩

/-- Chapters 2 to 4: the Scene Engine. A FREE player holds no record (R39). -/
structure Engine where
  scenes : Vector SceneRun 64
  queue : List Entry
  arrivals : Nat
  players : Vector (Option Run) 8
  claims : Claims
  house : Bool
  estop : Bool
  /-- The show frame last counted by R31 and R34 (log entry 2). -/
  frame : Option Nat
  deriving DecidableEq, Repr

def Engine.reset : Engine :=
  ⟨Vector.replicate 64 SceneRun.reset, [], 0, Vector.replicate 8 none, Claims.reset, false, false, none⟩

/-! ### Lighting Engine -/

/-- R84: a channel's fade state. -/
structure Fade where
  start : Nat
  target : Nat
  length : Nat
  elapsed : Nat
  curve : FadeCurve
  intent : Nat
  deriving DecidableEq, Repr

def Fade.reset : Fade := ⟨0, 0, 0, 0, .linear, 0⟩

/-- R90: a group master's fade state. -/
structure MasterFade where
  start : Nat
  target : Nat
  length : Nat
  elapsed : Nat
  level : Nat
  deriving DecidableEq, Repr

def MasterFade.reset : MasterFade := ⟨255, 255, 0, 0, 255⟩

/-- R101: a duty with its house mark. -/
structure Duty where
  duty : Nat
  house : Bool
  deriving DecidableEq, Repr

/-- Chapters 5 and 6: a channel's runtime state. `align` and `slot` are those read at the start of the PWM period
in progress (R105, R106). -/
structure Channel where
  fade : Fade
  base : Nat
  gated : Nat
  staged : Duty
  active : Duty
  align : Alignment
  slot : Fin 8
  deriving DecidableEq, Repr

/-- R105: phase slot AUTO is the channel index mod 8. -/
def autoSlot (c : Fin 48) : Fin 8 := Fin.ofNat 8 c.val

def Channel.reset (c : Fin 48) : Channel :=
  ⟨Fade.reset, 0, 0, ⟨0, false⟩, ⟨0, false⟩, .edge, autoSlot c⟩

/-- Chapters 5 and 6: the Lighting Engine. -/
structure Lighting where
  channels : Vector Channel 48
  masters : Vector MasterFade 16
  grand : Nat
  counts : Vector Nat 4
  flicker : BitVec 16
  /-- Whether each carrier was in its on-phase when the phases were last decided (R107, R120). -/
  phases : Vector Bool 4
  slot : Fin 16
  hold : Nat
  house : Bool
  /-- The period counter as it stood at the last period start of any channel (R105; log entry 8). -/
  period : Nat
  /-- The last show frame whose lighting frame event was taken (log entry 2). -/
  frame : Option Nat
  deriving DecidableEq, Repr

def Lighting.reset : Lighting :=
  { channels := Vector.ofFn Channel.reset, masters := Vector.replicate 16 MasterFade.reset, grand := 255,
    counts := Vector.replicate 4 0, flicker := Config.flickerSeed, phases := Vector.replicate 4 true, slot := 0,
    hold := 0, house := false,
    period := 0, frame := none }

/-! ### Sound Engine -/

/-- What a stream has of its clip: the flash cursor and bytes left, the buffer, and its own copy of the variant's
address, length and loop flag (R121, R124, R125). The buffer fill is the length of `buffer`. -/
structure Feed where
  cursor : Nat
  left : Nat
  buffer : List Byte
  address : Nat
  length : Nat
  loop : Bool
  deriving DecidableEq, Repr

def Feed.reset : Feed := ⟨0, 0, [], 0, 0, false⟩

inductive VoiceState where
  | idle | priming | playing | stalled | fading
  deriving DecidableEq, Repr

/-- R126: a voice's record; its owner is held in the claims table (R63). `variant` is the index of the variant
with its language. -/
structure Voice where
  state : VoiceState
  clip : Option (Fin 256)
  variant : Option (Fin 4 × Fin 4)
  feed : Feed
  output : Fin 4
  fade : Nat
  stall : Nat
  /-- The last show frame whose frame event was taken (log entry 2). -/
  frame : Option Nat
  deriving DecidableEq, Repr

def Voice.reset : Voice := ⟨.idle, none, none, Feed.reset, 0, 0, 0, none⟩

inductive BedState where
  | off | priming | playing | stalled | ended
  deriving DecidableEq, Repr

inductive DuckDir where
  | up | down
  deriving DecidableEq, Repr

/-- R133: a bed's record. -/
structure Bed where
  clip : Option (Fin 256)
  gain : Nat
  duck : Nat
  state : BedState
  feed : Feed
  stage : Nat
  dir : DuckDir
  timer : Nat
  /-- The last show frame whose envelope step was taken (log entry 2). -/
  frame : Option Nat
  deriving DecidableEq, Repr

def Bed.reset : Bed := ⟨none, 255, 255, .off, Feed.reset, 0, .down, 0, none⟩

/-- R124: the burst in flight. `dropped` is set when the playback it was granted to has ended (R125). -/
inductive Flight where
  | stream (n : Fin 8) (address length : Nat) (dropped : Bool)
  | image
  deriving DecidableEq, Repr

/-- Chapter 7: the Sound Engine. -/
structure Sound where
  voices : Vector Voice 4
  beds : Vector Bed 4
  served : Fin 8
  flight : Option Flight
  house : Bool
  /-- The four samples last sent over I2S (R139, R140). -/
  out : Vector Int 4
  deriving DecidableEq, Repr

def Sound.reset : Sound :=
  ⟨Vector.replicate 4 Voice.reset, Vector.replicate 4 Bed.reset, 7, none, false, Vector.replicate 4 0⟩

/-! ### Motion Engine -/

/-- R145: an axis's state. -/
inductive AxisState where
  | unhomed | homing | idle | moving | stopping | held | fault
  deriving DecidableEq, Repr

inductive Direction where
  | positive | negative
  deriving DecidableEq, Repr

/-- A MOVE: its target and profile (section 8.2). -/
structure Move where
  target : Int
  profile : Fin 16
  deriving DecidableEq, Repr

/-- R144: a follow-on or held activity. -/
inductive Activity where
  | move (m : Move)
  | home
  deriving DecidableEq, Repr

/-- R144: what follows when a stopping axis comes to rest. -/
inductive StopEnding where
  | idle | held | next
  deriving DecidableEq, Repr

/-- R144: an axis record, with the switch states last sampled (R164), and the STEP pulses of the last interval with
their direction (R146). -/
structure Axis where
  state : AxisState
  homed : Bool
  position : Int
  rate : Nat
  acc : Nat
  dir : Direction
  target : Option Int
  profile : Option (Fin 16)
  ending : Option StopEnding
  follow : Option Activity
  pendingMove : Option Move
  wait : Option Nat
  cause : Option AxisCause
  homeSwitch : Bool
  limitSwitch : Bool
  pulses : Nat
  pulseDir : Direction
  /-- The last show frame whose frame event was taken (log entry 2). -/
  frame : Option Nat
  deriving DecidableEq, Repr

def Axis.reset : Axis :=
  { state := .unhomed, homed := false, position := 0, rate := 0, acc := 0, dir := .positive, target := none,
    profile := none, ending := none, follow := none, pendingMove := none, wait := none, cause := none,
    homeSwitch := false, limitSwitch := false, pulses := 0, pulseDir := .positive, frame := none }

/-- Chapter 8: the Motion Engine. -/
structure Motion where
  axes : Vector Axis 8
  house : Bool
  estop : Bool
  deriving DecidableEq, Repr

def Motion.reset : Motion := ⟨Vector.replicate 8 Axis.reset, false, false⟩

/-! ### Zone Monitor -/

/-- R166, R170: a zone's runtime state. `raw` is whether it was occupied-raw at the last sample (R180). -/
structure Zone where
  state : ZoneState
  counter : Nat
  language : Fin 4
  raw : Bool
  /-- The last show frame whose frame event was taken (log entry 2). -/
  frame : Option Nat
  deriving DecidableEq, Repr

def Zone.reset : Zone := ⟨.clear, 0, 0, false, none⟩

/-- R172: a button's debounced state and counter. -/
structure Button where
  pressed : Bool
  counter : Nat
  /-- The last show frame whose frame event was taken (log entry 2). -/
  frame : Option Nat
  deriving DecidableEq, Repr

def Button.reset : Button := ⟨false, 0, none⟩

/-- R174: the pattern of a lamp. -/
inductive Pattern where
  | off | on | slow | fast
  deriving DecidableEq, Repr

/-- R174: a lamp's state. -/
structure Lamp where
  mode : LampMode
  pattern : Pattern
  blink : Nat
  flash : Nat
  /-- The last show frame whose lamp frame event was taken (log entry 2). -/
  frame : Option Nat
  deriving DecidableEq, Repr

def Lamp.reset : Lamp := ⟨.auto, .off, 0, 0, none⟩

/-- R179: a published safety state with its count of differing samples; `published` is set by the first
publication. -/
structure Safety where
  asserted : Bool
  count : Nat
  published : Bool
  /-- The last show frame whose frame event was taken (log entry 2). -/
  frame : Option Nat
  deriving DecidableEq, Repr

def Safety.reset : Safety := ⟨false, 0, false, none⟩

/-- Chapter 9: the Zone Monitor. -/
structure Monitor where
  zones : Vector Zone 12
  /-- Bit i: sensor i was active at the last sample (R180). -/
  sensors : BitVec 16
  buttons : Vector Button 16
  /-- Set by the first button frame event after reset (R172). -/
  seeded : Bool
  lamps : Vector Lamp 16
  house : Safety
  estop : Safety
  /-- The last show frame whose input sample was taken (log entry 2). -/
  frame : Option Nat
  deriving DecidableEq, Repr

def Monitor.reset : Monitor :=
  ⟨Vector.replicate 12 Zone.reset, 0, Vector.replicate 16 Button.reset, false, Vector.replicate 16 Lamp.reset,
   Safety.reset, Safety.reset, none⟩

end Sys2Proof.Machine
end

