-- ==== Sys2Proof/Machine/State.lean ====
section
/-! DEFINITION. The state of the part, its two kinds of stop, and the state right after reset. -/

namespace Sys2Proof.Machine

/-- No command of this part stops it with a fault: the manual gives every step an effect, so nothing raises a
fault and the type has no constructor. -/
inductive Fault where
  deriving DecidableEq, Repr

/-- Why a command would be refused. -/
inductive Refusal where
  /-- Raised by an arm of `exec` whose command has no meaning yet. Safe: the machine stops. No arm raises it. -/
  | notModelled (mnemonic : String)
  deriving DecidableEq, Repr

/-- The whole part: the commands that wait (first in, first out; the model's own), and the seven blocks. -/
structure State where
  /-- The commands that wait to be taken (the model's own). -/
  pending : List Instr
  /-- Set while power-on reset or RESET_n holds the part in reset (R12, R181). -/
  inReset : Bool
  /-- The number of the present show frame, as the last frame event gave it (the model's own, log entry 2). -/
  frame : Option Nat
  link : Link
  store : Store
  engine : Engine
  light : Lighting
  sound : Sound
  motion : Motion
  monitor : Monitor
  deriving DecidableEq, Repr

/-- The part right after power-on reset with MODE1, MODE0 at 00 and the strap at 115,200 baud (R12; the levels of
the pins are log entry 1). -/
def State.reset : State :=
  { pending := [], inReset := false, frame := none, link := Link.reset, store := Store.reset,
    engine := Engine.reset, light := Lighting.reset, sound := Sound.reset, motion := Motion.reset,
    monitor := Monitor.reset }

end Sys2Proof.Machine
end

