-- ==== Sys2Proof/Machine/LightOps.lean ====
section
/-! DEFINITION. The Lighting Engine (chapters 5 and 6): fades, masters, looks, the level arithmetic, carriers, the
output stage, PWM and the attract cycle. -/

namespace Sys2Proof.Machine

/-! ### Fades (R84 to R91) -/

/-- The value `moved` away from a start toward a target. -/
def fadeToward (start target moved : Nat) : Nat := if start ≤ target then start + moved else start - moved

/-- D of R87, R88 and R91: the magnitude of target − start. -/
def fadeSpan (start target : Nat) : Nat := (target - start) + (start - target)

/-- R87, R88: the intent at step k of a fade. -/
def fadeValue (curve : FadeCurve) (start target length k : Nat) : Nat :=
  match curve with
  | .linear => fadeToward start target (fadeSpan start target * k / length)
  | .stepped8 => fadeToward start target (fadeSpan start target * (8 * k / length) / 8)

/-- R85: a channel fade starts. -/
def Fade.begin (x : Fade) (level length : Nat) (curve : FadeCurve) : Fade :=
  { start := x.intent, target := level * 257, length := length, elapsed := 0, curve := curve,
    intent := if length = 0 then level * 257 else x.intent }

/-- R86: one step of a fade in progress. -/
def Fade.step (x : Fade) : Fade :=
  if x.elapsed < x.length then
    { x with elapsed := x.elapsed + 1, intent := fadeValue x.curve x.start x.target x.length (x.elapsed + 1) }
  else x

/-- R91: a master fade starts. -/
def MasterFade.begin (x : MasterFade) (level length : Nat) : MasterFade :=
  { start := x.level, target := level, length := length, elapsed := 0,
    level := if length = 0 then level else x.level }

/-- R91: one step of a master fade in progress. -/
def MasterFade.step (x : MasterFade) : MasterFade :=
  if x.elapsed < x.length then
    { x with elapsed := x.elapsed + 1, level := fadeValue .linear x.start x.target x.length (x.elapsed + 1) }
  else x

/-- R85 on one channel of the engine. -/
def Lighting.startFade (l : Lighting) (c : Fin 48) (level length : Nat) (curve : FadeCurve) : Lighting :=
  { l with channels := l.channels.set c { l.channels[c] with fade := l.channels[c].fade.begin level length curve } }

/-- R91 on one group master of the engine. -/
def Lighting.startMaster (l : Lighting) (g : Fin 16) (level length : Nat) : Lighting :=
  { l with masters := l.masters.set g (l.masters[g].begin level length) }

/-- R82: the pool entries of a look in increasing pool index. -/
def Tables.lookEntries (t : Tables) (look : Fin 128) : List PoolRec :=
  (List.range (t.look look).count).map fun k => t.poolEntry ((t.look look).first + k)

/-- R83: a look is applied to the channels of the eligible groups. -/
def Lighting.applyLook (l : Lighting) (t : Tables) (look : Fin 128) (eligible : Fin 16 → Bool) (length : Nat)
    (curve : FadeCurve) : Lighting :=
  (t.lookEntries look).foldl
    (fun l e => if eligible (t.channel e.channel).group then l.startFade e.channel e.level length curve else l) l

/-! ### From intent to duty (R93 to R95) -/

/-- R94: the output curve. -/
def OutputCurve.apply : OutputCurve → Nat → Nat
  | .linear, x => x
  | .square, x => x * x / 65535

/-- R95: the floor and ceiling stage. -/
def fitDuty (floor ceiling x : Nat) : Nat := if x = 0 then 0 else floor + x * (ceiling - floor) / 65535

/-- R93 to R95: the base duty of an intent under a group master and the grand master. -/
def ChannelRec.baseDuty (r : ChannelRec) (intent master grand : Nat) : Nat :=
  fitDuty r.floor r.ceiling (r.curve.apply (intent * master / 255 * grand / 255))

/-! ### Carriers (R107 to R110) -/

/-- R109: the threshold of a FLICKER carrier. -/
def CarrierRec.threshold (r : CarrierRec) : Nat := r.onFrames * 256 / r.period

/-- R108, R109: whether a carrier is in its on-phase. -/
def CarrierRec.onPhase (r : CarrierRec) (count : Nat) (flicker : BitVec 16) : Bool :=
  match r.mode with
  | .off => true
  | .square => count < r.onFrames
  | .flicker => flicker.toNat % 256 < r.threshold

/-- R109: one step of the flicker register. -/
def flickerStep (x : BitVec 16) : BitVec 16 :=
  let fb := x.getLsbD 0 ^^ x.getLsbD 2 ^^ x.getLsbD 3 ^^ x.getLsbD 5
  (x >>> 1) ||| (if fb then 0x8000 else 0)

/-- R107: a frame count advances, and returns to 0 at the period or beyond. -/
def CarrierRec.advance (r : CarrierRec) (count : Nat) : Nat := if r.period ≤ count + 1 then 0 else count + 1

/-- R107: the phase of every carrier is decided, except in LOADING, where the phases last decided stand (log entry
21). -/
def Lighting.decidePhases (l : Lighting) (t : Tables) (mode : ShowState) : Lighting :=
  if mode = .loading then l
  else { l with phases := Vector.ofFn fun k => (t.carrier k).onPhase l.counts[k] l.flicker }

/-- R102, R110, R120: the phase of a channel's carrier as last decided; none with no carrier and in LOADING. -/
def Lighting.phaseOf (l : Lighting) (t : Tables) (mode : ShowState) (c : Fin 48) : Option Bool :=
  if mode = .loading then none else (t.channel c).carrier.map fun k => l.phases[k]

/-- R102: the gated duty. -/
def ChannelRec.gate (r : ChannelRec) (base : Nat) : Option Bool → Nat
  | none => base
  | some true => match r.combine with
    | .and => base
    | .or => r.ceiling
  | some false => match r.combine with
    | .and => 0
    | .or => base

/-- R103: the house stage. -/
def ChannelRec.stage (r : ChannelRec) (house : Bool) (gated : Nat) : Duty :=
  if house && r.participates then ⟨r.house, true⟩ else ⟨gated, false⟩

/-! ### The lighting frame event (R86, R101, R107) -/

/-- R86: every channel fade and every master fade in progress takes one step. -/
def Lighting.stepFades (l : Lighting) : Lighting :=
  { l with channels := Vector.ofFn fun c => { l.channels[c] with fade := l.channels[c].fade.step },
           masters := Vector.ofFn fun g => l.masters[g].step }

/-- R95, R101: the base, gated and staged duty of one channel. -/
def Lighting.formChannel (l : Lighting) (t : Tables) (mode : ShowState) (c : Fin 48) : Channel :=
  let r := t.channel c
  let base := r.baseDuty l.channels[c].fade.intent l.masters[r.group].level l.grand
  let gated := r.gate base (l.phaseOf t mode c)
  { l.channels[c] with base := base, gated := gated, staged := r.stage l.house gated }

/-- R95, R101, R107: the carrier phases are decided, and then the duties of every channel are formed. -/
def Lighting.formDuties (l : Lighting) (t : Tables) (mode : ShowState) : Lighting :=
  { l.decidePhases t mode with channels := Vector.ofFn fun c => (l.decidePhases t mode).formChannel t mode c }

/-- R107, R110: the frame counts and the flicker register advance, except in LOADING. -/
def Lighting.advanceCarriers (l : Lighting) (t : Tables) (mode : ShowState) : Lighting :=
  if mode = .loading then l
  else { l with counts := Vector.ofFn fun k => (t.carrier k).advance l.counts[k], flicker := flickerStep l.flicker }

/-! ### The attract cycle (R111 to R116) -/

/-- R111: the attract cycle is running. -/
def Store.attractRunning (s : Store) : Bool :=
  s.mode == .running && s.attractOn && decide (1 ≤ s.tables.slotCount)

/-- R114: a group that an application of attract may light. -/
def attractEligible (t : Tables) (claims : Claims) (g : Fin 16) : Bool :=
  (t.group g).attract && decide (claims.groups[g] = .none)

/-- R112: a slot is entered. -/
def Lighting.enterSlot (l : Lighting) (t : Tables) (claims : Claims) (slot : Fin 16) : Lighting :=
  let r := t.slot slot
  { l.applyLook t r.look (attractEligible t claims) r.fade .linear with slot := slot, hold := r.hold * 2 }

/-- R113: the slot after the current one. -/
def nextSlot (slotCount : Nat) (slot : Fin 16) : Fin 16 :=
  if slotCount ≤ slot.val + 1 then 0 else Fin.ofNat 16 (slot.val + 1)

/-- R113: the attract hold is counted, and at 0 the next slot is entered. -/
def Lighting.countHold (l : Lighting) (t : Tables) (claims : Claims) : Lighting :=
  if l.hold ≤ 1 then l.enterSlot t claims (nextSlot t.slotCount l.slot) else { l with hold := l.hold - 1 }

/-- R78, R115: a group that has become unowned returns to attract. -/
def Lighting.returnGroup (l : Lighting) (t : Tables) (claims : Claims) (g : Fin 16) : Lighting :=
  if attractEligible t claims g then
    l.applyLook t (t.slot l.slot).look (fun h => decide (h = g)) (t.group g).returnFade .linear
  else l

/-- R116: the cycle stops. -/
def Lighting.attractStop (l : Lighting) : Lighting := { l with slot := 0, hold := 0 }

/-- R112, R116: the running condition of the attract cycle has gone from `was` to `now`. -/
def Lighting.attractChange (l : Lighting) (t : Tables) (claims : Claims) (was now : Bool) : Lighting :=
  if was = now then l else if now then l.enterSlot t claims 0 else l.attractStop

/-- R86, R101, R107, R113: the lighting frame event of show frame f, once in that frame (log entry 2). -/
def Lighting.frameEvent (l : Lighting) (st : Store) (claims : Claims) (f : Nat) : Lighting :=
  if l.frame = some f then l
  else
    let counted := if st.attractRunning then l.countHold st.tables claims else l
    let formed := counted.stepFades.formDuties st.tables st.mode
    { formed.advanceCarriers st.tables st.mode with frame := some f }

/-! ### HOUSE, PWM, resets -/

/-- R117, R118: a house event. -/
def Lighting.houseEvent (l : Lighting) (t : Tables) (asserted : Bool) : Lighting :=
  { l with
    house := asserted
    channels := Vector.ofFn fun c =>
      if (t.channel c).participates then
        { l.channels[c] with staged := (t.channel c).stage asserted l.channels[c].gated }
      else l.channels[c] }

/-- R105: the phase slot of a channel, with AUTO resolved. -/
def ChannelRec.effectiveSlot (r : ChannelRec) (c : Fin 48) : Fin 8 := r.slot.getD (autoSlot c)

/-- R104, R105: the PWM period of a channel starts, which falls when the period counter reaches its offset. -/
def Lighting.periodStart (l : Lighting) (t : Tables) (c : Fin 48) : Lighting :=
  let r := t.channel c
  let slot := r.effectiveSlot c
  { l with
    period := slot.val * Config.slotCounts
    channels := l.channels.set c
      { l.channels[c] with active := l.channels[c].staged, align := r.align, slot := slot } }

/-- R106: whether an output of active duty d is on at a position of its period. -/
def pwmOn (d : Nat) (align : Alignment) (position : Nat) : Bool :=
  if d = 0 then false
  else if 4095 ≤ d then true
  else
    let start := match align with
      | .edge => 0
      | .centre => (Config.pwmCounts - d) / 2
    decide (start ≤ position) && decide (position < start + d)

/-- R105: the position of a channel within its period when the period counter stands at `counter`. -/
def Channel.position (c : Channel) (counter : Nat) : Nat :=
  (counter + Config.pwmCounts - c.slot.val * Config.slotCounts) % Config.pwmCounts

/-- R106: the level of a channel's output pin when the period counter stands at `counter`. -/
def Channel.pin (c : Channel) (counter : Nat) : Bool := pwmOn c.active.duty c.align (c.position counter)

/-- R96, R107: entry to LOADING. The duties follow at the next lighting frame event (R101). -/
def Lighting.enterLoading (l : Lighting) : Lighting :=
  { l with channels := Vector.ofFn fun c => { l.channels[c] with fade := Fade.reset },
           masters := Vector.replicate 16 MasterFade.reset, grand := 255,
           counts := Vector.replicate 4 0, flicker := Config.flickerSeed, slot := 0, hold := 0 }

/-- R18, R84, R90, R92, R101, R107, R116: SOFT RESET. The copy of HOUSE, the period counter and the PWM period in
progress are kept. -/
def Lighting.softReset (l : Lighting) (t : Tables) : Lighting :=
  { l.enterLoading with
    channels := Vector.ofFn fun c =>
      { l.channels[c] with fade := Fade.reset, base := 0, gated := 0, staged := (t.channel c).stage l.house 0,
                           active := (t.channel c).stage l.house 0 } }

end Sys2Proof.Machine
end

