-- ==== Sys2Proof/Machine/MotionOps.lean ====
section
/-! DEFINITION. What an axis does (chapter 8): the three commands, the profile interval, stopping, homing, holds,
emergency stop and the rewrite of its record. Every operation is on one axis, with its axis table record, the
profile table and its hold condition given. -/

namespace Sys2Proof.Machine

/-- What a profile interval of an axis has to report (R154, R155, R158). -/
inductive AxisNews where
  | quiet | homed
  | fault (cause : AxisCause)
  deriving DecidableEq, Repr

/-- R147: a target clamped to the soft limits as they stand. -/
def AxisRec.limit (r : AxisRec) (x : Int) : Int := if x < r.minPos then r.minPos else if r.maxPos < x then r.maxPos else x

/-- R147: a MOVE clamped to the soft limits as they stand. -/
def AxisRec.limitMove (r : AxisRec) (m : Move) : Move := ⟨r.limit m.target, m.profile⟩

/-- Section 8.3: the creep rate of a profile. -/
def ProfileRec.creep (p : ProfileRec) : Nat := min p.accel p.top

/-- R150, R152: the braking distance from a rate. -/
def brakingDistance (rate accel : Nat) : Nat := rate * rate / (2000 * accel)

/-- The direction from a position toward a target; the present one when the two are equal. -/
def Direction.toward (d : Direction) (position target : Int) : Direction :=
  if position < target then .positive else if target < position then .negative else d

/-- R146: a position moved by a number of steps. -/
def Direction.move (d : Direction) (position : Int) (steps : Nat) : Int :=
  match d with
  | .positive => position + steps
  | .negative => position - steps

/-- R146: an axis takes a number of steps in a direction, which are issued with DIR at that direction. -/
def Axis.advance (a : Axis) (d : Direction) (steps : Nat) : Axis :=
  { a with position := d.move a.position steps, pulses := steps, pulseDir := d }

/-- The steps that are left before the soft limit in a direction (R156). -/
def AxisRec.room (r : AxisRec) (d : Direction) (position : Int) : Nat :=
  match d with
  | .positive => (r.maxPos - position).toNat
  | .negative => (position - r.minPos).toNat

/-- R154: the search limit is passed. -/
def AxisRec.searchedOut (r : AxisRec) (position : Int) : Bool := position < -((r.maxPos - r.minPos) + 1000)

/-! ### Beginning and ending an activity -/

/-- At rest: rate and accumulator 0, target and profile in use absent (R151, R153). -/
def Axis.atRest (a : Axis) : Axis := { a with rate := 0, acc := 0, target := none, profile := none }

/-- Stopped at once, with every optional field but the fault cause discarded (R157, R158, R161, R162). -/
def Axis.halt (a : Axis) : Axis :=
  { a.atRest with ending := none, follow := none, pendingMove := none, wait := none }

/-- IDLE with no activity. -/
def Axis.idle (a : Axis) : Axis :=
  { a.atRest with state := .idle, ending := none, follow := none, pendingMove := none, wait := none, cause := none }

/-- R158, R155, R161: FAULT with a cause; the homing is lost. -/
def Axis.faulted (a : Axis) (cause : AxisCause) : Axis :=
  { a.halt with state := .fault, homed := false, cause := some cause }

/-- R154: a homing begins; a pending move is kept. `rate` is the home rate, or 0 out of a hold. -/
def Axis.beginHoming (a : Axis) (rate : Nat) : Axis :=
  { a.atRest with state := .homing, homed := false, position := 0, dir := .negative, rate := rate, ending := none,
                  follow := none, wait := none, cause := none }

/-- R147, R154: the axis becomes MOVING from rate 0 toward a target. -/
def Axis.beginMove (a : Axis) (target : Int) (profile : Fin 16) : Axis :=
  { a with state := .moving, rate := 0, acc := 0, dir := a.dir.toward a.position target, target := some target,
           profile := some profile, ending := none, follow := none, pendingMove := none, wait := none, cause := none }

/-- R147, IDLE and homed with the hold condition clear: arrives at once, or sets off. -/
def Axis.setOff (a : Axis) (r : AxisRec) (m : Move) : Axis :=
  if r.limit m.target = a.position then a.idle else a.beginMove (r.limit m.target) m.profile

/-- R153, R160: an activity begins on an axis at rest with the hold condition clear. A MOVE is clamped to the limits
as they stand (R147), and on an axis that is not homed it becomes the pending move of a homing. `rate` is the rate of a
homing. -/
def Axis.undertake (a : Axis) (r : AxisRec) (rate : Nat) : Activity → Axis
  | .move m =>
    if a.homed then a.setOff r m else Axis.beginHoming { a with pendingMove := some (r.limitMove m) } rate
  | .home => a.beginHoming rate

/-- R160: a held activity resumes from rate 0. -/
def Axis.resume (a : Axis) (r : AxisRec) : Axis :=
  match a.follow with
  | some act => a.undertake r 0 act
  | none => a.idle

/-- R160: the resume wait of a HELD axis starts; a delay of 0 resumes at once. -/
def Axis.startWait (a : Axis) (r : AxisRec) : Axis :=
  if r.resume = 0 then a.resume r else { a with wait := some r.resume }

/-- R147, R148, R153: the axis becomes HELD with an activity; with the hold condition clear its wait starts. -/
def Axis.hold (a : Axis) (r : AxisRec) (hold : Bool) (act : Activity) : Axis :=
  let held := { a.atRest with state := .held, ending := none, follow := some act, wait := none, cause := none }
  if hold then held else held.startWait r

/-- R153: on coming to rest the stop ending decides what follows. -/
def Axis.comeToRest (a : Axis) (r : AxisRec) (hold : Bool) : Axis :=
  match a.ending, a.follow with
  | some .held, some act => a.hold r hold act
  | some .next, some act => if hold then a.hold r hold act else a.atRest.undertake r r.homeRate act
  | _, _ => a.idle

/-! ### Commands -/

/-- R148: HOME on an axis at rest with no activity. -/
def Axis.homeAtRest (a : Axis) (r : AxisRec) (hold : Bool) : Axis :=
  if hold then a.hold r hold .home else a.beginHoming r.homeRate

/-- R152: a MOVE that reaches a MOVING axis; `t` is the clamped target. -/
def Axis.retarget (a : Axis) (accel : Nat) (t : Int) (profile : Fin 16) : Axis :=
  let ahead := match a.dir with
    | .positive => decide (a.position < t)
    | .negative => decide (t < a.position)
  if a.target = some t then a
  else if ahead && decide (brakingDistance a.rate accel < (t - a.position).natAbs) then
    { a with target := some t, profile := some profile }
  else { a with state := .stopping, ending := some .next, follow := some (.move ⟨t, profile⟩) }

/-- R147: a MOVE; nothing when it is refused. -/
def Axis.takeMove? (a : Axis) (t : Tables) (r : AxisRec) (hold : Bool) (m : Move) : Option Axis :=
  let mv := r.limitMove m
  match a.state with
  | .idle =>
    if a.homed then some (if hold then a.hold r hold (.move mv) else a.setOff r mv)
    else some (Axis.homeAtRest { a with pendingMove := some mv } r hold)
  | .unhomed => some (Axis.homeAtRest { a with pendingMove := some mv } r hold)
  | .moving => some (a.retarget (t.profile m.profile).accel mv.target m.profile)
  | .homing => some { a with pendingMove := some mv }
  | .stopping =>
    if a.ending = some .held then
      if a.homed || decide (a.follow ≠ some .home) then some { a with follow := some (.move mv), pendingMove := none }
      else some { a with pendingMove := some mv }
    else some { a with ending := some .next, follow := some (.move mv), pendingMove := none }
  | .held =>
    if a.homed || decide (a.follow ≠ some .home) then some { a with follow := some (.move mv), pendingMove := none }
    else some { a with pendingMove := some mv }
  | .fault => none

/-- R153, R155: the axis becomes STOPPING, with a homing to follow. -/
def Axis.stopForHome (a : Axis) : Axis :=
  { a with state := .stopping, ending := some .next, follow := some .home, pendingMove := none }

/-- R148: a HOME; nothing when it is refused. On an axis in HOMING the homing goes on (R148) or is stopped first (R155),
as a free value decides (log entry 26). -/
def Axis.takeHome? (a : Axis) (r : AxisRec) (hold : Bool) : Option Axis :=
  match a.state with
  | .idle | .unhomed => some (Axis.homeAtRest { a with pendingMove := none } r hold)
  | .fault => if a.cause = some .estop then none
              else some (Axis.homeAtRest { a with cause := none, pendingMove := none } r hold)
  | .homing => some (if Config.homeStopsHoming then a.stopForHome else { a with pendingMove := none })
  | .moving => some a.stopForHome
  | .stopping =>
    if a.ending = some .held then some { a with follow := some .home, pendingMove := none } else some a.stopForHome
  | .held => some { a with follow := some .home, pendingMove := none }

/-- R149: a stop request. -/
def Axis.stopRequest (a : Axis) : Axis :=
  match a.state with
  | .moving => { a with state := .stopping, ending := some .idle, follow := none }
  | .homing => { a with state := .stopping, ending := some .idle, follow := none, pendingMove := none }
  | .stopping => { a with ending := some .idle, follow := none, pendingMove := none }
  | .held => a.idle
  | .idle | .unhomed | .fault => a

/-! ### The profile interval -/

/-- R150: the new rate of a MOVING axis with `left` steps to go. -/
def ProfileRec.nextRate (p : ProfileRec) (rate left : Nat) : Nat :=
  if left ≤ brakingDistance rate p.accel then max (rate - p.accel) p.creep
  else if p.top < rate then max (rate - p.accel) p.top
  else min (rate + p.accel) p.top

/-- R158: the end switches meet a homed axis in MOVING or STOPPING. -/
def Axis.switchFault (a : Axis) : Bool :=
  match a.dir with
  | .positive => a.limitSwitch
  | .negative => a.homeSwitch && decide (0 < a.position)

/-- R150, R151, R156: the interval of a MOVING axis. -/
def Axis.moveInterval (a : Axis) (r : AxisRec) (p : ProfileRec) (target : Int) : Axis :=
  let left := (target - a.position).natAbs
  let dir := a.dir.toward a.position target
  let rate := p.nextRate a.rate left
  let acc := a.acc + rate
  let steps := min (acc / 1000) left
  let room := r.room dir a.position
  if room < steps then Axis.idle { a.advance dir room with dir := dir }
  else
    let moved := { a.advance dir steps with dir := dir }
    if steps = left then moved.idle else { moved with rate := rate, acc := acc % 1000 }

/-- R153, R156: the interval of a homed STOPPING axis. A rate above the creep rate but below A falls to 0 (log entry
27). -/
def Axis.stopInterval (a : Axis) (r : AxisRec) (p : ProfileRec) (target : Int) (hold : Bool) : Axis :=
  if a.rate ≤ p.creep then a.comeToRest r hold
  else
    let left := (target - a.position).natAbs
    let rate := a.rate - p.accel
    let acc := a.acc + rate
    let steps := min (acc / 1000) left
    let room := r.room a.dir a.position
    if room < steps then (a.advance a.dir room).comeToRest r hold
    else
      let moved := a.advance a.dir steps
      if steps = left then moved.comeToRest r hold else { moved with rate := rate, acc := acc % 1000 }

/-- R154: the home is found in HOMING. -/
def Axis.homeFound (a : Axis) (r : AxisRec) : Axis :=
  let found := { a.atRest with homed := true, position := 0 }
  match a.pendingMove with
  | some m => found.beginMove (r.limit m.target) m.profile
  | none => found.idle

/-- R155: the home is found while STOPPING. With ending HELD the pending move becomes the held activity, and with
none the axis is IDLE, whatever the follow-on activity (log entry 12). -/
def Axis.homeFoundStopping (a : Axis) (r : AxisRec) (hold : Bool) : Axis :=
  let found := { a.atRest with homed := true, position := 0 }
  match a.ending with
  | some .held =>
    match a.pendingMove with
    | some m => Axis.hold { found with pendingMove := none } r hold (.move m)
    | none => found.idle
  | some .idle | some .next | none => found.comeToRest r hold

/-- R154, R155: one interval's steps of a homing in the negative direction, with the search limit. -/
def Axis.homingSteps (a : Axis) (r : AxisRec) (rate : Nat) : Axis × AxisNews :=
  let acc := a.acc + rate
  let moved := { a.advance .negative (acc / 1000) with rate := rate, acc := acc % 1000 }
  if r.searchedOut moved.position then (moved.faulted .homeNotFound, .fault .homeNotFound) else (moved, .quiet)

/-- R146: the computation of a profile interval event, after the switches have been sampled. -/
def Axis.interval (a : Axis) (t : Tables) (r : AxisRec) (hold : Bool) : Axis × AxisNews :=
  let a := { a with pulses := 0 }
  match a.state with
  | .homing => if a.homeSwitch then (a.homeFound r, .homed) else a.homingSteps r r.homeRate
  | .moving =>
    if a.homed && a.switchFault then (a.faulted .limit, .fault .limit)
    else (a.moveInterval r (t.profile (a.profile.getD r.profile)) (a.target.getD a.position), .quiet)
  | .stopping =>
    if a.homed then
      if a.switchFault then (a.faulted .limit, .fault .limit)
      else (a.stopInterval r (t.profile (a.profile.getD r.profile)) (a.target.getD a.position) hold, .quiet)
    else if a.homeSwitch then (a.homeFoundStopping r hold, .homed)
    else
      let accel := (t.profile r.profile).accel
      if a.rate ≤ accel then (a.comeToRest r hold, .quiet) else a.homingSteps r (a.rate - accel)
  | .unhomed | .idle | .held | .fault => (a, .quiet)

/-! ### Holds, emergency stop, show states and the rewrite of the record -/

/-- R159: the hold condition comes to be present. -/
def Axis.holdBegins (a : Axis) : Axis :=
  match a.state with
  | .moving =>
    { a with state := .stopping, ending := some .held,
             follow := some (.move ⟨a.target.getD a.position, a.profile.getD 0⟩) }
  | .homing => { a with state := .stopping, ending := some .held, follow := some .home }
  | .stopping => if a.ending = some .next then { a with ending := some .held } else a
  | .held => { a with wait := none }
  | .idle | .unhomed | .fault => a

/-- R160: the hold condition clears. -/
def Axis.holdEnds (a : Axis) (r : AxisRec) : Axis := if a.state = .held then a.startWait r else a

/-- R159, R160: a change of the hold condition. -/
def Axis.holdChange (a : Axis) (r : AxisRec) (before after : Bool) : Axis :=
  if before = after then a else if after then a.holdBegins else a.holdEnds r

/-- R160: what the motion frame event does to the resume wait. -/
def Axis.countWait (a : Axis) (r : AxisRec) : Axis :=
  match a.state, a.wait with
  | .held, some w => if w ≤ 1 then a.resume r else { a with wait := some (w - 1) }
  | _, _ => a

/-- R146, R160: the motion frame event of show frame f, once in that frame (log entry 2). -/
def Axis.frameEvent (a : Axis) (r : AxisRec) (f : Nat) : Axis :=
  if a.frame = some f then a else Axis.countWait { a with frame := some f } r

/-- R161: ESTOP asserts. -/
def Axis.estopAsserted (a : Axis) : Axis := a.faulted .estop

/-- R161: ESTOP is released. -/
def Axis.estopReleased (a : Axis) : Axis :=
  if a.state = .fault ∧ a.cause = some .estop then { a with state := .unhomed, cause := none } else a

/-- R162: SOFT RESET, with the Motion Engine's copy of ESTOP. The direction, the switches last sampled and the pulses of
the last interval are kept (log entry 30). -/
def Axis.softReset (a : Axis) (estop : Bool) : Axis :=
  if estop then a.faulted .estop else { a.halt with state := .unhomed, homed := false, cause := none }

/-- R157: the soft limits of the axis table record have been rewritten. -/
def Axis.limitsRewritten (a : Axis) (r : AxisRec) : Axis :=
  if a.homed && (decide (a.position < r.minPos) || decide (r.maxPos < a.position)) then
    { a.halt with state := .unhomed, homed := false, cause := none }
  else a

end Sys2Proof.Machine
end

