-- ==== Sys2Proof/Machine/SoundOps.lean ====
section
/-! DEFINITION. The Sound Engine (chapter 7): playbacks, the fetch arbiter, bursts, voices, beds, the duck
envelope and the mix. -/

namespace Sys2Proof.Machine

/-! ### Clips and feeds (R121 to R125) -/

/-- R121: the index of the variant chosen for a wanted language. -/
def ClipRec.choose (r : ClipRec) (language : Fin 4) : Nat :=
  match r.variants.findIdx? (fun v => decide (v.language = language)) with
  | some i => i
  | none => 0

/-- The variant at an index of the list. -/
def ClipRec.variant (r : ClipRec) (i : Nat) : Variant := r.variants.getD i ⟨0, 0, 1⟩

/-- R121, R127, R134: a feed at the start of a playback of a variant. -/
def Feed.start (v : Variant) (loop : Bool) : Feed :=
  { cursor := v.address, left := v.length, buffer := [], address := v.address, length := v.length, loop := loop }

/-- R123: the sample that a clip byte decodes to. -/
def decodeSample (b : Byte) : Int :=
  let e := b.toNat / 16 % 8
  let m := b.toNat % 16
  let magnitude := ((16 + m) * 2 ^ e - 16) * 8
  if b.getLsbD 7 then -(magnitude : Int) else (magnitude : Int)

/-- R122, R124: the length of a stream's next burst. -/
def Feed.burst (x : Feed) : Nat := min Config.burstBytes x.left

/-- R125, R126: a flash cursor advances by `n`. Past the last byte of the flash its 26 bits are a free value (log entry
28). -/
def advanceCursor (cursor n : Nat) : Nat :=
  if cursor + n < Config.flashBytes then cursor + n else (Config.cursorPastFlash (cursor + n)).toNat

/-- R125: the bytes of a completed burst are appended; with the loop flag the feed wraps when its bytes are all
fetched. -/
def Feed.append (x : Feed) (data : List Byte) : Feed :=
  let y := { x with buffer := x.buffer ++ data, cursor := advanceCursor x.cursor data.length,
                    left := x.left - data.length }
  if y.left = 0 && y.loop then { y with cursor := y.address, left := y.length } else y

/-- R127, R129, R134, R135: the last data of the pass have come, or the fill has reached a mark. It is tested before a
looping clip wraps (log entry 25). -/
def Feed.filled (x : Feed) (data : List Byte) (mark : Nat) : Bool :=
  decide (mark ≤ x.buffer.length + data.length) || decide (x.left ≤ data.length)

/-- The port delivers as many bytes as the burst asks for: what the flash does not drive reads 0xFF (R122). -/
def burstData (length : Nat) (data : List Byte) : List Byte :=
  (data ++ List.replicate length 0xFF).take length

/-! ### Voices (R126 to R132) -/

/-- R127: a SAY on an IDLE voice begins a playback. -/
def Voice.begin (v : Voice) (t : Tables) (clip : Fin 256) (language output : Fin 4) : Voice :=
  let r := t.clip clip
  let i := r.choose language
  { v with state := .priming, clip := some clip, variant := some (Fin.ofNat 4 i, (r.variant i).language),
           feed := Feed.start (r.variant i) r.loop, output := output, fade := 0, stall := 0 }

/-- R130, R131: the playback is dropped and the voice becomes IDLE. -/
def Voice.drop (v : Voice) : Voice :=
  { v with state := .idle, clip := none, variant := none, feed := Feed.reset }

/-- R131: a HUSH or the stop of the owner. -/
def Voice.fadeOut (v : Voice) : Voice :=
  match v.state with
  | .priming | .playing | .stalled => { v with state := .fading, fade := 0, stall := 0 }
  | .idle | .fading => v

/-- R124: the voice has a playback in progress. -/
def Voice.playing (v : Voice) : Bool := decide (v.state ≠ .idle)

/-- R136: the voice makes its output speaking. -/
def Voice.speaks (v : Voice) : Bool :=
  match v.state with
  | .priming | .playing | .stalled => true
  | .idle | .fading => false

/-- R125, R127, R129: a completion for the voice's playback. -/
def Voice.complete (v : Voice) (data : List Byte) : Voice :=
  let fed := { v with feed := v.feed.append data }
  match v.state with
  | .priming => if v.feed.filled data Config.primedFill then { fed with state := .playing } else fed
  | .stalled => if v.feed.filled data Config.resumeFill then { fed with state := .playing, stall := 0 } else fed
  | .idle | .playing | .fading => fed

/-- R128, R139: the sample event of a voice, with the term that it enters the mix with. -/
def Voice.sample (v : Voice) : Voice × Int :=
  match v.state, v.feed.buffer with
  | .playing, b :: rest =>
    let term := (decodeSample b * (Config.voiceGain * 8 : Nat)).tdiv 2040
    let taken := { v with feed := { v.feed with buffer := rest } }
    if rest.isEmpty then
      if v.feed.left = 0 then ({ taken with state := .idle, clip := none, variant := none }, term)
      else ({ taken with state := .stalled, stall := 0 }, term)
    else (taken, term)
  | .fading, b :: rest =>
    ({ v with feed := { v.feed with buffer := rest } },
     (decodeSample b * (Config.voiceGain * (8 - v.fade) : Nat)).tdiv 2040)
  | _, _ => (v, 0)

/-- R130: the stall of a voice runs out at its next sound frame event. -/
def Voice.stallEnds (v : Voice) : Bool := decide (v.state = .stalled) && decide (Config.stallLimit ≤ v.stall + 1)

/-- R131: the fade-out of a voice ends at its next sound frame event. -/
def Voice.fadeEnds (v : Voice) : Bool := decide (v.state = .fading) && decide (Config.fadeStages ≤ v.fade + 1)

/-- R130, R131: the sound frame event of a voice. -/
def Voice.count (v : Voice) : Voice :=
  match v.state with
  | .stalled =>
    if v.stallEnds then { v.drop with stall := Config.stallLimit } else { v with stall := v.stall + 1 }
  | .fading => if v.fadeEnds then { v.drop with fade := Config.fadeStages } else { v with fade := v.fade + 1 }
  | .idle | .priming | .playing => v

/-! ### Beds (R133 to R138) -/

/-- R134: the bed's playback begins from the start of its clip; with clip NONE the bed is OFF. -/
def Bed.begin (b : Bed) (t : Tables) : Bed :=
  match b.clip with
  | some c => { b with state := .priming, feed := Feed.start ((t.clip c).variant 0) (t.clip c).loop }
  | none => { b with state := .off, feed := Feed.reset }

/-- R134, R138: the bed becomes OFF with its playback dropped. -/
def Bed.off (b : Bed) : Bed := { b with state := .off, feed := Feed.reset }

/-- R134: the bed stops on leaving SHOW, and its envelope resets. -/
def Bed.stop (b : Bed) : Bed := { b.off with stage := 0, dir := .down, timer := 0 }

/-- R124: the bed has a playback in progress. -/
def Bed.playing (b : Bed) : Bool :=
  match b.state with
  | .priming | .playing | .stalled => true
  | .off | .ended => false

/-- R133: clip in use, G and K are loaded from the bed table. -/
def Bed.load (b : Bed) (r : BedRec) : Bed := { b with clip := r.clip, gain := r.gain, duck := r.duck }

/-- R137: the applied gain at the present duck stage. -/
def Bed.applied (b : Bed) : Nat := b.gain - (b.gain - b.duck) * b.stage / 7

/-- R125, R134, R135: a completion for the bed's playback. -/
def Bed.complete (b : Bed) (data : List Byte) : Bed :=
  let fed := { b with feed := b.feed.append data }
  match b.state with
  | .priming => if b.feed.filled data Config.primedFill then { fed with state := .playing } else fed
  | .stalled => if b.feed.filled data Config.resumeFill then { fed with state := .playing } else fed
  | .off | .playing | .ended => fed

/-- R135, R139: the sample event of a bed, with its term of the mix. -/
def Bed.sample (b : Bed) : Bed × Int :=
  match b.state, b.feed.buffer with
  | .playing, x :: rest =>
    let term := (decodeSample x * (b.applied : Int)).tdiv 255
    let taken := { b with feed := { b.feed with buffer := rest } }
    if rest.isEmpty then
      if b.feed.left = 0 then ({ taken with state := .ended }, term) else ({ taken with state := .stalled }, term)
    else (taken, term)
  | _, _ => (b, 0)

/-- R136: one step of the duck envelope. -/
def Bed.envelope (b : Bed) (speaking : Bool) (step : Nat) : Bed :=
  let wanted : DuckDir := if speaking then .up else .down
  if b.dir ≠ wanted then { b with dir := wanted, timer := 0 }
  else
    match b.dir with
    | .up =>
      if 7 ≤ b.stage then { b with timer := 0 }
      else if step ≤ b.timer + 1 then { b with stage := b.stage + 1, timer := 0 }
      else { b with timer := b.timer + 1 }
    | .down =>
      if b.stage = 0 then { b with timer := 0 }
      else if step ≤ b.timer + 1 then { b with stage := b.stage - 1, timer := 0 }
      else { b with timer := b.timer + 1 }

/-- R138: SET BED on a bed; `running` is whether the show state is SHOW. -/
def Bed.set (b : Bed) (t : Tables) (o : Fin 4) (clip : Option (Fin 256)) (gain : Nat) (running : Bool) : Bed :=
  let b' := { b with clip := clip, gain := gain, duck := min (t.bed o).duck gain }
  if running then
    if clip = none then b'.off
    else if clip = b.clip && b.playing then b'
    else b'.begin t
  else b'

/-! ### The engine -/

/-- R124: the feed of a requesting stream; none when the stream is not requesting. -/
def Sound.requesting? (s : Sound) (n : Fin 8) : Option Feed :=
  let (playing, feed) :=
    if h : n.val < 4 then (s.voices[n.val].playing, s.voices[n.val].feed)
    else (s.beds[n.val - 4].playing, s.beds[n.val - 4].feed)
  if playing && decide (feed.buffer.length ≤ Config.requestFill) && decide (0 < feed.left) then some feed else none

/-- R124: the streams in the order that begins with the one after the stream served last. -/
def serveOrder (served : Fin 8) : List (Fin 8) := (List.finRange 8).map fun k => served + 1 + k

/-- R124: of two candidates the one with the lower fill, the earlier one when they are equal. -/
def betterStream (best : Option (Fin 8 × Feed)) (n : Fin 8) (x : Option Feed) : Option (Fin 8 × Feed) :=
  match best, x with
  | none, some f => some (n, f)
  | some (m, g), some f => if f.buffer.length < g.buffer.length then some (n, f) else some (m, g)
  | b, none => b

/-- R124: the stream that a grant chooses. -/
def Sound.choice (s : Sound) : Option (Fin 8 × Feed) :=
  (serveOrder s.served).foldl (fun best n => betterStream best n (s.requesting? n)) none

/-- R124: a grant, when no burst is in flight; `imageWaits` is whether an image read is waiting. -/
def Sound.grant (s : Sound) (imageWaits : Bool) : Sound :=
  match s.flight with
  | some _ => s
  | none =>
    match s.choice with
    | some (n, feed) => { s with served := n, flight := some (.stream n feed.cursor feed.burst false) }
    | none => if imageWaits then { s with flight := some .image } else s

/-- R125: the playback of a stream has ended, so a burst of it in flight will be discarded. -/
def Sound.dropFlight (s : Sound) (n : Fin 8) : Sound :=
  match s.flight with
  | some (.stream m a k d) => if m = n then { s with flight := some (.stream m a k true) } else { s with flight := some (.stream m a k d) }
  | _ => s

/-- R125: every playback has ended. -/
def Sound.dropAllFlights (s : Sound) : Sound :=
  match s.flight with
  | some (.stream m a k _) => { s with flight := some (.stream m a k true) }
  | _ => s

/-- The stream number of a voice. -/
def voiceStream (v : Fin 4) : Fin 8 := Fin.ofNat 8 v.val

/-- The stream number of a bed. -/
def bedStream (b : Fin 4) : Fin 8 := Fin.ofNat 8 (4 + b.val)

/-- R125: the completion of a burst of stream n whose playback has not ended. -/
def Sound.deliver (s : Sound) (n : Fin 8) (data : List Byte) : Sound :=
  if h : n.val < 4 then { s with voices := s.voices.set n.val (s.voices[n.val].complete data) }
  else { s with beds := s.beds.set (n.val - 4) (s.beds[n.val - 4].complete data) }

/-- R124, R125: a burst of a stream completes; nothing when no stream's burst is in flight. -/
def Sound.complete (s : Sound) (data : List Byte) : Sound :=
  match s.flight with
  | some (.stream n _ k dropped) =>
    let landed := { s with flight := none }
    if dropped then landed else landed.deliver n (burstData k data)
  | _ => s

/-- R131: the fade-out of one voice. -/
def Sound.fadeOut (s : Sound) (v : Fin 4) : Sound := { s with voices := s.voices.set v s.voices[v].fadeOut }

/-- R127: a playback begins on one voice. -/
def Sound.say (s : Sound) (t : Tables) (v : Fin 4) (clip : Fin 256) (language output : Fin 4) : Sound :=
  { s with voices := s.voices.set v (s.voices[v].begin t clip language output) }

/-- R136: an output is speaking. -/
def Sound.speaking (s : Sound) (o : Fin 4) : Bool :=
  (List.finRange 4).any fun v => decide (s.voices[v].output = o) && s.voices[v].speaks

/-- R139: the sum of an output, saturated. -/
def saturate (x : Int) : Int := if x < -32768 then -32768 else if 32767 < x then 32767 else x

/-- R139, R141: the sample of one output at a sample event, from the streams as they stand before it. -/
def Sound.mix (s : Sound) (o : Fin 4) : Int :=
  if s.house then 0
  else saturate (s.beds[o].sample.2
    + ((List.finRange 4).map fun v => if s.voices[v].output = o then s.voices[v].sample.2 else 0).sum)

/-- R128, R135, R139, R140: the sample event. -/
def Sound.sampleEvent (s : Sound) : Sound :=
  { s with voices := Vector.ofFn fun v => s.voices[v].sample.1, beds := Vector.ofFn fun b => s.beds[b].sample.1,
           out := Vector.ofFn fun o => s.mix o }

/-- R130, R131: the sound frame event of one voice in show frame f, once in that frame (log entry 2). -/
def Sound.voiceFrame (s : Sound) (v : Fin 4) (f : Nat) : Sound :=
  if s.voices[v].frame = some f then s
  else
    let ends := s.voices[v].stallEnds || s.voices[v].fadeEnds
    let counted := { s with voices := s.voices.set v { s.voices[v].count with frame := some f } }
    if ends then counted.dropFlight (voiceStream v) else counted

/-- R136: the sound frame event of one bed in show frame f, once in that frame (log entry 2). -/
def Sound.bedFrame (s : Sound) (t : Tables) (running : Bool) (b : Fin 4) (f : Nat) : Sound :=
  if s.beds[b].frame = some f then s
  else
    let bed := { s.beds[b] with frame := some f }
    { s with beds := s.beds.set b (if running then bed.envelope (s.speaking b) (t.bed b).step else bed) }

/-- R134: SHOW is entered. -/
def Sound.startBeds (s : Sound) (t : Tables) : Sound :=
  { s with beds := Vector.ofFn fun b => s.beds[b].begin t }

/-- R134: SHOW is left. -/
def Sound.stopBeds (s : Sound) : Sound :=
  { (List.finRange 4).foldl (fun s b => s.dropFlight (bedStream b)) s with
    beds := Vector.ofFn fun b => s.beds[b].stop }

/-- R138: SET BED. -/
def Sound.setBed (s : Sound) (t : Tables) (o : Fin 4) (clip : Option (Fin 256)) (gain : Nat) (running : Bool) :
    Sound :=
  let kept := !running || (decide (clip ≠ none) && decide (clip = s.beds[o].clip) && s.beds[o].playing)
  let set := { s with beds := s.beds.set o (s.beds[o].set t o clip gain running) }
  if kept then set else set.dropFlight (bedStream o)

/-- R133: every bed record is loaded from the bed table. -/
def Sound.loadBeds (s : Sound) (t : Tables) : Sound :=
  { s with beds := Vector.ofFn fun b => s.beds[b].load (t.bed b) }

/-- R132: entry to LOADING. -/
def Sound.enterLoading (s : Sound) : Sound :=
  { (List.finRange 4).foldl (fun s v => s.dropFlight (voiceStream v)) s with
    voices := Vector.ofFn fun v => if s.voices[v].state = .idle then s.voices[v] else s.voices[v].drop }

/-- R18, R124, R126, R132, R133, R141: SOFT RESET. The copy of HOUSE and a burst in flight are kept. -/
def Sound.softReset (s : Sound) (t : Tables) : Sound :=
  { s.dropAllFlights with
    voices := Vector.ofFn fun v => { Voice.reset with frame := s.voices[v].frame }
    beds := Vector.ofFn fun b => Bed.load { Bed.reset with frame := s.beds[b].frame } (t.bed b)
    served := 7 }

end Sys2Proof.Machine
end

