-- ==== Sys2Proof/Machine/ZoneOps.lean ====
section
/-! DEFINITION. The Zone Monitor (chapter 9): the input sample, zones, languages, buttons, lamps and the two safety
inputs, each as far as its own state goes. What reaches other blocks is in Machine/Publish.lean. -/

namespace Sys2Proof.Machine

/-! ### Zones (R165 to R168) -/

/-- R165: the active state of every sensor, each input read through its polarity. -/
def activeSensors (t : Tables) (inputs : BitVec 16) : BitVec 16 :=
  (List.finRange 16).foldl
    (fun acc (i : Fin 16) => if inputs.getLsbD i ≠ (t.sensor i).activeLow then acc ||| (1#16 <<< i.val) else acc) 0

/-- R165: a zone is occupied-raw when at least one sensor mapped to it is active. -/
def occupiedRaw (t : Tables) (active : BitVec 16) (z : Fin 12) : Bool :=
  (List.finRange 16).any fun i => decide ((t.sensor i).zone = some z) && active.getLsbD i

/-- R167: a zone becomes OCCUPIED at its next occupied-raw sample. -/
def Zone.entryEnds (x : Zone) (r : ZoneRec) : Bool := decide (x.state = .entering) && decide (r.entry ≤ x.counter + 1)

/-- R167: a zone becomes CLEAR at its next sample without occupancy. -/
def Zone.clearEnds (x : Zone) (r : ZoneRec) : Bool := decide (x.state = .emptying) && decide (r.clear ≤ x.counter + 1)

/-- R167: the zone frame event, on the zone's own state. -/
def Zone.step (x : Zone) (r : ZoneRec) (raw : Bool) : Zone :=
  match x.state, raw with
  | .clear, true => { x with state := .entering, counter := 0, raw := raw }
  | .clear, false => { x with raw := raw }
  | .entering, true =>
    if x.entryEnds r then { x with state := .occupied, counter := 0, raw := raw }
    else { x with counter := x.counter + 1, raw := raw }
  | .entering, false => { x with state := .clear, counter := 0, raw := raw }
  | .occupied, true => { x with raw := raw }
  | .occupied, false => { x with state := .emptying, counter := 0, raw := raw }
  | .emptying, true => { x with state := .occupied, counter := 0, raw := raw }
  | .emptying, false =>
    if x.clearEnds r then { x with state := .clear, counter := 0, raw := raw }
    else { x with counter := x.counter + 1, raw := raw }

/-- R168: what a zone frame event announces: OCCUPIED from ENTERING, or CLEAR from EMPTYING. -/
def Zone.news (before after : Zone) : Option ZoneState :=
  match before.state, after.state with
  | .entering, .occupied => some .occupied
  | .emptying, .clear => some .clear
  | _, _ => none

/-! ### Languages (R170, R171) -/

/-- R171: the next member of a language set above the current language, or the lowest member. -/
def nextLanguage (set : BitVec 4) (current : Fin 4) : Fin 4 :=
  match (List.finRange 4).find? (fun (l : Fin 4) => decide (current < l) && set.getLsbD l) with
  | some l => l
  | none =>
    match (List.finRange 4).find? (fun (l : Fin 4) => set.getLsbD l) with
    | some l => l
    | none => current

/-- A zone's current language is set. -/
def Monitor.setLanguage (m : Monitor) (z : Fin 12) (l : Fin 4) : Monitor :=
  { m with zones := m.zones.set z { m.zones[z] with language := l } }

/-- R170: every zone takes its default language. -/
def Monitor.defaultLanguages (m : Monitor) (t : Tables) : Monitor :=
  { m with zones := Vector.ofFn fun z => { m.zones[z] with language := (t.zone z).language } }

/-! ### Buttons (R172) -/

/-- R172: the button changes its debounced state at its next sample that differs from it. -/
def Button.changes (x : Button) (r : ButtonRec) : Bool := decide (r.debounce ≤ x.counter + 1)

/-- R172: the button frame event, on the button's own state. -/
def Button.step (x : Button) (r : ButtonRec) (pressed : Bool) : Button :=
  if pressed = x.pressed then { x with counter := 0 }
  else if x.changes r then { x with pressed := pressed, counter := 0 }
  else { x with counter := x.counter + 1 }

/-! ### Lamps (R174 to R176) -/

/-- What the pattern of an AUTO lamp depends on outside the Zone Monitor. -/
def firstListing (t : Tables) (b : Fin 16) : Option (Fin 64) :=
  (List.finRange 64).find? fun sc => (t.scene sc).sources.contains (.button b)

/-- R175: the pattern of a button's scene state. -/
def SceneState.pattern : SceneState → Pattern
  | .ready => .on
  | .pending => .fast
  | .running => .slow
  | .cooldown => .off
  | .disabled => .off

/-- R175: the pattern of an AUTO lamp. -/
def autoPattern (st : Store) (scenes : Vector SceneRun 64) (house : Bool) (b : Fin 16) : Pattern :=
  match (st.tables.button b).function with
  | .language _ => .on
  | .scene =>
    if st.mode ≠ .running || !st.triggersOn || house then .off
    else
      match firstListing st.tables b with
      | none => .off
      | some sc => scenes[sc].state.pattern

/-- R174: the pattern of a lamp of a mode. -/
def LampMode.pattern (m : LampMode) (auto : Pattern) : Pattern :=
  match m with
  | .off => .off
  | .on => .on
  | .slow => .slow
  | .fast => .fast
  | .auto => auto

/-- R174: a blink counter advances. -/
def Pattern.advance (p : Pattern) (counter : Nat) : Nat :=
  let last := match p with
    | .fast => 19
    | .off | .on | .slow => 99
  if last ≤ counter then 0 else counter + 1

/-- R174, R176: the lamp frame event; `auto` is the pattern of R175. -/
def Lamp.step (x : Lamp) (auto : Pattern) : Lamp :=
  let p := x.mode.pattern auto
  { x with pattern := p, blink := if p = x.pattern then p.advance x.blink else 0, flash := x.flash - 1 }

/-- R174: a lamp's mode is set; a flash ends, and the new pattern starts. -/
def Lamp.setMode (x : Lamp) (mode : LampMode) (auto : Pattern) : Lamp :=
  { x with mode := mode, pattern := mode.pattern auto, blink := 0, flash := 0 }

/-- R174: the initial mode of a lamp. -/
def ButtonRec.initialMode (r : ButtonRec) : LampMode := if r.manual then .off else .auto

/-- R176: the ack length. -/
def ButtonRec.ackLength (r : ButtonRec) : Nat := if r.ackLong then Config.flashLong else Config.flashShort

/-- R176: a qualifying press starts a flash, unless one is going on. -/
def Lamp.startFlash (x : Lamp) (length : Nat) : Lamp := if x.flash = 0 then { x with flash := length } else x

/-- R174, R176: the lamp is lit; its output is driven high. -/
def Lamp.lit (x : Lamp) : Bool :=
  decide (0 < x.flash) ||
  match x.pattern with
  | .off => false
  | .on => true
  | .slow => decide (x.blink < 50)
  | .fast => decide (x.blink < 10)

/-! ### The safety inputs (R179) -/

/-- R179: a safety frame event of an input that changes after two differing samples. -/
def Safety.filter (x : Safety) (sample : Bool) : Safety :=
  if sample = x.asserted then { x with count := 0 }
  else if 1 ≤ x.count then { x with asserted := sample, count := 0 }
  else { x with count := 1 }

/-- R179: the safety frame event of HOUSE; the first one publishes the sample directly. -/
def Safety.stepHouse (x : Safety) (sample : Bool) : Safety :=
  if x.published then x.filter sample else { x with asserted := sample, count := 0, published := true }

/-- R179: the safety frame event of ESTOP, which asserts at its first asserted sample. -/
def Safety.stepEstop (x : Safety) (sample : Bool) : Safety :=
  if x.published then
    if sample && !x.asserted then { x with asserted := true, count := 0 } else x.filter sample
  else { x with asserted := sample, count := 0, published := true }

/-- R179: a safety frame event publishes: a change, or the first publication. -/
def Safety.publishes (before after : Safety) : Bool :=
  !before.published || decide (before.asserted ≠ after.asserted)

/-- R179: a report goes with a publication, except a first publication of a released input. -/
def Safety.reports (before after : Safety) : Bool := before.published || after.asserted

end Sys2Proof.Machine
end

