-- ==== Sys2Proof/Machine/Ops.lean ====
section
/-! DEFINITION. The named operations that commands share: reports, replies, the transmitter and the request queue
(chapter 10), the hold condition and the axis table rewrite (chapter 8), and the two ends of a command. -/

namespace Sys2Proof.Machine

/-! ### Codes of section 11.2 -/

def StopReason.code : StopReason → Nat
  | .finish => 0 | .cancelled => 1 | .preempted => 2 | .restarted => 3
  | .standby => 4 | .estop => 5 | .axisFault => 6 | .cueError => 7

def DropReason.code : DropReason → Nat
  | .noWait => 0 | .full => 1 | .evicted => 2 | .patience => 3 | .cancelled => 4

def TriggerOutcome.code : TriggerOutcome → Nat
  | .started => 0 | .pending => 1 | .alreadyPending => 2 | .ignored => 3 | .restarted => 4
  | .queuedAgain => 5 | .cooldown => 6 | .disabled => 7 | .dropped => 8 | .house => 9

def Status.code : Status → Byte
  | .ok => 0 | .unknown => 1 | .badLength => 2 | .badArg => 3 | .wrongState => 4 | .notOwner => 5 | .busy => 6

def LoadCause.code : LoadCause → Nat
  | .tag => 0 | .length => 1 | .count => 2 | .crc => 3 | .table => 4 | .overrun => 5 | .entry => 6

def LoadStatus.code : LoadStatus → Nat
  | .none => 0 | .verifying => 1 | .applying => 2 | .done => 3 | .failed _ => 4

def LoadStatus.cause : LoadStatus → Option LoadCause
  | .failed c => some c
  | .none | .verifying | .applying | .done => Option.none

def ShowState.code : ShowState → Nat
  | .loading => 0 | .standby => 1 | .running => 2

def StartCause.code : StartCause → Nat
  | .powerOn => 0 | .resetPin => 1 | .softReset => 2

def ZoneState.code : ZoneState → Nat
  | .clear => 0 | .entering => 1 | .occupied => 2 | .emptying => 3

def AxisCause.code : AxisCause → Nat
  | .limit => 0 | .homeNotFound => 1 | .estop => 2

def SceneState.code : SceneState → Nat
  | .disabled => 0 | .ready => 1 | .pending => 2 | .running => 3 | .cooldown => 4

def AxisState.code : AxisState → Nat
  | .unhomed => 0 | .homing => 1 | .idle => 2 | .moving => 3 | .stopping => 4 | .held => 5 | .fault => 6

def Direction.code : Direction → Nat
  | .positive => 0 | .negative => 1

def StopEnding.code : StopEnding → Nat
  | .idle => 0 | .held => 1 | .next => 2

def VoiceState.code : VoiceState → Nat
  | .idle => 0 | .priming => 1 | .playing => 2 | .stalled => 3 | .fading => 4

def BedState.code : BedState → Nat
  | .off => 0 | .priming => 1 | .playing => 2 | .stalled => 3 | .ended => 4

def DuckDir.code : DuckDir → Nat
  | .up => 0 | .down => 1

def Pattern.code : Pattern → Nat
  | .off => 0 | .on => 1 | .slow => 2 | .fast => 3

def Alignment.code : Alignment → Nat
  | .edge => 0 | .centre => 1

def GroupOwner.code : GroupOwner → Byte
  | .none => 0xFF | .direct => 0xFE
  | .player p => BitVec.ofNat 8 p.val

/-! ### Reports (R186, R193) -/

/-- Section 10.6: the level of a report. -/
def Report.level : Report → Nat
  | .mark .. | .zoneState .. | .axisHomed .. => 0
  | .sceneStarted .. | .sceneEnded .. | .triggerDropped .. => 1
  | .voiceUnderrun .. | .loadDone .. | .loadFailed .. => 2
  | .axisFault .. | .house .. | .estop .. => 3

/-- Section 11.2: the kind byte of a report. -/
def Report.kind : Report → Byte
  | .mark .. => 0x40 | .zoneState .. => 0x41 | .axisHomed .. => 0x42 | .sceneStarted .. => 0x43
  | .sceneEnded .. => 0x44 | .triggerDropped .. => 0x45 | .voiceUnderrun .. => 0x46 | .loadDone .. => 0x47
  | .loadFailed .. => 0x48 | .axisFault .. => 0x49 | .house .. => 0x4A | .estop .. => 0x4B

/-- A 2-byte number, or 0xFFFF for none (R193). -/
def putOrNone16 : Option Nat → List Byte
  | none => [0xFF, 0xFF]
  | some n => put16 n

/-- R193: the fields of a report after byte 0. -/
def Report.fields : Report → List Byte
  | .mark code scene player cue => put8 code ++ put8 scene ++ put8 player ++ put16 cue
  | .zoneState zone state => put8 zone ++ put8 state.code
  | .axisHomed axis owner => put8 axis ++ putIndex owner
  | .sceneStarted scene player priority source => put8 scene ++ put8 player ++ put8 priority ++ source.put
  | .sceneEnded scene player reason cue => put8 scene ++ put8 player ++ put8 reason.code ++ put16 cue
  | .triggerDropped scene reason source => put8 scene ++ put8 reason.code ++ source.put
  | .voiceUnderrun voice owner scene clip language left =>
      put8 voice ++ putIndex owner ++ putIndex scene ++ putIndex clip ++ putIndex language ++ put32 left
  | .loadDone address sections => put32 address ++ put8 sections
  | .loadFailed cause address sect entry =>
      put8 cause.code ++ put32 address ++ putOrNone16 sect ++ putOrNone16 entry
  | .axisFault axis cause position owner scene =>
      put8 axis ++ put8 cause.code ++ putS32 position ++ putIndex owner ++ putIndex scene
  | .house asserted => putFlag asserted
  | .estop asserted => putFlag asserted

/-- Section 11.3: a link frame. -/
def linkFrame (kind : Byte) (payload : List Byte) : List Byte :=
  let body := BitVec.ofNat 8 (payload.length + 1) :: kind :: payload
  0x5A :: body ++ [0 - byteSum body]

/-- R186: a report is raised. -/
def Link.raise (l : Link) (r : Report) : Link :=
  if r.level < l.threshold then l
  else if l.reports.length < Config.reportMax then { l with reports := l.reports ++ [r] }
  else { l with lost := true }

/-- R185, R186: an idle transmitter chooses its next frame. -/
def Link.transmit (l : Link) : Link :=
  match l.sending with
  | some _ => l
  | none =>
    match l.replies, l.reports with
    | r :: rest, _ => { l with replies := rest, sending := some (linkFrame r.kind r.payload) }
    | [], r :: rest =>
      { l with reports := rest, lost := false, sending := some (linkFrame r.kind (putFlag l.lost ++ r.fields)) }
    | [], [] => l

/-- R184, R185: the reply of an executed request joins the reply list. -/
def Link.reply (l : Link) (kind : Byte) (payload : List Byte) : Link :=
  { l with replies := l.replies ++ [⟨kind ||| 0x80, payload, false⟩] }

/-- R183: an arrival joins the request queue, or is discarded with a BUSY reply. -/
def Link.arrive (l : Link) (kind : Byte) (payload : List Byte) : Link :=
  if l.requests.length < Config.requestMax then { l with requests := l.requests ++ [⟨kind, payload⟩] }
  else if (l.replies.filter (·.busy)).length < Config.busyMax then
    { l with replies := l.replies ++ [⟨kind ||| 0x80, [Status.busy.code], true⟩] }
  else l

/-- R184: a request may be executed: one waits, and the reply list holds no reply of an executed request. -/
def Link.ready? (l : Link) : Option (Request × Link) :=
  match l.requests with
  | r :: rest => if l.replies.all (·.busy) then some (r, { l with requests := rest }) else none
  | [] => none

/-! ### The receiver (R182) -/

/-- R182: a received byte; the kind and payload of a frame that has become an arrival come with it. -/
def Receiver.receive (x : Receiver) (b : Byte) (stopOk : Bool) : Receiver × Option (Byte × List Byte) :=
  if !stopOk then (Receiver.reset, none)
  else
    match x.state with
    | .hunt => if b = 0x5A then ({ Receiver.reset with state := .length }, none) else (Receiver.reset, none)
    | .length =>
      if 1 ≤ b.toNat ∧ b.toNat ≤ 200 then ({ state := .body, length := b.toNat, body := [], sum := b }, none)
      else (Receiver.reset, none)
    | .body =>
      let body := x.body ++ [b]
      ({ x with state := if x.length ≤ body.length then .check else .body, body := body, sum := x.sum + b }, none)
    | .check =>
      match x.body with
      | kind :: payload => (Receiver.reset, if x.sum + b = 0 then some (kind, payload) else none)
      | [] => (Receiver.reset, none)

/-! ### The whole part -/

/-- R186 on the whole part. -/
def State.raise (s : State) (r : Report) : State := { s with link := s.link.raise r }

/-- The end of a command that reaches the link alone: an idle transmitter takes what waits (R185). -/
def State.finishLink (s : State) : State := { s with link := s.link.transmit }

/-- The end of a command that may also bring a stream or an image read to wait for the flash port: a grant is made
while no burst is in flight (R124), and an idle transmitter takes what waits (R185). -/
def State.finish (s : State) : State :=
  { s with link := s.link.transmit, sound := s.sound.grant s.store.load.isSome }

/-- A command takes effect only while the part is not held in reset (R12). -/
def State.live (s : State) (k : State → State) : State := if s.inReset then s else k s

/-- The show frame f has been reached (log entry 2). -/
def State.atFrame (s : State) (f : Nat) : State := { s with frame := some f }

/-- A frame-event command of the unit whose last frame stamp is `last`: the step `k` in show frame f, or no event
when its condition does not hold or when the unit has already taken its event in f (log entry 2). -/
def State.frameStep (s : State) (f : Nat) (last : Option Nat) (brink : Bool) (k : State → State) : State :=
  s.live fun s => if brink && decide (last ≠ some f) then k (s.atFrame f) else s

/-! ### Requests (R184) -/

/-- The reply payload of a status alone. -/
def Status.alone (x : Status) : List Byte := [x.code]

/-- R184: a reply of status OK with its fields. -/
def okWith (fields : List Byte) : List Byte := Status.ok.code :: fields

/-- R184: the checks of a request in LOADING and of its length, and then its own rule `body`, which gives the state
and the reply payload. -/
def State.answer (s : State) (inLoading : Bool) (lengthOk : State → List Byte → Bool)
    (body : List Byte → State → State × List Byte) (payload : List Byte) : State × List Byte :=
  if !inLoading && decide (s.store.mode = .loading) then (s, Status.wrongState.alone)
  else if !lengthOk s payload then (s, Status.badLength.alone)
  else body payload s

/-- R184: the request at the front of the queue is executed, if one may be and its kind is `kind`: it leaves the
queue, it is answered, its reply joins the reply list, and `fin` ends the command. -/
def State.serve (fin : State → State) (kind : Byte) (inLoading : Bool) (lengthOk : State → List Byte → Bool)
    (body : List Byte → State → State × List Byte) (s : State) : State :=
  s.live fun s =>
    match s.link.ready? with
    | none => s
    | some (r, l) =>
      if r.kind = kind then
        let answer := State.answer { s with link := l } inLoading lengthOk body r.payload
        fin { answer.1 with link := answer.1.link.reply kind answer.2 }
      else s

/-- R192: a payload of a fixed length. -/
def exactly (n : Nat) : State → List Byte → Bool := fun _ bs => decide (bs.length = n)

/-! ### Axes in the whole part -/

/-- R159: the hold condition of an axis. -/
def State.holdPresent (s : State) (a : Fin 8) : Bool :=
  s.motion.house ||
  match (s.store.tables.axis a).guard with
  | none => false
  | some z => decide (s.monitor.zones[z].state ≠ .clear)

/-- Replaces every axis. -/
def State.mapAxes (s : State) (k : Fin 8 → Axis → Axis) : State :=
  { s with motion := { s.motion with axes := Vector.ofFn fun a => k a s.motion.axes[a] } }

/-- R159, R160: the hold condition of each axis has gone from what it was in `before` to what it is in `s`. -/
def State.holdsChanged (s before : State) : State :=
  s.mapAxes fun a x => x.holdChange (s.store.tables.axis a) (before.holdPresent a) (s.holdPresent a)

/-- Replaces one axis. -/
def State.setAxis (s : State) (a : Fin 8) (x : Axis) : State :=
  { s with motion := { s.motion with axes := s.motion.axes.set a x } }

/-- R157: the axis table has been rewritten for the axes that `hit` names; the tables before are in `before`. -/
def State.axesRewritten (s before : State) (hit : Fin 8 → Bool) : State :=
  State.holdsChanged (s.mapAxes fun a x => if hit a then x.limitsRewritten (s.store.tables.axis a) else x) before

/-- R162: every axis receives a stop request. -/
def Motion.stopAll (m : Motion) : Motion := { m with axes := Vector.ofFn fun a => m.axes[a].stopRequest }

/-- The scene that a player holds. -/
def State.sceneOf (s : State) (p : Option (Fin 8)) : Option (Fin 64) :=
  p.bind fun p => s.engine.players[p].map (·.scene)

end Sys2Proof.Machine
end

