-- ==== Sys2Proof/Machine/LightCommands.lean ====
section
/-! DEFINITION. The commands of the Lighting Engine (chapters 5 and 6). -/

namespace Sys2Proof.Machine

/-- R97, R79. -/
def State.answerSetLevel (bs : List Byte) (s : State) : State × List Byte :=
  match levelOperands? bs with
  | none => (s, Status.badArg.alone)
  | some (c, level, fade, curve) =>
    if s.engine.claims.groups[(s.store.tables.channel c).group] = .direct then
      ({ s with light := s.light.startFade c level fade curve }, okWith [])
    else (s, Status.notOwner.alone)

/-- SET_LEVEL (R97). -/
def execSetLevel (s : State) : Host.Outcome State Fault Refusal :=
  .next (State.serve State.finishLink 0x10 false (exactly 5) State.answerSetLevel s)

/-- R98, R79. -/
def State.answerSetMaster (bs : List Byte) (s : State) : State × List Byte :=
  match masterOperands? bs with
  | none => (s, Status.badArg.alone)
  | some (g, level, fade) =>
    if s.engine.claims.groups[g] = .direct then
      ({ s with light := s.light.startMaster g level fade }, okWith [])
    else (s, Status.notOwner.alone)

/-- SET_MASTER (R98). -/
def execSetMaster (s : State) : Host.Outcome State Fault Refusal :=
  .next (State.serve State.finishLink 0x11 false (exactly 4) State.answerSetMaster s)

/-- R99. -/
def State.answerSetGrand (bs : List Byte) (s : State) : State × List Byte :=
  ({ s with light := { s.light with grand := byteAt bs 0 } }, okWith [])

/-- SET_GRAND (R99). -/
def execSetGrand (s : State) : Host.Outcome State Fault Refusal :=
  .next (State.serve State.finishLink 0x12 false (exactly 1) State.answerSetGrand s)

/-- The lighting frame event of show frame f in the whole part (R86). -/
def State.lightingFrame (s : State) (f : Nat) : State :=
  { s with light := s.light.frameEvent s.store s.engine.claims f }

/-- LIGHTING_FRAME_EVENT (R86, R113). -/
def execLightingFrameEvent (f : Nat) (s : State) : Host.Outcome State Fault Refusal :=
  .next (s.frameStep f s.light.frame true fun s => s.lightingFrame f)

/-- ATTRACT_HOLD_EXPIRY (R113): the lighting frame event in which the hold remaining reaches 0. -/
def execAttractHoldExpiry (f : Nat) (s : State) : Host.Outcome State Fault Refusal :=
  .next (s.frameStep f s.light.frame (s.store.attractRunning && decide (s.light.hold ≤ 1)) fun s => s.lightingFrame f)

/-- PWM_PERIOD_START (R104, R105). -/
def execPwmPeriodStart (c : Fin 48) (s : State) : Host.Outcome State Fault Refusal :=
  .next (s.live fun s => { s with light := s.light.periodStart s.store.tables c })

end Sys2Proof.Machine
end

