-- ==== Sys2Proof/Machine/Queries.lean ====
section
/-! DEFINITION. The reply fields of IDENT, STATUS and QUERY (R188 to R190), laid out in the order in which the
owning rules list them (R191). Where R191 leaves a layout open the choice is log entry 13. -/

namespace Sys2Proof.Machine

/-- R188: the fields of IDENT. -/
def Link.identFields (l : Link) : List Byte :=
  put16 Config.partNumber ++ put8 Config.siliconRevision ++ putFlag l.fastBaud ++ putFlag l.mode1 ++ putFlag l.mode0
  ++ put8 l.cause.code

/-- R189: the fields of STATUS, as they stand when it is executed. The published HOUSE and ESTOP are asserted 1 and
released 0 (log entry 13). -/
def State.statusFields (s : State) : List Byte :=
  put8 s.store.mode.code ++ putFlag s.store.triggersOn ++ putFlag s.store.attractOn
  ++ put8 s.store.status.code ++ putOpt 1 (fun c => put8 (LoadCause.code c)) s.store.status.cause
  ++ putFlag s.store.attractRunning ++ put8 s.light.slot ++ put16 s.light.hold
  ++ putFlag s.monitor.house.asserted ++ putFlag s.monitor.estop.asserted
  ++ put8 ((List.finRange 8).filter fun (p : Fin 8) => s.engine.players[p].isSome).length
  ++ put8 s.engine.queue.length
  ++ put8 s.link.threshold ++ put8 s.link.reports.length ++ putFlag s.link.lost ++ put8 s.link.requests.length

/-- R20: QUERY scene. -/
def State.querySceneFields (s : State) (sc : Fin 64) : List Byte :=
  let x := s.engine.scenes[sc]
  let holder := (List.finRange 8).find? fun (p : Fin 8) => decide (s.engine.players[p].map (·.scene) = some sc)
  put8 x.state.code ++ put16 x.cooldown ++ putFlag x.again ++ putOpt 1 (fun (p : Fin 8) => put8 p.val) holder

/-- R39: the code of a player's state. -/
def playerStateCode : Option Run → Nat
  | none => 0
  | some r => match r.phase with
    | .delaying _ => 1
    | .awaiting _ => 2
    | .blocked => 3

/-- R39: delay remaining, 0 in AWAITING and BLOCKED. -/
def Phase.delay : Phase → Nat
  | .delaying d => d
  | .awaiting _ | .blocked => 0

/-- R39: the await record of an AWAITING player. -/
def Phase.await? : Phase → Option Await
  | .awaiting a => some a
  | .delaying _ | .blocked => none

/-- R39: an await record; button seen is present for condition BUTTON, and a timeout of none is an absent field (log entry
13). -/
def Await.put (a : Await) : List Byte :=
  let seen := match a.cond with
    | .button _ => some a.seen
    | .voiceDone | .axisDone _ | .axesDone | .zoneClear _ | .zoneOccupied _ => none
  put8 a.cond.code ++ [a.operand] ++ putOpt 2 put16 a.timeout ++ put16 a.target ++ putOpt 1 putFlag seen

/-- R39: an entry of a loop stack. -/
def LoopEntry.put (e : LoopEntry) : List Byte := put16 e.cue ++ put8 e.count

/-- R39: QUERY player. The voice of a player that has none is a present field of 0xFF, the blocked cue is its cue index,
and an absent loop stack is a presence byte and a count byte of 0 (log entry 13). -/
def State.queryPlayerFields (s : State) (p : Fin 8) : List Byte :=
  let r := s.engine.players[p]
  put8 (playerStateCode r)
  ++ putOpt 1 (fun (x : Run) => put8 x.scene) r
  ++ putOpt 1 (fun (x : Run) => put8 x.priority) r
  ++ putOpt 1 (fun (x : Run) => put8 x.order) r
  ++ putOpt 2 (fun (x : Run) => put16 x.cue) r
  ++ putOpt 2 (fun (x : Run) => put16 x.phase.delay) r
  ++ putOpt 9 Await.put (r.bind fun x => x.phase.await?)
  ++ putOpt 2 (fun (x : Run) => put16 x.cue) (r.filter fun x => decide (x.phase = .blocked))
  ++ putOpt 1 (fun (x : Run) => putList LoopEntry.put x.loops) r
  ++ putOpt 1 (fun (x : Run) => putIndex x.voice) r
  ++ putOpt 1 (fun (x : Run) => put8 x.executed) r

/-- R29, R190: an entry of the pending queue. Its source is a kind byte and a number byte (log entry 13). -/
def Entry.put (e : Entry) : List Byte :=
  put8 e.scene ++ put8 e.priority ++ e.source.put ++ put16 e.arrival ++ put16 e.patience

/-- R190: QUERY pending queue. -/
def State.queryQueueFields (s : State) : List Byte := putList Entry.put s.engine.queue ++ put16 s.engine.arrivals

/-- R63: QUERY claims: the owner of all 28 entries, and the start order of each non-FREE player. The groups, then the axes,
then the voices, then the players, each by rising number (log entry 13). -/
def State.queryClaimsFields (s : State) : List Byte :=
  ((List.finRange 16).map fun (g : Fin 16) => s.engine.claims.groups[g].code)
  ++ ((List.finRange 8).map fun (a : Fin 8) => putIndex s.engine.claims.axes[a]).flatten
  ++ ((List.finRange 4).map fun (v : Fin 4) => putIndex s.engine.claims.voices[v]).flatten
  ++ ((List.finRange 8).map fun (p : Fin 8) =>
        putOpt 1 (fun (x : Run) => put8 x.order) s.engine.players[p]).flatten

/-- R101: a duty with its house mark. -/
def Duty.put (d : Duty) : List Byte := put16 d.duty ++ putFlag d.house

/-- R120: the phase at the last lighting frame event of the carrier that a channel's record names: on, off or none. -/
def State.carrierPhase (s : State) (c : Fin 48) : Option Bool := s.light.phaseOf s.store.tables s.store.mode c

/-- R120: the code of a carrier phase. -/
def phaseCode : Option Bool → Byte
  | some true => 0
  | some false => 1
  | none => 0xFF

/-- R100, R120: QUERY channel. The target of the fade takes the 2 bytes of an intent, and the phase slot and the alignment
are those of the channel record (log entry 13). -/
def State.queryChannelFields (s : State) (c : Fin 48) : List Byte :=
  let r := s.store.tables.channel c
  let x := s.light.channels[c]
  put8 r.group ++ [s.engine.claims.groups[r.group].code]
  ++ put16 x.fade.start ++ put16 x.fade.target ++ put16 x.fade.length ++ put16 x.fade.elapsed
  ++ put8 x.fade.curve.code ++ put16 x.fade.intent ++ put8 s.light.masters[r.group].level ++ put8 s.light.grand
  ++ put16 x.base ++ put16 x.gated ++ x.staged.put ++ x.active.put ++ [phaseCode (s.carrierPhase c)]
  ++ put8 (r.effectiveSlot c) ++ put8 r.align.code ++ putFlag s.light.house

/-- R100: QUERY group. The target of the master fade takes the 1 byte of a level (log entry 13). -/
def State.queryGroupFields (s : State) (g : Fin 16) : List Byte :=
  let m := s.light.masters[g]
  [s.engine.claims.groups[g].code]
  ++ put8 ((List.finRange 48).filter fun c => decide ((s.store.tables.channel c).group = g)).length
  ++ put8 m.start ++ put8 m.target ++ put16 m.length ++ put16 m.elapsed ++ put8 m.level ++ put8 s.light.grand

/-- R143: a burst of the stream is in flight. -/
def Sound.inFlight (s : Sound) (n : Fin 8) : Bool :=
  match s.flight with
  | some (.stream m _ _ _) => decide (m = n)
  | some .image | none => false

/-- R143: QUERY voice. -/
def State.queryVoiceFields (s : State) (v : Fin 4) : List Byte :=
  let x := s.sound.voices[v]
  putIndex s.engine.claims.voices[v] ++ put8 x.state.code ++ putOpt 1 (fun (c : Fin 256) => put8 c.val) x.clip
  ++ putOpt 2 (fun (i : Fin 4 × Fin 4) => put8 i.1 ++ put8 i.2) x.variant ++ put8 x.output
  ++ put32 x.feed.cursor ++ put32 x.feed.left ++ put16 x.feed.buffer.length ++ put8 Config.voiceGain
  ++ put8 x.fade ++ put16 x.stall ++ putFlag (s.sound.inFlight (voiceStream v))

/-- R143: QUERY bed. -/
def State.queryBedFields (s : State) (b : Fin 4) : List Byte :=
  let x := s.sound.beds[b]
  putClip x.clip ++ put8 x.gain ++ put8 x.duck ++ put8 x.state.code ++ put32 x.feed.cursor ++ put32 x.feed.left
  ++ put16 x.feed.buffer.length ++ put8 x.stage ++ put8 x.dir.code ++ put16 x.timer ++ put8 x.applied
  ++ putFlag (s.sound.speaking b) ++ putFlag s.sound.house

/-- A MOVE's target and profile. -/
def Move.put (m : Move) : List Byte := putS32 m.target ++ put8 m.profile

/-- R144: a follow-on activity: MOVE 0 with target and profile, or HOME 1 with their bytes at 0 (log entry 13). -/
def Activity.put : Activity → List Byte
  | .move m => put8 0 ++ m.put
  | .home => put8 1 ++ List.replicate 5 0

/-- R164: QUERY axis. -/
def State.queryAxisFields (s : State) (a : Fin 8) : List Byte :=
  let x := s.motion.axes[a]
  put8 x.state.code ++ putFlag x.homed ++ putS32 x.position ++ put16 x.rate ++ put16 x.acc ++ put8 x.dir.code
  ++ putOpt 4 putS32 x.target ++ putOpt 1 (fun (p : Fin 16) => put8 p.val) x.profile
  ++ putOpt 1 (fun e => put8 (StopEnding.code e)) x.ending ++ putOpt 6 Activity.put x.follow
  ++ putOpt 5 Move.put x.pendingMove ++ putOpt 2 put16 x.wait ++ putOpt 1 (fun c => put8 (AxisCause.code c)) x.cause
  ++ putIndex s.engine.claims.axes[a] ++ putFlag x.homeSwitch ++ putFlag x.limitSwitch ++ putFlag (s.holdPresent a)
  ++ putFlag s.motion.house ++ putFlag s.motion.estop

/-- R180: a lamp in the reply of QUERY zone. -/
def Lamp.put (x : Lamp) : List Byte :=
  put8 x.mode.code ++ put8 x.pattern.code ++ put16 x.flash ++ putFlag x.lit

/-- R180: a safety input in the reply of QUERY zone, asserted as 1 and released as 0 (log entry 13). -/
def Safety.put (x : Safety) : List Byte := putFlag x.asserted ++ put8 x.count

/-- R180: QUERY zone. Neither R180 nor R191 orders the sensors mapped to the zone; the model lists them by rising sensor
number, each with its number before its active state, and gives the sensors, buttons and lamps of the gallery by rising
number (log entry 13). -/
def State.queryZoneFields (s : State) (z : Fin 12) : List Byte :=
  let m := s.monitor
  let x := m.zones[z]
  let mapped := (List.finRange 16).filter fun i => decide ((s.store.tables.sensor i).zone = some z)
  put8 x.state.code ++ put16 x.counter ++ putFlag x.raw
  ++ putList (fun (i : Fin 16) => put8 i ++ putFlag (m.sensors.getLsbD i)) mapped ++ put8 x.language
  ++ ((List.finRange 16).map fun (i : Fin 16) => putFlag (m.sensors.getLsbD i)).flatten
  ++ ((List.finRange 16).map fun (b : Fin 16) => putFlag m.buttons[b].pressed).flatten
  ++ ((List.finRange 16).map fun (b : Fin 16) => m.lamps[b].put).flatten
  ++ m.house.put ++ m.estop.put

/-- R190: the fields of a QUERY reply. -/
def State.queryFields (s : State) : Selection → List Byte
  | .scene i => s.querySceneFields i
  | .player i => s.queryPlayerFields i
  | .queue => s.queryQueueFields
  | .claims => s.queryClaimsFields
  | .channel i => s.queryChannelFields i
  | .group i => s.queryGroupFields i
  | .voice i => s.queryVoiceFields i
  | .bed i => s.queryBedFields i
  | .axis i => s.queryAxisFields i
  | .zone i => s.queryZoneFields i

end Sys2Proof.Machine
end

