-- ==== Sys2Proof/Machine/LinkCommands.lean ====
section
/-! DEFINITION. The commands of the Link Interface (chapter 10): received bytes and frames, the transmitter, and the
requests that it owns. -/

namespace Sys2Proof.Machine

/-- R183: an arrival in the whole part. -/
def State.arrive (s : State) (kind : Byte) (payload : List Byte) : State :=
  State.finishLink { s with link := s.link.arrive kind payload }

/-- ARRIVAL (R183). A payload of more than 199 bytes is no link frame, and then nothing has arrived. -/
def execArrival (kind : Byte) (payload : List Byte) (s : State) : Host.Outcome State Fault Refusal :=
  .next (s.live fun s =>
    if payload.length ≤ 199 then
      State.arrive { s with link := { s.link with receiver := Receiver.reset } } kind payload
    else s)

/-- BYTE_RECEIVED (R182, R183). -/
def execByteReceived (b : Byte) (stopOk : Bool) (s : State) : Host.Outcome State Fault Refusal :=
  .next (s.live fun s =>
    let x := s.link.receiver.receive b stopOk
    let stepped := { s with link := { s.link with receiver := x.1 } }
    match x.2 with
    | none => stepped
    | some (kind, payload) => stepped.arrive kind payload)

/-- GAP_TIMEOUT (R182): the partial frame is discarded; in HUNT the gap timer does not run. -/
def execGapTimeout (s : State) : Host.Outcome State Fault Refusal :=
  .next (s.live fun s =>
    if s.link.receiver.state = .hunt then s
    else { s with link := { s.link with receiver := Receiver.reset } })

/-- TRANSMIT_END (R185): a frame ends, and the transmitter chooses the next one. -/
def execTransmitEnd (s : State) : Host.Outcome State Fault Refusal :=
  .next (s.live fun s =>
    match s.link.sending with
    | none => s
    | some _ => State.finishLink { s with link := { s.link with sending := none } })

/-- Section 11.2: the kind is one of the request kinds, 0x01 to 0x17. -/
def isRequestKind (kind : Byte) : Bool := decide (1 ≤ kind.toNat) && decide (kind.toNat ≤ 23)

/-- UNKNOWN_REQUEST (R184). -/
def execUnknownRequest (s : State) : Host.Outcome State Fault Refusal :=
  .next (s.live fun s =>
    match s.link.ready? with
    | none => s
    | some (r, l) =>
      if isRequestKind r.kind then s
      else State.finishLink { s with link := l.reply r.kind Status.unknown.alone })

/-- IDENT (R188). -/
def execIdent (s : State) : Host.Outcome State Fault Refusal :=
  .next (State.serve State.finishLink 0x01 true (exactly 0) (fun _ s => (s, okWith s.link.identFields)) s)

/-- STATUS (R189). -/
def execStatus (s : State) : Host.Outcome State Fault Refusal :=
  .next (State.serve State.finishLink 0x02 true (exactly 0) (fun _ s => (s, okWith s.statusFields)) s)

/-- R190. -/
def State.answerQuery (bs : List Byte) (s : State) : State × List Byte :=
  match queryOperand? bs with
  | none => (s, Status.badArg.alone)
  | some sel => (s, okWith (s.queryFields sel))

/-- QUERY (R190). -/
def execQuery (s : State) : Host.Outcome State Fault Refusal :=
  .next (State.serve State.finishLink 0x03 true (exactly 2) State.answerQuery s)

/-- R187. -/
def State.answerReportLevel (bs : List Byte) (s : State) : State × List Byte :=
  match thresholdOperand? bs with
  | none => (s, Status.badArg.alone)
  | some t => ({ s with link := { s.link with threshold := t } }, okWith (put8 t ++ put8 s.link.reports.length))

/-- REPORT_LEVEL (R187). -/
def execReportLevel (s : State) : Host.Outcome State Fault Refusal :=
  .next (State.serve State.finishLink 0x04 false (exactly 1) State.answerReportLevel s)

end Sys2Proof.Machine
end

