-- ==== Sys2Proof/Machine/SceneOps.lean ====
section
/-! DEFINITION. The Scene Engine: claims, admission, preemption, player stops, scene ends, the pending queue and
rescans (chapters 2 and 4, R57 to R60). -/

namespace Sys2Proof.Machine

/-! ### Updates of the engine's records -/

def State.setScene (s : State) (sc : Fin 64) (x : SceneRun) : State :=
  { s with engine := { s.engine with scenes := s.engine.scenes.set sc x } }

def State.setPlayer (s : State) (p : Fin 8) (r : Option Run) : State :=
  { s with engine := { s.engine with players := s.engine.players.set p r } }

def State.setQueue (s : State) (q : List Entry) : State := { s with engine := { s.engine with queue := q } }

/-- The scene takes a state with cooldown remaining 0 and the again flag clear. -/
def State.sceneTo (s : State) (sc : Fin 64) (x : SceneState) : State := s.setScene sc ⟨x, 0, false, none⟩

/-- R34: COOLDOWN, or READY when the scene's cooldown is 0; the again flag is clear. -/
def State.sceneRests (s : State) (sc : Fin 64) : State :=
  let c := (s.store.tables.scene sc).cooldown
  if c = 0 then s.sceneTo sc .ready else s.setScene sc ⟨.cooldown, c, false, s.frame⟩

/-- The number of non-FREE players. -/
def Engine.running (e : Engine) : Nat := ((List.finRange 8).filter fun (p : Fin 8) => e.players[p].isSome).length

/-- The lowest-numbered FREE player. -/
def Engine.firstFree (e : Engine) : Option (Fin 8) := (List.finRange 8).find? fun (p : Fin 8) => e.players[p].isNone

/-- The player that holds a scene. -/
def Engine.holder (e : Engine) (sc : Fin 64) : Option (Fin 8) :=
  (List.finRange 8).find? fun (p : Fin 8) => decide (e.players[p].map (·.scene) = some sc)

/-! ### Admission (R25, R26, R70, R71) -/

/-- R25: what a player owns may be taken by a scene of priority `pr`. -/
def Engine.below (e : Engine) (pr : Nat) (p : Fin 8) : Bool :=
  match e.players[p] with
  | some r => decide (r.priority < pr)
  | none => true

/-- R25: a group is available. -/
def Engine.groupFree (e : Engine) (pr : Nat) (g : Fin 16) : Bool :=
  match e.claims.groups[g] with
  | .none => true
  | .direct => false
  | .player p => e.below pr p

/-- R25: an axis is available. -/
def Engine.axisFree (e : Engine) (pr : Nat) (a : Fin 8) : Bool :=
  match e.claims.axes[a] with
  | none => true
  | some p => e.below pr p

/-- R26, R71: whether a player ranks before another to be taken from: the lower priority, then the lower start
order. -/
def Run.ranksBelow (r q : Run) : Bool :=
  decide (r.priority < q.priority) || (decide (r.priority = q.priority) && decide (r.order < q.order))

/-- R71: the non-FREE player of the lowest priority below `pr`, the earliest started among equals, of those that
`among` names. -/
def Engine.lowest (e : Engine) (pr : Nat) (among : Fin 8 → Bool) : Option (Fin 8) :=
  (List.finRange 8).foldl
    (fun best (p : Fin 8) =>
      match e.players[p] with
      | none => best
      | some r =>
        if among p && decide (r.priority < pr) then
          match best.bind fun q => e.players[q] with
          | some b => if r.ranksBelow b then some p else best
          | none => some p
        else best)
    none

/-- R26: the voice chosen for a scene of priority `pr`. -/
def State.chooseVoice (s : State) (pr : Nat) : Option (Fin 4) :=
  let owners := s.engine.claims.voices
  let voices := List.finRange 4
  match voices.find? fun (v : Fin 4) => decide (owners[v] = none) && decide (s.sound.voices[v].state = .idle) with
  | some v => some v
  | none =>
    match voices.find? fun (v : Fin 4) => decide (owners[v] = none) with
    | some v => some v
    | none =>
      match s.engine.lowest pr fun p => voices.any fun (v : Fin 4) => decide (owners[v] = some p) with
      | some p => voices.find? fun (v : Fin 4) => decide (owners[v] = some p)
      | none => none

/-- R25: scene `sc` is admissible. -/
def State.admissible (s : State) (sc : Fin 64) : Bool :=
  let r := s.store.tables.scene sc
  ((List.finRange 8).any fun (p : Fin 8) => s.engine.below r.priority p)
  && ((List.finRange 16).all fun (g : Fin 16) => !r.groupMask.getLsbD g || s.engine.groupFree r.priority g)
  && ((List.finRange 8).all fun (a : Fin 8) => !r.axisMask.getLsbD a || s.engine.axisFree r.priority a)
  && (!r.narration || (s.chooseVoice r.priority).isSome)

/-- R70 step 1: a player owns a resource that the scene needs. -/
def Engine.ownsNeeded (e : Engine) (r : SceneRec) (voice : Option (Fin 4)) (p : Fin 8) : Bool :=
  ((List.finRange 16).any fun (g : Fin 16) => r.groupMask.getLsbD g && decide (e.claims.groups[g] = .player p))
  || ((List.finRange 8).any fun (a : Fin 8) => r.axisMask.getLsbD a && decide (e.claims.axes[a] = some p))
  || match voice with
     | some v => decide (e.claims.voices[v] = some p)
     | none => false

/-- R70 steps 1 and 2: the players that an admission stops, in the order of their stops. -/
def State.preempted (s : State) (sc : Fin 64) (voice : Option (Fin 4)) : List (Fin 8) :=
  let r := s.store.tables.scene sc
  let owners := (List.finRange 8).filter fun (p : Fin 8) =>
    s.engine.players[p].isSome && s.engine.ownsNeeded r voice p
  if owners.isEmpty && s.engine.firstFree.isNone then
    match s.engine.lowest r.priority fun _ => true with
    | some p => [p]
    | none => []
  else owners

/-! ### Stops (R57, R65) -/

/-- The groups that a player owns. -/
def Engine.groupsOf (e : Engine) (p : Fin 8) : List (Fin 16) :=
  (List.finRange 16).filter fun (g : Fin 16) => decide (e.claims.groups[g] = .player p)

/-- R65: every entry that names the player becomes NONE. -/
def Claims.release (c : Claims) (p : Fin 8) : Claims :=
  { groups := Vector.ofFn fun g => if c.groups[g] = .player p then .none else c.groups[g],
    axes := Vector.ofFn fun a => if c.axes[a] = some p then none else c.axes[a],
    voices := Vector.ofFn fun v => if c.voices[v] = some p then none else c.voices[v] }

/-- R40: a player with a start order becomes FREE. -/
def lowerOrders (players : Vector (Option Run) 8) (p : Fin 8) (order : Nat) : Vector (Option Run) 8 :=
  Vector.ofFn fun q =>
    if q = p then none
    else players[q].map fun r => if order < r.order then { r with order := r.order - 1 } else r

/-- R57: the stop of a player, up to its SCENE_ENDED report; the scene leaves RUNNING with its again flag as it
is, and takes its next state afterwards (R34). -/
def State.halt (s : State) (p : Fin 8) (reason : StopReason) : State :=
  match s.engine.players[p] with
  | none => s
  | some r =>
    let scene := { s.engine.scenes[r.scene] with state := .ready, cooldown := 0 }
    State.raise
      { s with
        engine := { s.engine with
          scenes := s.engine.scenes.set r.scene scene, players := lowerOrders s.engine.players p r.order,
          claims := s.engine.claims.release p }
        sound := { s.sound with voices := Vector.ofFn fun v =>
          if s.engine.claims.voices[v] = some p then s.sound.voices[v].fadeOut else s.sound.voices[v] }
        motion := { s.motion with axes := Vector.ofFn fun a =>
          if s.engine.claims.axes[a] = some p then s.motion.axes[a].stopRequest else s.motion.axes[a] } }
      (.sceneEnded r.scene p reason r.cue)

/-- R78, R115: the groups released by an event return to attract, in increasing group number, where they are still
unowned. -/
def State.returnGroups (s : State) (released : List (Fin 16)) : State :=
  if s.store.attractRunning then
    let back (l : Lighting) (g : Fin 16) : Lighting :=
      if released.contains g then l.returnGroup s.store.tables s.engine.claims g else l
    { s with light := (List.finRange 16).foldl back s.light }
  else s

/-- What an event has stopped and released: the scenes with their stop reasons, in the order of the stops, and the
groups. -/
structure Released where
  ended : List (Fin 64 × StopReason)
  groups : List (Fin 16)

/-- R57, with what it has ended and released. -/
def State.haltNoting (s : State) (n : Released) (p : Fin 8) (reason : StopReason) : State × Released :=
  match s.engine.players[p] with
  | none => (s, n)
  | some r => (s.halt p reason, ⟨n.ended ++ [(r.scene, reason)], n.groups ++ s.engine.groupsOf p⟩)

/-! ### Starts (R27, R41, R64, R70) -/

/-- R64: the player claims the resource set. -/
def Claims.claim (c : Claims) (r : SceneRec) (voice : Option (Fin 4)) (p : Fin 8) : Claims :=
  { groups := Vector.ofFn fun g => if r.groupMask.getLsbD g then .player p else c.groups[g],
    axes := Vector.ofFn fun a => if r.axisMask.getLsbD a then some p else c.axes[a],
    voices := Vector.ofFn fun v => if voice = some v then some p else c.voices[v] }

/-- R41: the record of a player at its start. -/
def Tables.startRun (t : Tables) (sc : Fin 64) (voice : Option (Fin 4)) (order : Nat) (frame : Option Nat) : Run :=
  let r := t.scene sc
  { scene := sc, priority := r.priority, order := order, cue := r.firstCue,
    phase := .delaying (t.cue r.firstCue).delay, loops := [], voice := voice, executed := 0, frame := frame }

/-- R70 step 3: the scene starts on the lowest-numbered FREE player. -/
def State.startOn (s : State) (sc : Fin 64) (src : Source) (voice : Option (Fin 4)) (p : Fin 8) : State :=
  let r := s.store.tables.scene sc
  let run := s.store.tables.startRun sc voice (s.engine.running + 1) s.frame
  State.raise
    { s with engine := { s.engine with
        scenes := s.engine.scenes.set sc ⟨.running, 0, false, none⟩,
        players := s.engine.players.set p (some run),
        claims := s.engine.claims.claim r voice p } }
    (.sceneStarted sc p r.priority src)

/-- R70, R59: the preemptions, the start and, under ESTOP, the stop of a scene that claims an axis. -/
def State.start (s : State) (sc : Fin 64) (src : Source) : State × Released :=
  let r := s.store.tables.scene sc
  let voice := if r.narration then s.chooseVoice r.priority else none
  let cleared := (s.preempted sc voice).foldl
    (fun (x : State × Released) p => x.1.haltNoting x.2 p .preempted) (s, ⟨[], []⟩)
  match cleared.1.engine.firstFree with
  | none => cleared
  | some p =>
    let started := cleared.1.startOn sc src voice p
    if started.engine.estop && decide (r.axisMask ≠ 0) then started.haltNoting cleared.2 p .estop
    else (started, cleared.2)

/-! ### The pending queue (R29, R30) -/

/-- R29: an entry goes directly after the last entry of an equal or higher priority. -/
def insertEntry (e : Entry) : List Entry → List Entry
  | [] => [e]
  | x :: rest => if e.priority ≤ x.priority then x :: insertEntry e rest else e :: x :: rest

/-- R29: a scene enters the pending queue. -/
def State.enqueue (s : State) (sc : Fin 64) (src : Source) : State :=
  let r := s.store.tables.scene sc
  let e : Entry := ⟨sc, r.priority, src, s.engine.arrivals, r.patience, s.frame⟩
  State.sceneTo
    { s with engine := { s.engine with
        queue := insertEntry e s.engine.queue, arrivals := (s.engine.arrivals + 1) % 65536 } }
    sc .pending

/-- R28 to R30: a scene that is not admissible waits or is dropped. -/
def State.offer (s : State) (sc : Fin 64) (src : Source) : State × TriggerOutcome :=
  let r := s.store.tables.scene sc
  if r.patience = 0 then (s.raise (.triggerDropped sc .noWait src), .dropped)
  else if s.engine.queue.length < Config.queueMax then (s.enqueue sc src, .pending)
  else
    match s.engine.queue.getLast? with
    | some last =>
      if last.priority < r.priority then
        let evicted := (s.setQueue s.engine.queue.dropLast).sceneTo last.scene .ready
        (State.enqueue (evicted.raise (.triggerDropped last.scene .evicted last.source)) sc src, .pending)
      else (s.raise (.triggerDropped sc .full src), .dropped)
    | none => (s.raise (.triggerDropped sc .full src), .dropped)

/-! ### Scene ends, AGAIN triggers and admission (R27, R34, R35, R72) -/

/-- R35: the stop reasons after which the again flag raises no trigger. -/
def StopReason.dropsAgain : StopReason → Bool
  | .cancelled | .standby => true
  | .finish | .preempted | .restarted | .estop | .axisFault | .cueError => false

/-- R34, R35: a scene that has left RUNNING takes its next state; `again` is the admission of an AGAIN trigger. -/
def State.endScene (again : State → Fin 64 → State × TriggerOutcome) (s : State) (sc : Fin 64)
    (reason : StopReason) : State :=
  let flag := s.engine.scenes[sc].again
  let cleared := s.sceneTo sc .ready
  if flag && !reason.dropsAgain && !s.engine.house then
    match again cleared sc with
    | (t, .started) | (t, .pending) => t
    | (t, _) => t.sceneRests sc
  else cleared.sceneRests sc

/-- R25 to R28, R72: admission of a scene that is READY. `released` are the groups that a restart has already
released within the same event. The answer tells whether a player was stopped. Each AGAIN trigger within an
admission is of a lower priority, so `fuel` 7 is never used up (log entry 10). -/
def State.admission : Nat → State → Fin 64 → Source → List (Fin 16) → State × TriggerOutcome × Bool
  | fuel, s, sc, src, released =>
    if s.admissible sc then
      let started := s.start sc src
      let ended := match fuel with
        | 0 => started.2.ended.foldl (fun (t : State) (e : Fin 64 × StopReason) => t.sceneRests e.1) started.1
        | n + 1 => started.2.ended.foldl
            (fun (t : State) (e : Fin 64 × StopReason) =>
              t.endScene (fun u c => let x := State.admission n u c .again []; (x.1, x.2.1)) e.1 e.2) started.1
      (ended.returnGroups (released ++ started.2.groups), .started, !started.2.ended.isEmpty)
    else
      let offered := s.offer sc src
      (offered.1.returnGroups released, offered.2, false)

/-- The most AGAIN admissions that can nest. -/
def admissionFuel : Nat := 8

/-- R34, R35 outside an admission. -/
def State.sceneEnds (s : State) (sc : Fin 64) (reason : StopReason) : State :=
  s.endScene (fun u c => let x := State.admission admissionFuel u c .again []; (x.1, x.2.1)) sc reason

/-- R57, R34, R78: the whole stop of a player, but for the rescan that follows it. -/
def State.stopPlayer (s : State) (p : Fin 8) (reason : StopReason) : State :=
  match s.engine.players[p] with
  | none => s
  | some r => ((s.halt p reason).sceneEnds r.scene reason).returnGroups (s.engine.groupsOf p)

/-! ### Rescans (R32) -/

/-- R32: the passes of a rescan, from the entry at `i`; `any` is whether the present pass has started an entry. R32 does not
say whether an entry that an AGAIN trigger puts in the queue during a pass is examined in that pass; the model examines it
there, when the pass comes to its place (log entry 32). -/
def State.rescanFrom : Nat → State → Nat → Bool → State
  | 0, s, _, _ => s
  | n + 1, s, i, any =>
    match s.engine.queue[i]? with
    | none => if any then State.rescanFrom n s 0 false else s
    | some e =>
      if s.admissible e.scene then
        let taken := (s.setQueue (s.engine.queue.eraseIdx i)).sceneTo e.scene .ready
        State.rescanFrom n (State.admission admissionFuel taken e.scene e.source []).1 i true
      else State.rescanFrom n s (i + 1) any

/-- More steps than a rescan can take: each start empties a place of the queue or uses up an again flag. -/
def rescanFuel : Nat := 1024

/-- R32: a rescan, in SHOW while HOUSE is released. -/
def State.rescan (s : State) : State :=
  if decide (s.store.mode = .running) && !s.engine.house then s.rescanFrom rescanFuel 0 false else s

/-- R57 with the rescan that its releases lead to. -/
def State.stopAndRescan (s : State) (p : Fin 8) (reason : StopReason) : State :=
  match s.engine.players[p] with
  | none => s
  | some _ => (s.stopPlayer p reason).rescan

/-! ### Triggers (R22 to R24) -/

/-- R24: a trigger restarts a running scene. -/
def State.restart (s : State) (sc : Fin 64) (src : Source) (p : Fin 8) : State :=
  let stopped := (s.halt p .restarted).sceneTo sc .ready
  let x := State.admission admissionFuel stopped sc src (s.engine.groupsOf p)
  State.rescan
    (match x.2.1 with
      | .dropped => x.1.sceneRests sc
      | _ => x.1)

/-- R23, R24: one trigger, taken whole with the rescan that its stops lead to. -/
def State.trigger (s : State) (sc : Fin 64) (src : Source) : State × TriggerOutcome :=
  let r := s.store.tables.scene sc
  if s.engine.house then (s, .house)
  else if !r.enabled then (s, .disabled)
  else
    match s.engine.scenes[sc].state with
    | .running =>
      match r.retrigger with
      | .ignore => (s, .ignored)
      | .queue =>
        if s.engine.scenes[sc].again then (s, .ignored)
        else (s.setScene sc { s.engine.scenes[sc] with again := true }, .queuedAgain)
      | .restart =>
        match s.engine.holder sc with
        | some p => (s.restart sc src p, .restarted)
        | none => (s, .ignored)
    | .pending => (s, .alreadyPending)
    | .cooldown => (s, .cooldown)
    | .disabled => (s, .disabled)
    | .ready =>
      let x := State.admission admissionFuel s sc src []
      (if x.2.2 then x.1.rescan else x.1, x.2.1)

/-- R22: the triggers of one press or zone change, each taken whole before the next, with their outcomes. -/
def State.raiseTriggers (s : State) (src : Source) : State × List TriggerOutcome :=
  if decide (s.store.mode = .running) && s.store.triggersOn then
    (List.finRange 64).foldl
      (fun (x : State × List TriggerOutcome) (sc : Fin 64) =>
        let r := x.1.store.tables.scene sc
        if r.enabled && r.sources.contains src then
          let y := x.1.trigger sc src
          (y.1, x.2 ++ [y.2])
        else x)
      (s, [])
  else (s, [])

/-! ### The queue's other exits and the time counts (R31, R34) -/

/-- R29, R31, R37: an entry is removed other than by starting, with its TRIGGER_DROPPED report. -/
def State.dropEntry (s : State) (e : Entry) (reason : DropReason) : State :=
  ((s.setQueue (s.engine.queue.filter fun x => decide (x.scene ≠ e.scene))).sceneTo e.scene .ready).raise
    (.triggerDropped e.scene reason e.source)

/-- R31: an entry's patience counts in show frame f. -/
def Entry.counts (e : Entry) (f : Nat) : Bool :=
  decide (e.patience ≠ Config.patienceForever) && decide (e.since ≠ some f)

/-- R31: an entry's patience runs out in show frame f. -/
def Entry.expires (e : Entry) (f : Nat) : Bool := e.counts f && decide (e.patience ≤ 1)

/-- R31: the patience of every entry counts, and those that reach 0 leave the queue. R31 gives no order among those that
leave in one show frame; the model takes them from the front to the back (log entry 31). -/
def State.countPatience (s : State) (f : Nat) : State :=
  if s.store.mode = .running then
    let dropped := (s.engine.queue.filter (·.expires f)).foldl (fun t e => t.dropEntry e .patience) s
    dropped.setQueue (dropped.engine.queue.map fun e =>
      if e.counts f then { e with patience := e.patience - 1 } else e)
  else s

/-- R34: a scene's cooldown counts in show frame f. -/
def SceneRun.counts (x : SceneRun) (f : Nat) : Bool := decide (x.state = .cooldown) && decide (x.since ≠ some f)

/-- R34: a scene's cooldown is counted; at 0 the scene is READY. -/
def SceneRun.count (x : SceneRun) (f : Nat) : SceneRun :=
  if x.counts f then
    if x.cooldown ≤ 1 then ⟨.ready, 0, false, none⟩ else { x with cooldown := x.cooldown - 1 }
  else x

/-- R34, R21: the cooldowns count in SHOW and in STANDBY. -/
def State.countCooldowns (s : State) (f : Nat) : State :=
  if s.store.mode = .loading then s
  else { s with engine := { s.engine with scenes := Vector.ofFn fun sc => s.engine.scenes[sc].count f } }

/-! ### Show states and SOFT RESET (R10, R18, R21) -/

/-- R10, R21: every player is stopped with reason STANDBY and the queue is emptied. -/
def State.leaveShow (s : State) : State :=
  let stopped := (List.finRange 8).foldl (fun t p => t.stopPlayer p .standby) s
  (stopped.engine.queue.foldl (fun t e => t.sceneTo e.scene .ready) stopped).setQueue []

/-- R20, R21: a scene's runtime record from its record alone. -/
def SceneRec.initial (r : SceneRec) : SceneRun := ⟨if r.enabled then .ready else .disabled, 0, false, none⟩

/-- R20, R21: every scene becomes READY or DISABLED from its record. -/
def Engine.initialScenes (e : Engine) (t : Tables) : Engine :=
  { e with scenes := Vector.ofFn fun sc => (t.scene sc).initial }

/-- R18, R20, R29, R39, R63: SOFT RESET. The arrival counter and the copies of HOUSE and ESTOP are kept. -/
def Engine.softReset (e : Engine) (t : Tables) : Engine :=
  { e.initialScenes t with queue := [], players := Vector.replicate 8 none, claims := Claims.reset }

/-- R21: a scene record has been written in STANDBY. -/
def SceneRun.rewritten (x : SceneRun) (r : SceneRec) : SceneRun :=
  if !r.enabled then ⟨.disabled, 0, false, none⟩
  else if x.state = .disabled then ⟨.ready, 0, false, none⟩
  else x

end Sys2Proof.Machine
end

