-- ==== Sys2Proof/Machine/PlayerOps.lean ====
section
/-! DEFINITION. The execution of cues and the frame event of a player (chapter 3). -/

namespace Sys2Proof.Machine

/-- What executing a cue leads to (R44). -/
inductive CueEffect where
  /-- The player arrives at this cue index; 2048 and above end it (R44, R55). -/
  | goes (s : State) (target : Nat)
  /-- The player becomes AWAITING (R50). -/
  | awaits (s : State) (a : Await)
  /-- The player becomes BLOCKED with this cue; it is not counted (R44, R49). -/
  | blocks
  /-- The player stops at this cue (R55, R61, R49, R50). -/
  | stops (reason : StopReason)

/-- The test of an await condition (R51). -/
inductive AwaitTest where
  | holds | fails | waits
  deriving DecidableEq, Repr

/-- R51: an axis that is awaited. -/
def AxisState.awaited : AxisState → AwaitTest
  | .idle | .unhomed => .holds
  | .fault => .fails
  | .homing | .moving | .stopping | .held => .waits

/-- R51: the axes that a player claims. -/
def Engine.axesOf (e : Engine) (p : Fin 8) : List (Fin 8) :=
  (List.finRange 8).filter fun (a : Fin 8) => decide (e.claims.axes[a] = some p)

/-- R51: an await condition of player `p`; `seen` is button seen. -/
def State.testAwait (s : State) (p : Fin 8) (voice : Option (Fin 4)) (seen : Bool) : AwaitCond → AwaitTest
  | .voiceDone =>
    match voice with
    | none => .holds
    | some v => if s.sound.voices[v].state = .idle then .holds else .waits
  | .axisDone a => s.motion.axes[a].state.awaited
  | .axesDone =>
    let tests := (s.engine.axesOf p).map fun a => s.motion.axes[a].state.awaited
    if tests.contains .fails then .fails else if tests.contains .waits then .waits else .holds
  | .zoneClear z =>
    match s.monitor.zones[z].state with
    | .clear | .entering => .holds
    | .occupied | .emptying => .waits
  | .zoneOccupied z =>
    match s.monitor.zones[z].state with
    | .occupied | .emptying => .holds
    | .clear | .entering => .waits
  | .button _ => if seen then .holds else .waits

/-- A lamp's mode is set, by a LAMP cue or by SET LAMP (R174). -/
def State.setLamp (s : State) (b : Fin 16) (mode : LampMode) : State :=
  let auto := autoPattern s.store s.engine.scenes s.monitor.house.asserted b
  { s with monitor := { s.monitor with lamps := s.monitor.lamps.set b (s.monitor.lamps[b].setMode mode auto) } }

/-- R127: the language and the output that a SAY of a scene takes from the scene's zone. -/
def State.narration (s : State) (sc : Fin 64) : Fin 4 × Fin 4 :=
  match (s.store.tables.scene sc).zone with
  | none => (0, 0)
  | some z => (s.monitor.zones[z].language, (s.store.tables.zone z).output)

/-- R49: a MOVE of a claimed axis. -/
def State.cueMove (s : State) (r : Run) (a : Fin 8) (position : Int) (profile : Option (Fin 16)) : CueEffect :=
  let rec' := s.store.tables.axis a
  match s.motion.axes[a].state with
  | .stopping => .blocks
  | .fault => .stops .axisFault
  | .unhomed | .homing | .idle | .moving | .held =>
    match s.motion.axes[a].takeMove? s.store.tables rec' (s.holdPresent a) ⟨position, profile.getD rec'.profile⟩ with
    | some x => .goes (s.setAxis a x) (r.cue.val + 1)
    | none => .stops .axisFault

/-- R49: a HOME of a claimed axis. -/
def State.cueHome (s : State) (r : Run) (a : Fin 8) : CueEffect :=
  match s.motion.axes[a].state with
  | .stopping => .blocks
  | .unhomed | .homing | .idle | .moving | .held | .fault =>
    match s.motion.axes[a].takeHome? (s.store.tables.axis a) (s.holdPresent a) with
    | some x => .goes (s.setAxis a x) (r.cue.val + 1)
    | none => .stops .axisFault

/-- R50: an AWAIT. -/
def State.cueAwait (s : State) (p : Fin 8) (r : Run) (cond : AwaitCond) (operand : Byte) (timeout : Nat)
    (target : Fin 2048) : CueEffect :=
  let unclaimed := match cond with
    | .axisDone a => decide (s.engine.claims.axes[a] ≠ some p)
    | .voiceDone | .axesDone | .zoneClear _ | .zoneOccupied _ | .button _ => false
  if unclaimed then .stops .cueError
  else
    match s.testAwait p r.voice false cond with
    | .holds => .goes s (r.cue.val + 1)
    | .fails => .stops .axisFault
    | .waits => .awaits s ⟨cond, operand, if timeout = 0 then none else some timeout, target, false⟩

/-- The loop stack of a player is replaced. -/
def State.setLoops (s : State) (p : Fin 8) (r : Run) (loops : List LoopEntry) : State :=
  s.setPlayer p (some { r with loops := loops })

/-- R54: NEXT; the newest entry is the last. -/
def State.cueNext (s : State) (p : Fin 8) (r : Run) : CueEffect :=
  match r.loops.getLast? with
  | none => .stops .cueError
  | some e =>
    if e.count = 1 then .goes (s.setLoops p r r.loops.dropLast) (r.cue.val + 1)
    else if e.count = 0 then .goes s (e.cue.val + 1)
    else .goes (s.setLoops p r (r.loops.dropLast ++ [{ e with count := e.count - 1 }])) (e.cue.val + 1)

/-- R45 to R56: the cue at the cue pointer is executed. -/
def State.execCue (s : State) (p : Fin 8) (r : Run) : CueEffect :=
  let on := r.cue.val + 1
  let t := s.store.tables
  let mine (g : Fin 16) : Bool := decide (s.engine.claims.groups[g] = .player p)
  match ((t.cue r.cue).cue?).getD .finish with
  | .light look mask fade curve =>
    .goes { s with light := s.light.applyLook t look (fun g => mask.getLsbD g && mine g) fade curve } on
  | .level c level fade =>
    .goes (if mine (t.channel c).group then { s with light := s.light.startFade c level fade .linear } else s) on
  | .master g level fade =>
    .goes (if mine g then { s with light := s.light.startMaster g level fade } else s) on
  | .say clip =>
    match r.voice with
    | none => .goes s on
    | some v =>
      if s.sound.voices[v].state = .idle then
        .goes { s with sound := s.sound.say t v clip (s.narration r.scene).1 (s.narration r.scene).2 } on
      else .blocks
  | .hush =>
    match r.voice with
    | none => .goes s on
    | some v => .goes { s with sound := s.sound.fadeOut v } on
  | .move a position profile =>
    if s.engine.claims.axes[a] = some p then s.cueMove r a position profile else .stops .cueError
  | .home a => if s.engine.claims.axes[a] = some p then s.cueHome r a else .stops .cueError
  | .await cond operand timeout target => s.cueAwait p r cond operand timeout target
  | .loop count =>
    if r.loops.length < Config.loopMax then .goes (s.setLoops p r (r.loops ++ [⟨r.cue, count⟩])) on
    else .stops .cueError
  | .next => s.cueNext p r
  | .lamp b mode => .goes (s.setLamp b mode) on
  | .mark code => .goes (s.raise (.mark code r.scene p r.cue)) on
  | .goto target => .goes s target
  | .finish => .stops .finish

/-- R44: the player arrives at a cue. -/
def Run.arrive (r : Run) (t : Tables) (c : Fin 2048) : Run := { r with cue := c, phase := .delaying (t.cue c).delay }

/-- R43, R44: the player executes the cue at its cue pointer and goes on through zero-delay cues; the answer is
the reason of its stop, if it stops. Sixteen is the most cues of one frame event. -/
def State.runCues : Nat → State → Fin 8 → State × Option StopReason
  | 0, s, _ => (s, none)
  | n + 1, s, p =>
    match s.engine.players[p] with
    | none => (s, none)
    | some r =>
      match s.execCue p r with
      | .stops reason => (s, some reason)
      | .blocks => (s.setPlayer p (some { r with phase := .blocked }), none)
      | .awaits t a => (t.setPlayer p (some { r with phase := .awaiting a, executed := r.executed + 1 }), none)
      | .goes t target =>
        let q := (t.engine.players[p]).getD r
        let counted := { q with executed := q.executed + 1 }
        match index? 2048 target with
        | none => (t.setPlayer p (some counted), some .finish)
        | some c =>
          let arrived := t.setPlayer p (some (counted.arrive t.store.tables c))
          if (t.store.tables.cue c).delay = 0 ∧ counted.executed < Config.cueLimit then arrived.runCues n p
          else (arrived, none)

/-- R44, R52: the player leaves an await for a cue, and goes on from there within the same frame event. -/
def State.leaveAwait (s : State) (p : Fin 8) (r : Run) (target : Nat) : State × Option StopReason :=
  match index? 2048 target with
  | none => (s, some .finish)
  | some c =>
    let arrived := s.setPlayer p (some (r.arrive s.store.tables c))
    if (s.store.tables.cue c).delay = 0 then arrived.runCues Config.cueLimit p else (arrived, none)

/-- R49: a blocked cue is ready. -/
def State.blockedReady (s : State) (r : Run) : Bool :=
  let axisReady (a : Fin 8) : Bool :=
    match s.motion.axes[a].state with
    | .idle | .held | .unhomed => true
    | .homing | .moving | .stopping | .fault => false
  match ((s.store.tables.cue r.cue).cue?).getD .finish with
  | .say _ =>
    match r.voice with
    | none => true
    | some v => decide (s.sound.voices[v].state = .idle)
  | .move a _ _ => axisReady a
  | .home a => axisReady a
  | .light .. | .level .. | .master .. | .hush | .await .. | .loop _ | .next | .lamp .. | .mark _ | .goto _
  | .finish => false

/-- R43, R52: what the frame event of a player does, by its state, with cues executed already 0. -/
def State.playerActs (s : State) (p : Fin 8) (r : Run) : State × Option StopReason :=
  match r.phase with
  | .delaying d =>
    if d ≤ 1 then
      State.runCues Config.cueLimit (s.setPlayer p (some { r with phase := .delaying 0 })) p
    else (s.setPlayer p (some { r with phase := .delaying (d - 1) }), none)
  | .awaiting a =>
    match s.testAwait p r.voice a.seen a.cond with
    | .holds => s.leaveAwait p r (r.cue.val + 1)
    | .fails => (s, some .axisFault)
    | .waits =>
      match a.timeout with
      | none => (s, none)
      | some t =>
        if t ≤ 1 then s.leaveAwait p r a.target
        else (s.setPlayer p (some { r with phase := .awaiting { a with timeout := some (t - 1) } }), none)
  | .blocked => if s.blockedReady r then s.runCues Config.cueLimit p else (s, none)

/-- R43: the frame event of player `p` in show frame f, whole, with the stop that it may end in. -/
def State.playerFrame (s : State) (p : Fin 8) (f : Nat) : State :=
  match s.engine.players[p] with
  | none => s
  | some r =>
    let run := { r with executed := 0, frame := some f }
    let acted := (s.setPlayer p (some run)).playerActs p run
    match acted.2 with
    | none => acted.1
    | some reason => acted.1.stopAndRescan p reason

/-- R51: a press of a button has been taken. -/
def Run.pressed (r : Run) (b : Fin 16) : Run :=
  match r.phase with
  | .awaiting a => if a.cond = .button b then { r with phase := .awaiting { a with seen := true } } else r
  | .delaying _ | .blocked => r

/-- R51: a press sets the button seen of every player that awaits the button. -/
def Engine.press (e : Engine) (b : Fin 16) : Engine :=
  { e with players := Vector.ofFn fun p => e.players[p].map fun r => r.pressed b }

/-- R60: an axis's fault stops its player. -/
def State.faultStops (s : State) (a p : Fin 8) : Bool :=
  match s.engine.players[p] with
  | none => false
  | some r =>
    match r.phase with
    | .delaying _ => false
    | .awaiting w => decide (w.cond = .axisDone a) || decide (w.cond = .axesDone)
    | .blocked =>
      match ((s.store.tables.cue r.cue).cue?).getD .finish with
      | .move b _ _ => decide (b = a)
      | .home b => decide (b = a)
      | .light .. | .level .. | .master .. | .say _ | .hush | .await .. | .loop _ | .next | .lamp .. | .mark _
      | .goto _ | .finish => false

end Sys2Proof.Machine
end

