-- ==== Sys2Proof/Machine/MotionCommands.lean ====
section
/-! DEFINITION. The commands of the Motion Engine (chapter 8). -/

namespace Sys2Proof.Machine

/-- R163: the reply of MOVE AXIS and HOME AXIS: ACCEPTED 0 or REFUSED 1, and the axis state after the request. -/
def State.tookAxis (s : State) (a : Fin 8) (taken : Option Axis) : State × List Byte :=
  match taken with
  | some x => (s.setAxis a x, okWith (put8 0 ++ put8 x.state.code))
  | none => (s, okWith (put8 1 ++ put8 s.motion.axes[a].state.code))

/-- R147, R163: a MOVE from the link; profile DEFAULT is read from the axis record. -/
def State.linkMove? (s : State) (a : Fin 8) (position : Int) (profile : Option (Fin 16)) : Option Axis :=
  let r := s.store.tables.axis a
  s.motion.axes[a].takeMove? s.store.tables r (s.holdPresent a) ⟨position, profile.getD r.profile⟩

/-- R163. -/
def State.answerMoveAxis (bs : List Byte) (s : State) : State × List Byte :=
  if s.store.mode ≠ .standby then (s, Status.wrongState.alone)
  else
    match moveOperands? bs with
    | none => (s, Status.badArg.alone)
    | some (a, position, profile) => s.tookAxis a (s.linkMove? a position profile)

/-- MOVE_AXIS (R163). -/
def execMoveAxis (s : State) : Host.Outcome State Fault Refusal :=
  .next (State.serve State.finishLink 0x16 false (exactly 6) State.answerMoveAxis s)

/-- R163. -/
def State.answerHomeAxis (bs : List Byte) (s : State) : State × List Byte :=
  if s.store.mode ≠ .standby then (s, Status.wrongState.alone)
  else
    match axisOperand? bs with
    | none => (s, Status.badArg.alone)
    | some a => s.tookAxis a (s.motion.axes[a].takeHome? (s.store.tables.axis a) (s.holdPresent a))

/-- HOME_AXIS (R163). -/
def execHomeAxis (s : State) : Host.Outcome State Fault Refusal :=
  .next (State.serve State.finishLink 0x17 false (exactly 1) State.answerHomeAxis s)

/-- R146: an axis with its switch inputs sampled. -/
def Axis.sampled (x : Axis) (home limit : Bool) : Axis := { x with homeSwitch := home, limitSwitch := limit }

/-- R60, R164: what a profile interval has to report, and the stop of the player that awaits a faulted axis. No rule
orders the AXIS_FAULT report against the SCENE_ENDED of that stop; the model queues AXIS_FAULT first (log entry 16). -/
def State.axisNews (s : State) (a : Fin 8) : AxisNews → State
  | .quiet => s
  | .homed => s.raise (.axisHomed a s.engine.claims.axes[a])
  | .fault cause =>
    let owner := s.engine.claims.axes[a]
    let reported := s.raise (.axisFault a cause s.motion.axes[a].position owner (s.sceneOf owner))
    match owner with
    | some p => if s.faultStops a p then reported.stopAndRescan p .axisFault else reported
    | none => reported

/-- R146: the profile interval event of an axis. -/
def State.axisInterval (s : State) (a : Fin 8) (home limit : Bool) : State :=
  let x := (s.motion.axes[a].sampled home limit).interval s.store.tables (s.store.tables.axis a) (s.holdPresent a)
  (s.setAxis a x.1).axisNews a x.2

/-- PROFILE_INTERVAL_EVENT (R146). -/
def execProfileIntervalEvent (a : Fin 8) (home limit : Bool) (s : State) : Host.Outcome State Fault Refusal :=
  .next (s.live fun s => (s.axisInterval a home limit).finishLink)

/-- R146, R160: the motion frame event of one axis. -/
def State.axisFrame (s : State) (a : Fin 8) (f : Nat) : State :=
  s.setAxis a (s.motion.axes[a].frameEvent (s.store.tables.axis a) f)

/-- MOTION_FRAME_EVENT (R146, R160). -/
def execMotionFrameEvent (f : Nat) (s : State) : Host.Outcome State Fault Refusal :=
  .next (s.frameStep f none true fun s => s.mapAxes fun a x => x.frameEvent (s.store.tables.axis a) f)

/-- R160: the resume wait of an axis ends at its next motion frame event. -/
def Axis.waitEnds (x : Axis) : Bool := decide (x.state = .held) && x.wait.any fun w => decide (w ≤ 1)

/-- RESUME_WAIT_EXPIRY (R160). -/
def execResumeWaitExpiry (a : Fin 8) (f : Nat) (s : State) : Host.Outcome State Fault Refusal :=
  .next (s.frameStep f s.motion.axes[a].frame s.motion.axes[a].waitEnds fun s => s.axisFrame a f)

end Sys2Proof.Machine
end

