-- ==== Sys2Proof/Machine/PlayerCommands.lean ====
section
/-! DEFINITION. The frame events of the players (chapter 3). -/

namespace Sys2Proof.Machine

/-- The last show frame in which a player may not take its frame event again (R41, R43). -/
def State.playerStamp (s : State) (p : Fin 8) : Option Nat := s.engine.players[p].bind (·.frame)

/-- PLAYER_FRAME_EVENT (R43). -/
def execPlayerFrameEvent (p : Fin 8) (f : Nat) (s : State) : Host.Outcome State Fault Refusal :=
  .next (s.frameStep f (s.playerStamp p) s.engine.players[p].isSome fun s => (s.playerFrame p f).finish)

/-- R43: the player's delay is over at its next frame event. -/
def Run.delayEnds (r : Run) : Bool :=
  match r.phase with
  | .delaying d => decide (d ≤ 1)
  | .awaiting _ | .blocked => false

/-- CUE_DELAY_EXPIRY (R43). -/
def execCueDelayExpiry (p : Fin 8) (f : Nat) (s : State) : Host.Outcome State Fault Refusal :=
  .next (s.frameStep f (s.playerStamp p) (s.engine.players[p].any Run.delayEnds) fun s => (s.playerFrame p f).finish)

/-- R52: the player's await is at its last frame. -/
def Run.awaitEnds (r : Run) : Bool :=
  match r.phase with
  | .awaiting a => a.timeout.any fun t => decide (t ≤ 1)
  | .delaying _ | .blocked => false

/-- AWAIT_TIMEOUT (R52). -/
def execAwaitTimeout (p : Fin 8) (f : Nat) (s : State) : Host.Outcome State Fault Refusal :=
  .next (s.frameStep f (s.playerStamp p) (s.engine.players[p].any Run.awaitEnds) fun s => (s.playerFrame p f).finish)

end Sys2Proof.Machine
end

