-- ==== Sys2Proof/Machine/Loading.lean ====
section
/-! DEFINITION. The Show Store (chapter 1): records stored in the tables with their effects on the other blocks,
changes of show state, and the load of a show image byte by byte. -/

namespace Sys2Proof.Machine

/-! ### Records and tables -/

/-- R174: a lamp takes its initial mode. -/
def State.initialLamp (s : State) (b : Fin 16) : State :=
  let auto := autoPattern s.store s.engine.scenes s.monitor.house.asserted b
  let mode := (s.store.tables.button b).initialMode
  { s with monitor := { s.monitor with lamps := s.monitor.lamps.set b (s.monitor.lamps[b].setMode mode auto) } }

/-- R174: every lamp takes its initial mode. -/
def State.initialLamps (s : State) : State := (List.finRange 16).foldl State.initialLamp s

/-- The tables are replaced whole. -/
def State.setTables (s : State) (t : Tables) : State := { s with store := { s.store with tables := t } }

/-- R1, R157, R170: every table is set to its empty records. -/
def State.emptyTables (s : State) : State :=
  let emptied := s.setTables Tables.empty
  State.axesRewritten { emptied with monitor := emptied.monitor.defaultLanguages Tables.empty } s fun _ => true

/-- R3, R4: one record is offered to an entry, by TABLE WRITE or by the apply pass; nothing when it is refused. A
stored zone record sets the zone's language (R170), and a stored axis record acts on its axis (R157). -/
def State.storeRecord? (s : State) (table : Fin 14) (i : Nat) (bs : List Byte) : Option State :=
  (s.store.tables.storeEntry? table i bs).map fun t =>
    let stored := s.setTables t
    if table = 10 then
      match index? 12 i with
      | some z => { stored with monitor := stored.monitor.setLanguage z (t.zone z).language }
      | none => stored
    else if table = 12 then stored.axesRewritten s fun a => decide (a.val = i)
    else stored

/-- The effects that a record stored in STANDBY has beyond those of an image record: a scene record (R21), a bed
record (R133) and a button record (R174). -/
def State.recordWritten (s : State) (table : Fin 14) (i : Nat) : State :=
  if table = 0 then
    match index? 64 i with
    | some sc => s.setScene sc (s.engine.scenes[sc].rewritten (s.store.tables.scene sc))
    | none => s
  else if table = 9 then
    match index? 4 i with
    | some b => { s with sound := { s.sound with
        beds := s.sound.beds.set b (s.sound.beds[b].load (s.store.tables.bed b)) } }
    | none => s
  else if table = 11 then
    match index? 32 i with
    | some k => if 16 ≤ k.val then s.initialLamp (Fin.ofNat 16 (k.val - 16)) else s
    | none => s
  else s

/-! ### Changes of show state (R8 to R10, R111, R134, R162) -/

/-- R8: the show state and the two flags. -/
def State.setMode (s : State) (mode : ShowState) (triggers attract : Bool) : State :=
  { s with store := { s.store with mode := mode, triggersOn := triggers, attractOn := attract } }

/-- R111, R112, R116: the attract cycle follows its running condition, which was `was`. -/
def State.attractFollows (s : State) (was : Bool) : State :=
  { s with light := s.light.attractChange s.store.tables s.engine.claims was s.store.attractRunning }

/-- R9, R17: SHOW is entered, with its flags. -/
def State.enterShow (s : State) (triggers attract : Bool) : State :=
  let shown := s.setMode .running triggers attract
  State.attractFollows { shown with sound := shown.sound.startBeds shown.store.tables } s.store.attractRunning

/-- R10: the change from SHOW to STANDBY. -/
def State.showToStandby (s : State) : State :=
  let left := (s.setMode .standby false false).leaveShow
  State.attractFollows { left with sound := left.sound.stopBeds, motion := left.motion.stopAll }
    s.store.attractRunning

/-- R14, R96, R132, R162: entry to LOADING from STANDBY, and the start of the verify pass. -/
def State.beginLoad (s : State) (address : Nat) (goal : LoadGoal) : State :=
  { s with
    store := { s.store with
      mode := .loading, triggersOn := false, attractOn := false, status := .verifying,
      load := some { address := address, goal := goal, pass := .verify, header := [], pos := 0, crc := 0xFFFF,
                     sect := 0, part := [], table := none, entry := 0, left := 0 } }
    light := s.light.enterLoading
    sound := s.sound.enterLoading
    motion := s.motion.stopAll }

/-! ### The end of a load (R17) -/

/-- R17, R21, R133, R170, R174: what the end of every load sets, with the show state already set. -/
def State.loadSettles (s : State) : State :=
  State.initialLamps
    { s with
      engine := s.engine.initialScenes s.store.tables
      sound := s.sound.loadBeds s.store.tables
      monitor := s.monitor.defaultLanguages s.store.tables }

/-- R17: the load is over with a status. -/
def State.endLoad (s : State) (status : LoadStatus) : State :=
  { s with store := { s.store with status := status, load := none } }

/-- R17: failure. -/
def State.loadFails (s : State) (ld : Load) (cause : LoadCause) (sect entry : Option Nat) : State :=
  let ended := (s.emptyTables.endLoad (.failed cause)).raise (.loadFailed cause ld.address sect entry)
  (ended.setMode .standby false false).loadSettles

/-- R13: the section count of the header. -/
def Load.sections (ld : Load) : Nat := get16 ld.header 8

/-- R13: the total length of the header. -/
def Load.total (ld : Load) : Nat := get32 ld.header 4

/-- R17: success. -/
def State.loadSucceeds (s : State) (ld : Load) : State :=
  let ended := (s.endLoad .done).raise (.loadDone ld.address ld.sections)
  match ld.goal with
  | .standby => (ended.setMode .standby false false).loadSettles
  | .running triggers attract =>
    let settled := (ended.setMode .running triggers attract).loadSettles
    State.attractFollows { settled with sound := settled.sound.startBeds settled.store.tables } false

/-! ### The two passes (R15, R16) -/

/-- R13: the CRC-16 of polynomial 0x1021, one bit. -/
def crcBit (crc : BitVec 16) : BitVec 16 := if crc.msb then (crc <<< 1) ^^^ 0x1021 else crc <<< 1

/-- R13: the CRC-16, one byte. -/
def crcByte (crc : BitVec 16) (b : Byte) : BitVec 16 :=
  crcBit (crcBit (crcBit (crcBit (crcBit (crcBit (crcBit (crcBit (crc ^^^ (b.setWidth 16 <<< 8)))))))))

/-- R13: the CRC-16 of a list of bytes. -/
def crc16 (bs : List Byte) : BitVec 16 := bs.foldl crcByte 0xFFFF

/-- R13: the tag of an image. -/
def imageTag : List Byte := [0x4F, 0x44, 0x37, 0x32]

def State.setLoad (s : State) (ld : Load) : State := { s with store := { s.store with load := some ld } }

/-- R16: a section begins at the present offset; its descriptor must lie within the image. -/
def State.beginSection (s : State) (ld : Load) : State :=
  if ld.total < ld.pos + 5 then s.loadFails ld .overrun (some ld.sect) none
  else s.setLoad { ld with part := [], table := none }

/-- R15, R16: the CRC has matched, and the apply pass begins. -/
def State.beginApply (s : State) (ld : Load) : State :=
  let emptied := s.emptyTables
  State.beginSection { emptied with store := { emptied.store with status := .applying } }
    { ld with pass := .apply, pos := Config.headerBytes, sect := 0, part := [], table := none, entry := 0, left := 0 }

/-- R15: the last byte of the image has been read. -/
def State.checkCrc (s : State) (ld : Load) : State :=
  if ld.crc.toNat = get16 ld.header 10 then s.beginApply ld else s.loadFails ld .crc none none

/-- R15: the verify pass takes a byte. -/
def State.verifyByte (s : State) (ld : Load) (b : Byte) : State :=
  if ld.pos < Config.headerBytes then
    let x := { ld with header := ld.header ++ [b], pos := ld.pos + 1 }
    if x.pos = 4 ∧ x.header ≠ imageTag then s.loadFails ld .tag none none
    else if x.pos = 8 ∧ (x.total < 12 ∨ 16777216 < x.address % 16777216 + x.total) then
      s.loadFails ld .length none none
    else if x.pos = 10 ∧ (x.sections = 0 ∨ 32 < x.sections) then s.loadFails ld .count none none
    else if x.pos = 12 ∧ x.total ≤ 12 then s.checkCrc x
    else s.setLoad x
  else
    let x := { ld with crc := crcByte ld.crc b, pos := ld.pos + 1 }
    if x.total ≤ x.pos then s.checkCrc x else s.setLoad x

/-- R16: a section has been written. -/
def State.endSection (s : State) (ld : Load) : State :=
  let next := { ld with sect := ld.sect + 1 }
  if next.sect < ld.sections then s.beginSection next
  else if ld.pos < ld.total then s.loadFails ld .length (some ld.sections) none
  else s.loadSucceeds ld

/-- R16: a section descriptor is complete. -/
def State.takeDescriptor (s : State) (ld : Load) : State :=
  let start := get16 ld.part 1
  let count := get16 ld.part 3
  match index? 14 (byteAt ld.part 0) with
  | none => s.loadFails ld .table (some ld.sect) none
  | some t =>
    if tableEntries t < start + count ∨ ld.total < ld.pos + count * recordSize t then
      s.loadFails ld .overrun (some ld.sect) none
    else if count = 0 then s.endSection ld
    else s.setLoad { ld with part := [], table := some t, entry := start, left := count }

/-- R16: a record is complete. -/
def State.takeRecord (s : State) (ld : Load) (t : Fin 14) : State :=
  match s.storeRecord? t ld.entry ld.part with
  | none => s.loadFails ld .entry (some ld.sect) (some ld.entry)
  | some stored =>
    if ld.left ≤ 1 then stored.endSection ld
    else stored.setLoad { ld with part := [], entry := ld.entry + 1, left := ld.left - 1 }

/-- R16: the apply pass takes a byte. -/
def State.applyByte (s : State) (ld : Load) (b : Byte) : State :=
  let x := { ld with part := ld.part ++ [b], pos := ld.pos + 1 }
  match ld.table with
  | none => if x.part.length < 5 then s.setLoad x else s.takeDescriptor x
  | some t => if x.part.length < recordSize t then s.setLoad x else s.takeRecord x t

/-- R15, R16: the bytes of one image read are taken in order. Bytes beyond the end of the pass that asked for them
are not read (log entry 9). -/
def State.feedImage (pass : LoadPass) : List Byte → State → State
  | [], s => s
  | b :: rest, s =>
    match s.store.load with
    | none => s
    | some ld =>
      if ld.pass = pass then
        State.feedImage pass rest (match pass with
          | .verify => s.verifyByte ld b
          | .apply => s.applyByte ld b)
      else s

/-! ### SOFT RESET (R18) -/

/-- R18: SOFT RESET reinitialises the part. -/
def State.softReset (s : State) : State :=
  let t := s.store.tables
  State.initialLamps
    { s with
      link := { s.link with cursor := Cursor.reset, cause := .softReset }
      store := { s.store with mode := .standby, triggersOn := false, attractOn := false }
      engine := s.engine.softReset t
      light := s.light.softReset t
      sound := s.sound.softReset t
      motion := { s.motion with axes := Vector.ofFn fun a => s.motion.axes[a].softReset s.motion.estop }
      monitor := s.monitor.defaultLanguages t }

end Sys2Proof.Machine
end

