-- ==== Sys2Proof/Machine/Resets.lean ====
section
/-! DEFINITION. The resets: POWER_ON_RESET, RESET_N, RESET_BEGINS and SOFT_RESET. -/

namespace Sys2Proof.Machine

/-- R12: the start-up action that the mode pins select. -/
def startUpGoal (mode1 mode0 : Bool) : Option LoadGoal :=
  match mode1, mode0 with
  | false, false => none
  | false, true => some .standby
  | true, false => some (.running true true)
  | true, true => some (.running false true)

/-- R12: the part when power-on reset or RESET_n ends. The commands that wait are kept: they are the model's own. -/
def State.afterReset (s : State) (cause : StartCause) (mode1 mode0 fastBaud : Bool) : State :=
  let link := { Link.reset with fastBaud := fastBaud, mode1 := mode1, mode0 := mode0, cause := cause }
  let base := { State.reset with pending := s.pending, link := link }
  match startUpGoal mode1 mode0 with
  | none => base
  | some goal => (base.beginLoad 0 goal).finish

/-- POWER_ON_RESET (R12, R188). -/
def execPowerOnReset (mode1 mode0 fastBaud : Bool) (s : State) : Host.Outcome State Fault Refusal :=
  .next (s.afterReset .powerOn mode1 mode0 fastBaud)

/-- RESET_N (R12, R188). -/
def execResetN (mode1 mode0 fastBaud : Bool) (s : State) : Host.Outcome State Fault Refusal :=
  .next (s.afterReset .resetPin mode1 mode0 fastBaud)

/-- R12, R181: while the part is held in reset it holds its reset values; the strap, the mode pins and the start
cause are those of the last reset that ended (log entry 1). -/
def State.heldInReset (s : State) : State :=
  let link := { Link.reset with
    fastBaud := s.link.fastBaud, mode1 := s.link.mode1, mode0 := s.link.mode0, cause := s.link.cause }
  { State.reset with pending := s.pending, inReset := true, link := link }

/-- RESET_BEGINS (R12, R181). -/
def execResetBegins (s : State) : Host.Outcome State Fault Refusal := .next s.heldInReset

/-- SOFT_RESET (R18): the reinitialisation, and the reply, which is placed in the same event. -/
def execSoftReset (s : State) : Host.Outcome State Fault Refusal :=
  .next (State.serve State.finish 0x05 false (exactly 0) (fun _ s => (s.softReset, okWith [])) s)

end Sys2Proof.Machine
end

