-- ==== Sys2Proof/Machine/SceneCommands.lean ====
section
/-! DEFINITION. The commands of the Scene Engine that reach scenes, the pending queue and the claims table (chapters 2
and 4). -/

namespace Sys2Proof.Machine

/-- R36. -/
def State.answerTrigger (bs : List Byte) (s : State) : State × List Byte :=
  if s.store.mode ≠ .running then (s, Status.wrongState.alone)
  else
    match sceneOperand? bs with
    | none => (s, Status.badArg.alone)
    | some sc =>
      let x := s.trigger sc .link
      (x.1, okWith (put8 x.2.code ++ put8 x.1.engine.scenes[sc].state.code))

/-- TRIGGER (R36). -/
def execTrigger (s : State) : Host.Outcome State Fault Refusal :=
  .next (State.serve State.finishLink 0x0B false (exactly 1) State.answerTrigger s)

/-- R37: the results of CANCEL: REMOVED, STOPPED, and NONE, which is coded 0xFF (R191). -/
def cancelRemoved : List Byte := [0]
def cancelStopped : List Byte := [1]
def cancelNone : List Byte := [0xFF]

/-- R37: CANCEL of a scene, with its result. -/
def State.cancel (s : State) (sc : Fin 64) : State × List Byte :=
  match s.engine.scenes[sc].state with
  | .pending =>
    match s.engine.queue.find? fun e => decide (e.scene = sc) with
    | some e => (s.dropEntry e .cancelled, cancelRemoved)
    | none => (s, cancelNone)
  | .running =>
    match s.engine.holder sc with
    | some p => (s.stopAndRescan p .cancelled, cancelStopped)
    | none => (s, cancelNone)
  | .ready | .cooldown | .disabled => (s, cancelNone)

/-- R37. -/
def State.answerCancel (bs : List Byte) (s : State) : State × List Byte :=
  match sceneOperand? bs with
  | none => (s, Status.badArg.alone)
  | some sc => ((s.cancel sc).1, okWith (s.cancel sc).2)

/-- CANCEL (R37). -/
def execCancel (s : State) : Host.Outcome State Fault Refusal :=
  .next (State.serve State.finishLink 0x0C false (exactly 1) State.answerCancel s)

/-- R38: STOP ALL. The queue being empty, the rescans that follow the stops start nothing. -/
def State.stopEverything (s : State) : State :=
  let emptied := s.engine.queue.foldl (fun t e => t.dropEntry e .cancelled) s
  (List.finRange 8).foldl (fun t p => t.stopPlayer p .cancelled) emptied

/-- R38. -/
def State.answerStopAll (_ : List Byte) (s : State) : State × List Byte :=
  (s.stopEverything, okWith (put8 s.engine.queue.length ++ put8 s.engine.running))

/-- STOP_ALL (R38). -/
def execStopAll (s : State) : Host.Outcome State Fault Refusal :=
  .next (State.serve State.finishLink 0x0D false (exactly 0) State.answerStopAll s)

/-- The owner of a group is set. -/
def State.setGroupOwner (s : State) (g : Fin 16) (o : GroupOwner) : State :=
  { s with engine := { s.engine with claims := { s.engine.claims with groups := s.engine.claims.groups.set g o } } }

/-- R75: the reply of HOLD GROUP: TAKEN 0, TAKEN_FROM_PLAYER 1 with the player and its scene, ALREADY 2. -/
def State.answerHoldGroup (bs : List Byte) (s : State) : State × List Byte :=
  match groupOperand? bs with
  | none => (s, Status.badArg.alone)
  | some g =>
    let number (n : Nat) (i : Fin n) : List Byte := put8 i.val
    match s.engine.claims.groups[g] with
    | .none => (s.setGroupOwner g .direct, okWith (put8 0 ++ putOpt 1 (number 8) none ++ putOpt 1 (number 64) none))
    | .player p =>
      (s.setGroupOwner g .direct,
       okWith (put8 1 ++ putOpt 1 (number 8) (some p) ++ putOpt 1 (number 64) (s.sceneOf (some p))))
    | .direct => (s, okWith (put8 2 ++ putOpt 1 (number 8) none ++ putOpt 1 (number 64) none))

/-- HOLD_GROUP (R75). -/
def execHoldGroup (s : State) : Host.Outcome State Fault Refusal :=
  .next (State.serve State.finishLink 0x0E false (exactly 1) State.answerHoldGroup s)

/-- R76, R78: a group leaves the direct-control set. -/
def State.freeGroup (s : State) (g : Fin 16) : State := ((s.setGroupOwner g .none).returnGroups [g]).rescan

/-- R76: the reply of FREE GROUP: FREED 0, NOT_IN_SET 1. -/
def State.answerFreeGroup (bs : List Byte) (s : State) : State × List Byte :=
  match groupOperand? bs with
  | none => (s, Status.badArg.alone)
  | some g =>
    if s.engine.claims.groups[g] = .direct then (s.freeGroup g, okWith (put8 0)) else (s, okWith (put8 1))

/-- FREE_GROUP (R76). -/
def execFreeGroup (s : State) : Host.Outcome State Fault Refusal :=
  .next (State.serve State.finishLink 0x0F false (exactly 1) State.answerFreeGroup s)

/-- R31: the entry of a scene whose patience runs out in show frame f. -/
def State.expiring (s : State) (sc : Fin 64) (f : Nat) : Option Entry :=
  if s.store.mode = .running then
    s.engine.queue.find? fun e => decide (e.scene = sc) && e.expires f
  else none

/-- PATIENCE_EXPIRY (R31). -/
def execPatienceExpiry (sc : Fin 64) (f : Nat) (s : State) : Host.Outcome State Fault Refusal :=
  .next (s.frameStep f s.engine.frame (s.expiring sc f).isSome fun s =>
    match s.expiring sc f with
    | some e => (s.dropEntry e .patience).finishLink
    | none => s)

/-- R34: the cooldown of a scene runs out in show frame f. -/
def State.cooldownEnds (s : State) (sc : Fin 64) (f : Nat) : Bool :=
  decide (s.store.mode ≠ .loading) && s.engine.scenes[sc].counts f && decide (s.engine.scenes[sc].cooldown ≤ 1)

/-- COOLDOWN_END (R34). -/
def execCooldownEnd (sc : Fin 64) (f : Nat) (s : State) : Host.Outcome State Fault Refusal :=
  .next (s.frameStep f s.engine.frame (s.cooldownEnds sc f) fun s => s.sceneTo sc .ready)

/-- R31, R34: the counts of one show frame. -/
def State.countScenes (s : State) (f : Nat) : State :=
  let counted := (s.countPatience f).countCooldowns f
  { counted with engine := { counted.engine with frame := some f } }

/-- PATIENCE_AND_COOLDOWN_COUNT (R31, R34). -/
def execPatienceAndCooldownCount (f : Nat) (s : State) : Host.Outcome State Fault Refusal :=
  .next (s.frameStep f s.engine.frame true fun s => (s.countScenes f).finishLink)

end Sys2Proof.Machine
end

