-- ==== Sys2Proof/Machine/SoundCommands.lean ====
section
/-! DEFINITION. The commands of the Sound Engine (chapter 7). -/

namespace Sys2Proof.Machine

/-- R138. -/
def State.answerSetBed (bs : List Byte) (s : State) : State × List Byte :=
  match bedOperands? bs with
  | none => (s, Status.badArg.alone)
  | some (o, clip, gain) =>
    ({ s with sound := s.sound.setBed s.store.tables o clip gain (decide (s.store.mode = .running)) }, okWith [])

/-- SET_BED (R138). -/
def execSetBed (s : State) : Host.Outcome State Fault Refusal :=
  .next (State.serve State.finish 0x13 false (exactly 4) State.answerSetBed s)

/-- BURST_COMPLETE (R124, R125): the burst of a stream in flight completes with its bytes. -/
def execBurstComplete (data : List Byte) (s : State) : Host.Outcome State Fault Refusal :=
  .next (s.live fun s =>
    match s.sound.flight with
    | some (.stream ..) => State.finish { s with sound := s.sound.complete data }
    | some .image | none => s)

/-- SAMPLE_EVENT (R128, R135, R139). -/
def execSampleEvent (s : State) : Host.Outcome State Fault Refusal :=
  .next (s.live fun s => State.finish { s with sound := s.sound.sampleEvent })

/-- R130, R143: the VOICE_UNDERRUN report of a voice as it stands. -/
def State.underrun (s : State) (v : Fin 4) : Report :=
  let x := s.sound.voices[v]
  let owner := s.engine.claims.voices[v]
  .voiceUnderrun v owner (s.sceneOf owner) x.clip (x.variant.map (·.2)) x.feed.left

/-- R130, R131: the sound frame event of one voice, with the report that it may raise. -/
def State.voiceFrame (s : State) (v : Fin 4) (f : Nat) : State :=
  let counted := { s with sound := s.sound.voiceFrame v f }
  if decide (s.sound.voices[v].frame ≠ some f) && s.sound.voices[v].stallEnds then counted.raise (s.underrun v)
  else counted

/-- R136: the sound frame event of one bed. -/
def State.bedFrame (s : State) (b : Fin 4) (f : Nat) : State :=
  { s with sound := s.sound.bedFrame s.store.tables (decide (s.store.mode = .running)) b f }

/-- R142: the sound frame event: the voices, then the beds (log entry 11). -/
def State.soundFrame (s : State) (f : Nat) : State :=
  let voices := (List.finRange 4).foldl (fun t v => t.voiceFrame v f) s
  (List.finRange 4).foldl (fun t b => t.bedFrame b f) voices

/-- SOUND_FRAME_EVENT (R142). -/
def execSoundFrameEvent (f : Nat) (s : State) : Host.Outcome State Fault Refusal :=
  .next (s.frameStep f none true fun s => (s.soundFrame f).finishLink)

/-- FADE_OUT_END (R131). -/
def execFadeOutEnd (v : Fin 4) (f : Nat) (s : State) : Host.Outcome State Fault Refusal :=
  .next (s.frameStep f s.sound.voices[v].frame s.sound.voices[v].fadeEnds fun s => s.voiceFrame v f)

/-- STALL_TIMEOUT (R130). -/
def execStallTimeout (v : Fin 4) (f : Nat) (s : State) : Host.Outcome State Fault Refusal :=
  .next (s.frameStep f s.sound.voices[v].frame s.sound.voices[v].stallEnds fun s => (s.voiceFrame v f).finishLink)

/-- R136: the duck stage of a bed moves at its next sound frame event. -/
def State.duckMoves (s : State) (b : Fin 4) : Bool :=
  decide (s.store.mode = .running)
  && decide ((s.sound.beds[b].envelope (s.sound.speaking b) (s.store.tables.bed b).step).stage ≠ s.sound.beds[b].stage)

/-- DUCK_STEP (R136). -/
def execDuckStep (b : Fin 4) (f : Nat) (s : State) : Host.Outcome State Fault Refusal :=
  .next (s.frameStep f s.sound.beds[b].frame (s.duckMoves b) fun s => s.bedFrame b f)

end Sys2Proof.Machine
end

