-- ==== Sys2Proof/Machine/StoreCommands.lean ====
section
/-! DEFINITION. The commands of the Show Store (chapter 1): SHOW_MODE, LOAD_IMAGE, the table requests and the image
reads. -/

namespace Sys2Proof.Machine

/-- R9. -/
def State.answerShowMode (bs : List Byte) (s : State) : State × List Byte :=
  let triggers := getBit bs 1 0
  let attract := getBit bs 1 1
  match showTarget? bs with
  | none => (s, Status.badArg.alone)
  | some toShow =>
    (match s.store.mode, toShow with
      | .standby, true => s.enterShow triggers attract
      | .running, true => (s.setMode .running triggers attract).attractFollows s.store.attractRunning
      | .running, false => s.showToStandby
      | .standby, false | .loading, _ => s,
     okWith [])

/-- SHOW_MODE (R9, R10). -/
def execShowMode (s : State) : Host.Outcome State Fault Refusal :=
  .next (State.serve State.finish 0x06 false (exactly 2) State.answerShowMode s)

/-- R14. -/
def State.answerLoadImage (bs : List Byte) (s : State) : State × List Byte :=
  if s.store.mode ≠ .standby then (s, Status.wrongState.alone)
  else
    match loadAddress? bs with
    | none => (s, Status.badArg.alone)
    | some address => (s.beginLoad address .standby, okWith [])

/-- LOAD_IMAGE (R14). -/
def execLoadImage (s : State) : Host.Outcome State Fault Refusal :=
  .next (State.serve State.finish 0x07 false (exactly 4) State.answerLoadImage s)

/-- The table cursor is set. -/
def State.setCursor (s : State) (c : Cursor) : State := { s with link := { s.link with cursor := c } }

/-- R5. -/
def State.answerTableOpen (bs : List Byte) (s : State) : State × List Byte :=
  match openOperands? bs with
  | none => (s, Status.badArg.alone)
  | some (t, i, auto) => (s.setCursor ⟨t, i, auto⟩, okWith [])

/-- TABLE_OPEN (R5). -/
def execTableOpen (s : State) : Host.Outcome State Fault Refusal :=
  .next (State.serve State.finishLink 0x08 false (exactly 4) State.answerTableOpen s)

/-- R6: when auto-increment is on, the cursor index advances by a count. -/
def State.advanceCursor (s : State) (n : Nat) : State :=
  let c := s.link.cursor
  if c.auto then s.setCursor { c with index := c.index + n } else s

/-- R6: the records of a TABLE WRITE are taken in order; the answer is the count stored, and whether all were. -/
def State.writeRecords (table : Fin 14) : Nat → State → Nat → List Byte → Nat → State × Nat × Bool
  | 0, s, _, _, stored => (s, stored, true)
  | n + 1, s, i, bs, stored =>
    if tableEntries table ≤ i then (s, stored, false)
    else
      match s.storeRecord? table i (bs.take (recordSize table)) with
      | none => (s, stored, false)
      | some t =>
        State.writeRecords table n (t.recordWritten table i) (i + 1) (bs.drop (recordSize table)) (stored + 1)

/-- R6: the payload is a whole, nonzero number of the records of the table that the cursor selects. -/
def wholeRecords (s : State) (bs : List Byte) : Bool :=
  decide (bs.length % recordSize s.link.cursor.table = 0) && decide (0 < bs.length)

/-- R6. -/
def State.answerTableWrite (bs : List Byte) (s : State) : State × List Byte :=
  if s.store.mode ≠ .standby then (s, Status.wrongState.alone)
  else
    let c := s.link.cursor
    let x := State.writeRecords c.table (bs.length / recordSize c.table) s c.index bs 0
    (x.1.advanceCursor x.2.1, (if x.2.2 then Status.ok else Status.badArg).code :: put8 x.2.1)

/-- TABLE_WRITE (R6). -/
def execTableWrite (s : State) : Host.Outcome State Fault Refusal :=
  .next (State.serve State.finishLink 0x09 false wholeRecords State.answerTableWrite s)

/-- R7, R192: the records that a TABLE READ returns. -/
def State.readCount (s : State) (requested : Nat) : Nat :=
  let c := s.link.cursor
  min (min requested (tableEntries c.table - c.index)) (Config.readBytes / recordSize c.table)

/-- R7. -/
def State.answerTableRead (bs : List Byte) (s : State) : State × List Byte :=
  match countOperand? bs with
  | none => (s, Status.badArg.alone)
  | some requested =>
    let c := s.link.cursor
    let n := s.readCount requested
    (s.advanceCursor n,
     okWith (put8 n ++ ((List.range n).map fun k => s.store.tables.putEntry c.table (c.index + k)).flatten))

/-- TABLE_READ (R7). -/
def execTableRead (s : State) : Host.Outcome State Fault Refusal :=
  .next (State.serve State.finishLink 0x0A true (exactly 1) State.answerTableRead s)

/-- IMAGE_READ_COMPLETE (R15, R16): the image read in flight completes with its bytes. -/
def execImageReadComplete (data : List Byte) (s : State) : Host.Outcome State Fault Refusal :=
  .next (s.live fun s =>
    match s.sound.flight, s.store.load with
    | some .image, some ld =>
      State.finish (State.feedImage ld.pass data { s with sound := { s.sound with flight := none } })
    | _, _ => s)

end Sys2Proof.Machine
end

