-- ==== Sys2Proof/Machine/Publish.lean ====
section
/-! DEFINITION. The frame events of the Zone Monitor's units with their effects on the other blocks: zones, buttons,
lamps, HOUSE and ESTOP (R165 to R179). -/

namespace Sys2Proof.Machine

/-! ### Zones (R167, R168) -/

/-- R168: the report and the triggers of a zone that has become OCCUPIED or CLEAR. -/
def State.zoneNews (s : State) (z : Fin 12) : Option ZoneState → State
  | some .occupied => ((s.raise (.zoneState z .occupied)).raiseTriggers (.zoneEntry z)).1
  | some .clear => ((s.raise (.zoneState z .clear)).raiseTriggers (.zoneClear z)).1
  | some .entering | some .emptying | none => s

/-- R159, R167, R168: the zone frame event of show frame f, once in that frame (log entry 2). The axes that the zone guards act
first, then the report is queued, then the triggers are raised (log entry 16). -/
def State.zoneFrame (s : State) (z : Fin 12) (raw : Bool) (f : Nat) : State :=
  let x := s.monitor.zones[z]
  if x.frame = some f then s
  else
    let y := x.step (s.store.tables.zone z) raw
    let stepped := { s with monitor := { s.monitor with zones := s.monitor.zones.set z { y with frame := some f } } }
    (stepped.holdsChanged s).zoneNews z (x.news y)

/-! ### Buttons (R171 to R173, R176) -/

/-- R173: an outcome that starts the acknowledge flash. -/
def TriggerOutcome.acknowledged : TriggerOutcome → Bool
  | .started | .pending | .restarted | .queuedAgain => true
  | .alreadyPending | .ignored | .cooldown | .disabled | .dropped | .house => false

/-- R176: the acknowledge flash of a button's lamp starts. -/
def State.flash (s : State) (b : Fin 16) : State :=
  let length := (s.store.tables.button b).ackLength
  { s with monitor := { s.monitor with lamps := s.monitor.lamps.set b (s.monitor.lamps[b].startFlash length) } }

/-- R171: a LANGUAGE press; a flash starts when the language changes. -/
def State.languagePress (s : State) (b : Fin 16) (z : Fin 12) : State :=
  let current := s.monitor.zones[z].language
  let next := nextLanguage (s.store.tables.zone z).languages current
  if next = current then s
  else State.flash { s with monitor := s.monitor.setLanguage z next } b

/-- R173: a press. Its function acts before the players that await the button see it (log entry 16). -/
def State.press (s : State) (b : Fin 16) : State :=
  let acted := match (s.store.tables.button b).function with
    | .scene =>
      let x := s.raiseTriggers (.button b)
      if x.2.any TriggerOutcome.acknowledged then x.1.flash b else x.1
    | .language z => s.languagePress b z
  { acted with engine := acted.engine.press b }

/-- R172, R173: the button frame event of show frame f, once in that frame (log entry 2). -/
def State.buttonFrame (s : State) (b : Fin 16) (pressed : Bool) (f : Nat) : State :=
  let x := s.monitor.buttons[b]
  if x.frame = some f then s
  else
    let y := if s.monitor.seeded then x.step (s.store.tables.button b) pressed else { x with pressed := pressed, counter := 0 }
    let stepped := { s with monitor := { s.monitor with
      buttons := s.monitor.buttons.set b { y with frame := some f } } }
    if s.monitor.seeded && !x.pressed && y.pressed then stepped.press b else stepped

/-! ### Lamps (R174) -/

/-- R174, R176: the lamp frame event of show frame f, once in that frame (log entry 2). -/
def State.lampFrame (s : State) (b : Fin 16) (f : Nat) : State :=
  let x := s.monitor.lamps[b]
  if x.frame = some f then s
  else
    let y := x.step (autoPattern s.store s.engine.scenes s.monitor.house.asserted b)
    { s with monitor := { s.monitor with lamps := s.monitor.lamps.set b { y with frame := some f } } }

/-! ### HOUSE and ESTOP (R179) -/

/-- R179: every block takes a house event; on its release in SHOW a rescan is made (R32). -/
def State.publishHouse (s : State) (asserted : Bool) : State :=
  let taken := { s with
    light := s.light.houseEvent s.store.tables asserted
    sound := { s.sound with house := asserted }
    motion := { s.motion with house := asserted }
    engine := { s.engine with house := asserted } }
  let held := taken.holdsChanged s
  if asserted then held else held.rescan

/-- R59: every player whose claims include an axis is stopped, in increasing player number. -/
def State.estopPlayers (s : State) : State :=
  (List.finRange 8).foldl
    (fun t p => if (t.engine.axesOf p).isEmpty then t else t.stopPlayer p .estop) s

/-- Some non-FREE player claims an axis. -/
def Engine.anyAxisClaimed (e : Engine) : Bool :=
  (List.finRange 8).any fun (p : Fin 8) => e.players[p].isSome && !(e.axesOf p).isEmpty

/-- R179: the Motion and Scene Engines take an ESTOP event (R59, R161). -/
def State.publishEstop (s : State) (asserted : Bool) : State :=
  let taken := State.mapAxes
    { s with motion := { s.motion with estop := asserted }, engine := { s.engine with estop := asserted } }
    fun _ x => if asserted then x.estopAsserted else x.estopReleased
  if asserted && taken.engine.anyAxisClaimed then taken.estopPlayers.rescan else taken

/-- R179: the safety frame event of HOUSE in show frame f, once in that frame (log entry 2). -/
def State.houseFrame (s : State) (sample : Bool) (f : Nat) : State :=
  let x := s.monitor.house
  if x.frame = some f then s
  else
    let y := x.stepHouse sample
    let stepped := { s with monitor := { s.monitor with house := { y with frame := some f } } }
    if x.publishes y then
      let published := stepped.publishHouse y.asserted
      if x.reports y then published.raise (.house y.asserted) else published
    else stepped

/-- R179: the safety frame event of ESTOP in show frame f, once in that frame (log entry 2). -/
def State.estopFrame (s : State) (sample : Bool) (f : Nat) : State :=
  let x := s.monitor.estop
  if x.frame = some f then s
  else
    let y := x.stepEstop sample
    let stepped := { s with monitor := { s.monitor with estop := { y with frame := some f } } }
    if x.publishes y then
      let published := stepped.publishEstop y.asserted
      if x.reports y then published.raise (.estop y.asserted) else published
    else stepped

/-! ### The input sample (R165) -/

/-- R165: the input sample, with the frame events that come of it: the lamps, the zones, the buttons, HOUSE and
ESTOP in turn (log entry 7). -/
def State.takeSample (s : State) (levels : InputLevels) (f : Nat) : State :=
  let active := activeSensors s.store.tables levels.sensors
  let sampled := { s with monitor := { s.monitor with sensors := active, frame := some f } }
  let lamps := (List.finRange 16).foldl (fun t b => t.lampFrame b f) sampled
  let zones := (List.finRange 12).foldl (fun t z => t.zoneFrame z (occupiedRaw s.store.tables active z) f) lamps
  let buttons := (List.finRange 16).foldl (fun t (b : Fin 16) => t.buttonFrame b (!levels.buttons.getLsbD b) f) zones
  let seeded := { buttons with monitor := { buttons.monitor with seeded := true } }
  (seeded.houseFrame (!levels.houseN) f).estopFrame (!levels.estopN) f

end Sys2Proof.Machine
end

