-- ==== Sys2Proof/Machine/ZoneCommands.lean ====
section
/-! DEFINITION. The commands of the Zone Monitor (chapter 9). -/

namespace Sys2Proof.Machine

/-- R177. -/
def State.answerSetLanguage (bs : List Byte) (s : State) : State × List Byte :=
  match languageOperands? bs with
  | none => (s, Status.badArg.alone)
  | some (z, l) =>
    if (s.store.tables.zone z).languages.getLsbD l then
      ({ s with monitor := s.monitor.setLanguage z l }, okWith (put8 l))
    else (s, Status.badArg.alone)

/-- SET_LANGUAGE (R177). -/
def execSetLanguage (s : State) : Host.Outcome State Fault Refusal :=
  .next (State.serve State.finishLink 0x14 false (exactly 2) State.answerSetLanguage s)

/-- R178. -/
def State.answerSetLamp (bs : List Byte) (s : State) : State × List Byte :=
  match lampOperands? bs with
  | none => (s, Status.badArg.alone)
  | some (b, mode) => (s.setLamp b mode, okWith [])

/-- SET_LAMP (R178). -/
def execSetLamp (s : State) : Host.Outcome State Fault Refusal :=
  .next (State.serve State.finishLink 0x15 false (exactly 2) State.answerSetLamp s)

/-- HOUSE_EVENT (R179): the safety frame event of HOUSE that publishes this state. -/
def execHouseEvent (asserted : Bool) (f : Nat) (s : State) : Host.Outcome State Fault Refusal :=
  .next (s.frameStep f s.monitor.house.frame (s.monitor.house.publishes (s.monitor.house.stepHouse asserted)) fun s =>
    (s.houseFrame asserted f).finishLink)

/-- ESTOP_EVENT (R179): the safety frame event of ESTOP that publishes this state. -/
def execEstopEvent (asserted : Bool) (f : Nat) (s : State) : Host.Outcome State Fault Refusal :=
  .next (s.frameStep f s.monitor.estop.frame (s.monitor.estop.publishes (s.monitor.estop.stepEstop asserted)) fun s =>
    (s.estopFrame asserted f).finishLink)

/-- INPUT_SAMPLE (R165). -/
def execInputSample (levels : InputLevels) (f : Nat) (s : State) : Host.Outcome State Fault Refusal :=
  .next (s.frameStep f s.monitor.frame true fun s => (s.takeSample levels f).finishLink)

/-- ZONE_BECOMES_OCCUPIED (R168). -/
def execZoneBecomesOccupied (z : Fin 12) (f : Nat) (s : State) : Host.Outcome State Fault Refusal :=
  .next (s.frameStep f s.monitor.zones[z].frame (s.monitor.zones[z].entryEnds (s.store.tables.zone z)) fun s =>
    (s.zoneFrame z true f).finishLink)

/-- ZONE_BECOMES_CLEAR (R168). -/
def execZoneBecomesClear (z : Fin 12) (f : Nat) (s : State) : Host.Outcome State Fault Refusal :=
  .next (s.frameStep f s.monitor.zones[z].frame (s.monitor.zones[z].clearEnds (s.store.tables.zone z)) fun s =>
    (s.zoneFrame z false f).finishLink)

/-- R172: the debounced state of a button changes at its next button frame event, from `pressed`. -/
def State.buttonChanges (s : State) (b : Fin 16) (pressed : Bool) : Bool :=
  s.monitor.seeded && decide (s.monitor.buttons[b].pressed = pressed)
  && s.monitor.buttons[b].changes (s.store.tables.button b)

/-- PRESS (R173). -/
def execPress (b : Fin 16) (f : Nat) (s : State) : Host.Outcome State Fault Refusal :=
  .next (s.frameStep f s.monitor.buttons[b].frame (s.buttonChanges b false) fun s =>
    (s.buttonFrame b true f).finishLink)

/-- BUTTON_RELEASE (R172). -/
def execButtonRelease (b : Fin 16) (f : Nat) (s : State) : Host.Outcome State Fault Refusal :=
  .next (s.frameStep f s.monitor.buttons[b].frame (s.buttonChanges b true) fun s => s.buttonFrame b false f)

/-- FLASH_END (R176): the lamp frame event that lowers the flash remaining to 0. -/
def execFlashEnd (b : Fin 16) (f : Nat) (s : State) : Host.Outcome State Fault Refusal :=
  .next (s.frameStep f s.monitor.lamps[b].frame (decide (s.monitor.lamps[b].flash = 1)) fun s => s.lampFrame b f)

end Sys2Proof.Machine
end

