-- ==== Sys2Proof/Machine/Dispatch.lean ====
section
/-! DEFINITION. The meaning of every command, one arm per row of spec/opcode_table.json. -/

namespace Sys2Proof.Machine

/-- The effect of a command on everything but the queue of waiting commands. -/
def exec (i : Instr) (s : State) : Host.Outcome State Fault Refusal :=
  match i with
  | .powerOnReset m1 m0 fast => Sys2Proof.Machine.execPowerOnReset m1 m0 fast s
  | .resetN m1 m0 fast => Sys2Proof.Machine.execResetN m1 m0 fast s
  | .arrival kind payload => Sys2Proof.Machine.execArrival kind payload s
  | .gapTimeout => Sys2Proof.Machine.execGapTimeout s
  | .transmitEnd => Sys2Proof.Machine.execTransmitEnd s
  | .unknownRequest => Sys2Proof.Machine.execUnknownRequest s
  | .ident => Sys2Proof.Machine.execIdent s
  | .status => Sys2Proof.Machine.execStatus s
  | .query => Sys2Proof.Machine.execQuery s
  | .reportLevel => Sys2Proof.Machine.execReportLevel s
  | .softReset => Sys2Proof.Machine.execSoftReset s
  | .showMode => Sys2Proof.Machine.execShowMode s
  | .loadImage => Sys2Proof.Machine.execLoadImage s
  | .tableOpen => Sys2Proof.Machine.execTableOpen s
  | .tableWrite => Sys2Proof.Machine.execTableWrite s
  | .tableRead => Sys2Proof.Machine.execTableRead s
  | .trigger => Sys2Proof.Machine.execTrigger s
  | .cancel => Sys2Proof.Machine.execCancel s
  | .stopAll => Sys2Proof.Machine.execStopAll s
  | .holdGroup => Sys2Proof.Machine.execHoldGroup s
  | .freeGroup => Sys2Proof.Machine.execFreeGroup s
  | .setLevel => Sys2Proof.Machine.execSetLevel s
  | .setMaster => Sys2Proof.Machine.execSetMaster s
  | .setGrand => Sys2Proof.Machine.execSetGrand s
  | .setBed => Sys2Proof.Machine.execSetBed s
  | .setLanguage => Sys2Proof.Machine.execSetLanguage s
  | .setLamp => Sys2Proof.Machine.execSetLamp s
  | .moveAxis => Sys2Proof.Machine.execMoveAxis s
  | .homeAxis => Sys2Proof.Machine.execHomeAxis s
  | .imageReadComplete data => Sys2Proof.Machine.execImageReadComplete data s
  | .patienceExpiry sc f => Sys2Proof.Machine.execPatienceExpiry sc f s
  | .cooldownEnd sc f => Sys2Proof.Machine.execCooldownEnd sc f s
  | .playerFrameEvent p f => Sys2Proof.Machine.execPlayerFrameEvent p f s
  | .cueDelayExpiry p f => Sys2Proof.Machine.execCueDelayExpiry p f s
  | .awaitTimeout p f => Sys2Proof.Machine.execAwaitTimeout p f s
  | .lightingFrameEvent f => Sys2Proof.Machine.execLightingFrameEvent f s
  | .attractHoldExpiry f => Sys2Proof.Machine.execAttractHoldExpiry f s
  | .pwmPeriodStart c => Sys2Proof.Machine.execPwmPeriodStart c s
  | .houseEvent asserted f => Sys2Proof.Machine.execHouseEvent asserted f s
  | .estopEvent asserted f => Sys2Proof.Machine.execEstopEvent asserted f s
  | .burstComplete data => Sys2Proof.Machine.execBurstComplete data s
  | .sampleEvent => Sys2Proof.Machine.execSampleEvent s
  | .soundFrameEvent f => Sys2Proof.Machine.execSoundFrameEvent f s
  | .fadeOutEnd v f => Sys2Proof.Machine.execFadeOutEnd v f s
  | .stallTimeout v f => Sys2Proof.Machine.execStallTimeout v f s
  | .duckStep b f => Sys2Proof.Machine.execDuckStep b f s
  | .profileIntervalEvent a home limit => Sys2Proof.Machine.execProfileIntervalEvent a home limit s
  | .motionFrameEvent f => Sys2Proof.Machine.execMotionFrameEvent f s
  | .resumeWaitExpiry a f => Sys2Proof.Machine.execResumeWaitExpiry a f s
  | .inputSample levels f => Sys2Proof.Machine.execInputSample levels f s
  | .zoneBecomesOccupied z f => Sys2Proof.Machine.execZoneBecomesOccupied z f s
  | .zoneBecomesClear z f => Sys2Proof.Machine.execZoneBecomesClear z f s
  | .press b f => Sys2Proof.Machine.execPress b f s
  | .buttonRelease b f => Sys2Proof.Machine.execButtonRelease b f s
  | .flashEnd b f => Sys2Proof.Machine.execFlashEnd b f s
  | .byteReceived b stopOk => Sys2Proof.Machine.execByteReceived b stopOk s
  | .resetBegins => Sys2Proof.Machine.execResetBegins s
  | .patienceAndCooldownCount f => Sys2Proof.Machine.execPatienceAndCooldownCount f s

end Sys2Proof.Machine
end

