-- ==== Sys2Proof/Machine/Flags.lean ====
section
/-! DEFINITION. The levels and words that the part shows at its pins, as functions of its state: the lighting and
lamp outputs, STEP and DIR, the SPI read of a burst and the I2S words. They hold no state of their own. -/

namespace Sys2Proof.Machine

/-- R106: the lighting output of a channel when the period counter stands at `counter`. -/
def State.lightPin (s : State) (c : Fin 48) (counter : Nat) : Bool :=
  !s.inReset && s.light.channels[c].pin counter

/-- R174: the lamp output of a button is driven high while the lamp is lit. -/
def State.lampPin (s : State) (b : Fin 16) : Bool := s.monitor.lamps[b].lit

/-- R146: the STEP pulses that an axis issues in the 1 ms after its last profile interval event. -/
def State.stepPulses (s : State) (a : Fin 8) : Nat := s.motion.axes[a].pulses

/-- R146: the direction at the DIR output: that of the STEP pulses being issued, and with none of them the direction
field. -/
def Axis.shown (x : Axis) : Direction := if x.pulses = 0 then x.dir else x.pulseDir

/-- R146: the DIR output of an axis; `true` for POSITIVE. -/
def State.dirPin (s : State) (a : Fin 8) : Bool := decide (s.motion.axes[a].shown = .positive)

/-- R122: the chip select of a flash address. -/
def chipSelect (address : Nat) : Nat := address / 16777216 % 4

/-- R122: the bytes that the SPI port sends before the data of a burst: the read command, then the address within the
chip, most significant byte first. -/
def spiCommand (address : Nat) : List Byte :=
  [0x03, BitVec.ofNat 8 (address / 65536), BitVec.ofNat 8 (address / 256), BitVec.ofNat 8 address]

/-- R140: the word of an audio output in an I2S frame, 16-bit two's complement. -/
def State.i2sWord (s : State) (o : Fin 4) : BitVec 16 := BitVec.ofInt 16 s.sound.out[o]

/-- R140: the two words of I2S pair A (`false`) or B (`true`): left, then right. -/
def State.i2sPair (s : State) (b : Bool) : BitVec 16 × BitVec 16 :=
  if b then (s.i2sWord 2, s.i2sWord 3) else (s.i2sWord 0, s.i2sWord 1)

/-- R181, R185: the bytes that the transmit output is sending; none while it is idle or the part is in reset. -/
def State.transmitting (s : State) : Option (List Byte) := if s.inReset then none else s.link.sending

end Sys2Proof.Machine
end

