-- ==== Sys2Proof/Safety.lean ====
section
/-! DEFINITION. What a safe part is: for each block, a condition on the state that every command keeps, in the terms
that the statements use. Each one cites the rule that asks for it. Beside them stand the terms in which a request is
spoken of: the request that is next, and the part once it is taken and once it is answered. -/

namespace Sys2Proof.Machine

/-! ### Commands in a row, and requests -/

/-- The outcome of some commands, one after another, up to the first that does not answer a next state. -/
def runCommands : List Instr → State → Host.Outcome State Fault Refusal
  | [], s => .next s
  | c :: rest, s =>
    match exec c s with
    | .next t => runCommands rest t
    | stop => stop

/-- A request of this kind and payload is the next to be executed, with `rest` waiting behind it: the part is not held
in reset, and the reply list holds no reply of an executed request (R184). -/
def State.RequestNext (s : State) (kind : Byte) (payload : List Byte) (rest : List Request) : Prop :=
  s.inReset = false ∧ s.link.requests = ⟨kind, payload⟩ :: rest ∧ s.link.replies.all (·.busy) = true

/-- The part once the request at the front of its request queue has been taken. -/
def State.took (s : State) (rest : List Request) : State := { s with link := { s.link with requests := rest } }

/-- The part once the reply of an executed request has joined its reply list. -/
def State.replied (s : State) (kind : Byte) (payload : List Byte) : State :=
  { s with link := s.link.reply kind payload }

/-! ### Looks, returns to attract, starts and stops

Relations between the part before an event and the part after it, in which the statements say what the event leaves.
They name every field that the event may touch, so what they do not name is as it was. -/

/-- R34: what a scene is once its player has stopped: in COOLDOWN, or READY when its cooldown is 0. -/
def State.restOf (s : State) (sc : Fin 64) : SceneRun :=
  if (s.store.tables.scene sc).cooldown = 0 then ⟨.ready, 0, false, none⟩
  else ⟨.cooldown, (s.store.tables.scene sc).cooldown, false, s.frame⟩

/-- R83, R85: the fade of a channel once a look has been applied to it: each entry of the look that lists the channel
starts a fade from the intent it finds, in pool order. -/
def Tables.lookFade (t : Tables) (look : Fin 128) (c : Fin 48) (length : Nat) (curve : FadeCurve) (was : Fade) : Fade :=
  (t.lookEntries look).foldl
    (fun x e =>
      if e.channel = c then
        ⟨x.intent, e.level * 257, length, 0, curve, if length = 0 then e.level * 257 else x.intent⟩
      else x)
    was

/-- R83: the lighting `m` is `l` with a look applied to the channels of the groups named, and is otherwise as it was. -/
def Lighting.TakesLook (l m : Lighting) (t : Tables) (look : Fin 128) (groups : Fin 16 → Prop) (length : Fin 16 → Nat)
    (curve : FadeCurve) : Prop :=
  { m with channels := l.channels } = l
  ∧ ∀ c : Fin 48,
      let g := (t.channel c).group
      (groups g → m.channels[c] =
        { l.channels[c] with fade := t.lookFade look c (length g) curve (l.channels[c]).fade })
      ∧ (¬ groups g → m.channels[c] = l.channels[c])

/-- R78, R115: the lighting `m` is that of `s` with the groups named returned to attract: those that are
attract-enabled, while the cycle runs, take the look of the current slot over their own return fade. -/
def State.ReturnsGroups (s : State) (m : Lighting) (groups : Fin 16 → Prop) : Prop :=
  s.light.TakesLook m s.store.tables (s.store.tables.slot s.light.slot).look
    (fun g => s.store.attractRunning = true ∧ (s.store.tables.group g).attract = true ∧ groups g)
    (fun g => (s.store.tables.group g).returnFade) .linear

/-- R27, R41: the record of a player that starts a scene, with this start order and voice. -/
def State.freshRun (s : State) (sc : Fin 64) (voice : Option (Fin 4)) (order : Nat) : Run :=
  let r := s.store.tables.scene sc
  { scene := sc, priority := r.priority, order := order, cue := r.firstCue,
    phase := .delaying (s.store.tables.cue r.firstCue).delay, loops := [], voice := voice, executed := 0,
    frame := s.frame }

/-- R40: a start order once another player has stopped. -/
def Run.closedUp (x : Run) (order : Nat) : Run := if order < x.order then { x with order := x.order - 1 } else x

/-- R25, R26, R70: scene `sc` can start on player `p` with `voice` and stop nobody: everything it needs is unowned, `p`
is the lowest-numbered FREE player and `voice` the lowest-numbered unowned IDLE voice. -/
def State.Startable (s : State) (sc : Fin 64) (p : Fin 8) (voice : Option (Fin 4)) : Prop :=
  let r := s.store.tables.scene sc
  let free (v : Fin 4) : Prop := s.engine.claims.voices[v] = none ∧ (s.sound.voices[v]).state = .idle
  s.engine.players[p] = none ∧ (∀ q : Fin 8, q < p → (s.engine.players[q]).isSome = true)
  ∧ (∀ g : Fin 16, r.groupMask.getLsbD g = true → s.engine.claims.groups[g] = .none)
  ∧ (∀ a : Fin 8, r.axisMask.getLsbD a = true → s.engine.claims.axes[a] = none)
  ∧ (r.narration = false ∧ voice = none
      ∨ ∃ v : Fin 4, r.narration = true ∧ voice = some v ∧ free v ∧ ∀ w : Fin 4, w < v → ¬ free w)
  ∧ (s.engine.estop = false ∨ r.axisMask = 0)

/-- R27, R41, R64, R70: `t` is `s` after the start of scene `sc` on player `p` with `voice`, and with this queue. -/
def State.Starts (s t : State) (sc : Fin 64) (src : Source) (p : Fin 8) (voice : Option (Fin 4)) (queue : List Entry) :
    Prop :=
  let r := s.store.tables.scene sc
  t.link = s.link.raise (.sceneStarted sc p r.priority src)
  ∧ { t with link := s.link, engine := s.engine } = s
  ∧ { t.engine with scenes := s.engine.scenes, players := s.engine.players, claims := s.engine.claims,
                    queue := s.engine.queue } = s.engine
  ∧ t.engine.queue = queue
  ∧ t.engine.scenes = s.engine.scenes.set sc ⟨.running, 0, false, none⟩
  ∧ t.engine.players = s.engine.players.set p (some (s.freshRun sc voice (s.engine.running + 1)))
  ∧ (∀ g : Fin 16, t.engine.claims.groups[g] =
      if r.groupMask.getLsbD g then .player p else s.engine.claims.groups[g])
  ∧ (∀ a : Fin 8, t.engine.claims.axes[a] = if r.axisMask.getLsbD a then some p else s.engine.claims.axes[a])
  ∧ ∀ v : Fin 4, t.engine.claims.voices[v] = if voice = some v then some p else s.engine.claims.voices[v]

/-- R57, R65, R78: `t` is `s` after the stop of player `p`, whose record was `r`, with nothing waiting: its voice fades
out, its axes have a stop request, its claims are released, it is FREE, its report is queued, its scene rests (R34) and
its groups return to attract. -/
def State.StopsPlayer (s t : State) (p : Fin 8) (r : Run) (reason : StopReason) : Prop :=
  { t with link := s.link, engine := s.engine, light := s.light, sound := s.sound, motion := s.motion } = s
  ∧ t.link = s.link.raise (.sceneEnded r.scene p reason r.cue)
  ∧ { t.engine with scenes := s.engine.scenes, players := s.engine.players, claims := s.engine.claims } = s.engine
  ∧ t.engine.scenes = s.engine.scenes.set r.scene (s.restOf r.scene)
  ∧ t.engine.players[p] = none
  ∧ (∀ q : Fin 8, q ≠ p → t.engine.players[q] = (s.engine.players[q]).map fun x => x.closedUp r.order)
  ∧ (∀ g : Fin 16, t.engine.claims.groups[g] =
      if s.engine.claims.groups[g] = .player p then .none else s.engine.claims.groups[g])
  ∧ (∀ a : Fin 8, t.engine.claims.axes[a] =
      if s.engine.claims.axes[a] = some p then none else s.engine.claims.axes[a])
  ∧ (∀ v : Fin 4, t.engine.claims.voices[v] =
      if s.engine.claims.voices[v] = some p then none else s.engine.claims.voices[v])
  ∧ s.ReturnsGroups t.light (fun g => s.engine.claims.groups[g] = .player p)
  ∧ { t.sound with voices := s.sound.voices } = s.sound
  ∧ (∀ v : Fin 4, t.sound.voices[v] =
      if s.engine.claims.voices[v] = some p then (s.sound.voices[v]).fadeOut else s.sound.voices[v])
  ∧ { t.motion with axes := s.motion.axes } = s.motion
  ∧ ∀ a : Fin 8, t.motion.axes[a] =
      if s.engine.claims.axes[a] = some p then (s.motion.axes[a]).stopRequest else s.motion.axes[a]

/-- R73: the scene of player `p`, whose record is `r`, can start again on player `q` with `voice` once `p` has stopped:
the groups and axes that it needs are those that `p` owns. -/
def State.Readmissible (s : State) (p : Fin 8) (r : Run) (q : Fin 8) (voice : Option (Fin 4)) : Prop :=
  let rec' := s.store.tables.scene r.scene
  let free (v : Fin 4) : Prop :=
    (s.engine.claims.voices[v] = none ∨ s.engine.claims.voices[v] = some p) ∧ (s.sound.voices[v]).state = .idle
  s.engine.queue = []
  ∧ (s.engine.players[q] = none ∨ q = p) ∧ (∀ k : Fin 8, k < q → k ≠ p ∧ (s.engine.players[k]).isSome = true)
  ∧ (∀ g : Fin 16, s.engine.claims.groups[g] = .player p ↔ rec'.groupMask.getLsbD g = true)
  ∧ (∀ a : Fin 8, s.engine.claims.axes[a] = some p ↔ rec'.axisMask.getLsbD a = true)
  ∧ (rec'.narration = false ∧ voice = none
      ∨ ∃ v : Fin 4, rec'.narration = true ∧ voice = some v ∧ free v ∧ ∀ w : Fin 4, w < v → ¬ free w)
  ∧ (s.engine.estop = false ∨ rec'.axisMask = 0)

/-- R24, R35, R73: `t` is `s` after the stop of player `p`, whose record was `r`, and the start of the same scene from
source `src` on player `q` with `voice`, within one event: what the scene needs passes on without a return to attract. -/
def State.Restarts (s t : State) (p : Fin 8) (r : Run) (reason : StopReason) (src : Source) (q : Fin 8)
    (voice : Option (Fin 4)) : Prop :=
  let rec' := s.store.tables.scene r.scene
  { t with link := s.link, engine := s.engine, sound := s.sound, motion := s.motion } = s
  ∧ t.link = (s.link.raise (.sceneEnded r.scene p reason r.cue)).raise (.sceneStarted r.scene q rec'.priority src)
  ∧ { t.engine with scenes := s.engine.scenes, players := s.engine.players, claims := s.engine.claims } = s.engine
  ∧ t.engine.scenes = s.engine.scenes.set r.scene ⟨.running, 0, false, none⟩
  ∧ t.engine.players[q] = some (s.freshRun r.scene voice s.engine.running)
  ∧ (p ≠ q → t.engine.players[p] = none)
  ∧ (∀ k : Fin 8, k ≠ p → k ≠ q → t.engine.players[k] = (s.engine.players[k]).map fun x => x.closedUp r.order)
  ∧ (∀ g : Fin 16, t.engine.claims.groups[g] =
      if rec'.groupMask.getLsbD g then .player q else s.engine.claims.groups[g])
  ∧ (∀ a : Fin 8, t.engine.claims.axes[a] = if rec'.axisMask.getLsbD a then some q else s.engine.claims.axes[a])
  ∧ (∀ v : Fin 4, t.engine.claims.voices[v] =
      if voice = some v then some q else if s.engine.claims.voices[v] = some p then none
      else s.engine.claims.voices[v])
  ∧ { t.sound with voices := s.sound.voices } = s.sound
  ∧ (∀ v : Fin 4, t.sound.voices[v] =
      if s.engine.claims.voices[v] = some p then (s.sound.voices[v]).fadeOut else s.sound.voices[v])
  ∧ { t.motion with axes := s.motion.axes } = s.motion
  ∧ ∀ a : Fin 8, t.motion.axes[a] =
      if s.engine.claims.axes[a] = some p then (s.motion.axes[a]).stopRequest else s.motion.axes[a]

/-- R159, R160: what an axis does when its hold condition comes to be present (`holdBegins`) and when it clears
(`holdEnds`), and how a resume wait starts (`startWait`), by the axis's state. -/
def Axis.ActsOnHolds (x : Axis) (r : AxisRec) : Prop :=
  let homes (pending : Option Move) : Axis :=
    { x with state := .homing, homed := false, position := 0, rate := 0, acc := 0, dir := .negative, target := none,
             profile := none, ending := none, follow := none, pendingMove := pending, wait := none, cause := none }
  (∀ (target : Int) (profile : Fin 16), x.state = .moving → x.target = some target → x.profile = some profile →
    x.holdBegins =
      { x with state := .stopping, ending := some .held, follow := some (.move ⟨target, profile⟩) })
  ∧ (x.state = .homing → x.holdBegins = { x with state := .stopping, ending := some .held, follow := some .home })
  ∧ (x.state = .stopping → x.ending = some .next → x.holdBegins = { x with ending := some .held })
  ∧ (x.state = .stopping → x.ending ≠ some .next → x.holdBegins = x)
  ∧ (x.state = .held → x.holdBegins = { x with wait := none } ∧ x.holdEnds r = x.startWait r)
  ∧ (x.state = .idle ∨ x.state = .unhomed ∨ x.state = .fault → x.holdBegins = x)
  ∧ (x.state ≠ .held → x.holdEnds r = x)
  ∧ (r.resume ≠ 0 → x.startWait r = { x with wait := some r.resume })
  ∧ (r.resume = 0 →
      (∀ m : Move, x.follow = some (.move m) →
        let target := r.limit m.target
        (x.homed = true → target = x.position → x.startWait r =
          { x with state := .idle, rate := 0, acc := 0, target := none, profile := none, ending := none,
                   follow := none, pendingMove := none, wait := none, cause := none })
        ∧ (x.homed = true → target ≠ x.position → x.startWait r =
            { x with state := .moving, rate := 0, acc := 0, target := some target, profile := some m.profile,
                     dir := if x.position < target then .positive else .negative, ending := none, follow := none,
                     pendingMove := none, wait := none, cause := none })
        ∧ (x.homed = false → x.startWait r = homes (some ⟨target, m.profile⟩)))
      ∧ (x.follow = some .home → x.startWait r = homes x.pendingMove))

/-- R25: a scene that needs a group in direct control cannot be admitted. -/
def State.ShutOut (s : State) (sc : Fin 64) : Prop :=
  ∃ g : Fin 16, (s.store.tables.scene sc).groupMask.getLsbD g = true ∧ s.engine.claims.groups[g] = .direct

/-- R28, R29: `t` is `s` after scene `sc`, which is not admitted, is dropped with NO_WAIT, or, when its patience is not 0,
has become the only entry of the empty queue. -/
def State.WaitsOrDrops (s t : State) (sc : Fin 64) (src : Source) : Prop :=
  let r := s.store.tables.scene sc
  (r.patience = 0 → t = { s with link := s.link.raise (.triggerDropped sc .noWait src) })
  ∧ (r.patience ≠ 0 →
      t = { s with engine := { s.engine with
        queue := [⟨sc, r.priority, src, s.engine.arrivals, r.patience, s.frame⟩]
        arrivals := (s.engine.arrivals + 1) % 65536
        scenes := s.engine.scenes.set sc ⟨.pending, 0, false, none⟩ } })

/-- R44: the part `y` in show frame f with player `p`, whose record was `r`, arrived at cue `c` after one cue. -/
def State.arrivedAt (y : State) (p : Fin 8) (r : Run) (c : Fin 2048) (f : Nat) : State :=
  { y with frame := some f, engine := { y.engine with players := y.engine.players.set p (some
      { r with cue := c, phase := .delaying (y.store.tables.cue c).delay, executed := 1, frame := some f }) } }

end Sys2Proof.Machine

namespace Sys2Proof

/-- Section 11.4: the kind byte of the request that a command executes; none for an event. -/
def Instr.requestKind? : Instr → Option Byte
  | .ident => some 0x01 | .status => some 0x02 | .query => some 0x03 | .reportLevel => some 0x04
  | .softReset => some 0x05 | .showMode => some 0x06 | .loadImage => some 0x07 | .tableOpen => some 0x08
  | .tableWrite => some 0x09 | .tableRead => some 0x0A | .trigger => some 0x0B | .cancel => some 0x0C
  | .stopAll => some 0x0D | .holdGroup => some 0x0E | .freeGroup => some 0x0F | .setLevel => some 0x10
  | .setMaster => some 0x11 | .setGrand => some 0x12 | .setBed => some 0x13 | .setLanguage => some 0x14
  | .setLamp => some 0x15 | .moveAxis => some 0x16 | .homeAxis => some 0x17
  | .powerOnReset .. | .resetN .. | .arrival .. | .gapTimeout | .transmitEnd | .unknownRequest
  | .imageReadComplete .. | .patienceExpiry .. | .cooldownEnd .. | .playerFrameEvent .. | .cueDelayExpiry ..
  | .awaitTimeout .. | .lightingFrameEvent .. | .attractHoldExpiry .. | .pwmPeriodStart .. | .houseEvent ..
  | .estopEvent .. | .burstComplete .. | .sampleEvent | .soundFrameEvent .. | .fadeOutEnd .. | .stallTimeout ..
  | .duckStep .. | .profileIntervalEvent .. | .motionFrameEvent .. | .resumeWaitExpiry .. | .inputSample ..
  | .zoneBecomesOccupied .. | .zoneBecomesClear .. | .press .. | .buttonRelease .. | .flashEnd .. | .byteReceived ..
  | .resetBegins | .patienceAndCooldownCount .. => none

/-- Section 11.4: the payload length of the request that a command executes, where the kind has a fixed one. -/
def Instr.payloadLength? : Instr → Option Nat
  | .ident | .status | .softReset | .stopAll => some 0
  | .reportLevel | .tableRead | .trigger | .cancel | .holdGroup | .freeGroup | .setGrand | .homeAxis => some 1
  | .query | .showMode | .setLanguage | .setLamp => some 2
  | .loadImage | .tableOpen | .setMaster | .setBed => some 4
  | .setLevel => some 5
  | .moveAxis => some 6
  | .tableWrite => none
  | .powerOnReset .. | .resetN .. | .arrival .. | .gapTimeout | .transmitEnd | .unknownRequest
  | .imageReadComplete .. | .patienceExpiry .. | .cooldownEnd .. | .playerFrameEvent .. | .cueDelayExpiry ..
  | .awaitTimeout .. | .lightingFrameEvent .. | .attractHoldExpiry .. | .pwmPeriodStart .. | .houseEvent ..
  | .estopEvent .. | .burstComplete .. | .sampleEvent | .soundFrameEvent .. | .fadeOutEnd .. | .stallTimeout ..
  | .duckStep .. | .profileIntervalEvent .. | .motionFrameEvent .. | .resumeWaitExpiry .. | .inputSample ..
  | .zoneBecomesOccupied .. | .zoneBecomesClear .. | .press .. | .buttonRelease .. | .flashEnd .. | .byteReceived ..
  | .resetBegins | .patienceAndCooldownCount .. => none

/-- R11: the requests that are carried out in LOADING as in any other state. -/
def Instr.answeredInLoading : Instr → Bool
  | .ident | .status | .query | .tableRead => true
  | .powerOnReset .. | .resetN .. | .arrival .. | .gapTimeout | .transmitEnd | .unknownRequest | .reportLevel
  | .softReset | .showMode | .loadImage | .tableOpen | .tableWrite | .trigger | .cancel | .stopAll | .holdGroup
  | .freeGroup | .setLevel | .setMaster | .setGrand | .setBed | .setLanguage | .setLamp | .moveAxis | .homeAxis
  | .imageReadComplete .. | .patienceExpiry .. | .cooldownEnd .. | .playerFrameEvent .. | .cueDelayExpiry ..
  | .awaitTimeout .. | .lightingFrameEvent .. | .attractHoldExpiry .. | .pwmPeriodStart .. | .houseEvent ..
  | .estopEvent .. | .burstComplete .. | .sampleEvent | .soundFrameEvent .. | .fadeOutEnd .. | .stallTimeout ..
  | .duckStep .. | .profileIntervalEvent .. | .motionFrameEvent .. | .resumeWaitExpiry .. | .inputSample ..
  | .zoneBecomesOccupied .. | .zoneBecomesClear .. | .press .. | .buttonRelease .. | .flashEnd .. | .byteReceived ..
  | .resetBegins | .patienceAndCooldownCount .. => false

/-- The commands of the resets, which act while the part is held in reset (R12). -/
def Instr.isReset : Instr → Bool
  | .powerOnReset .. | .resetN .. | .resetBegins => true
  | .arrival .. | .gapTimeout | .transmitEnd | .unknownRequest | .ident | .status | .query | .reportLevel
  | .softReset | .showMode | .loadImage | .tableOpen | .tableWrite | .tableRead | .trigger | .cancel | .stopAll
  | .holdGroup | .freeGroup | .setLevel | .setMaster | .setGrand | .setBed | .setLanguage | .setLamp | .moveAxis
  | .homeAxis | .imageReadComplete .. | .patienceExpiry .. | .cooldownEnd .. | .playerFrameEvent ..
  | .cueDelayExpiry .. | .awaitTimeout .. | .lightingFrameEvent .. | .attractHoldExpiry .. | .pwmPeriodStart ..
  | .houseEvent .. | .estopEvent .. | .burstComplete .. | .sampleEvent | .soundFrameEvent .. | .fadeOutEnd ..
  | .stallTimeout .. | .duckStep .. | .profileIntervalEvent .. | .motionFrameEvent .. | .resumeWaitExpiry ..
  | .inputSample .. | .zoneBecomesOccupied .. | .zoneBecomesClear .. | .press .. | .buttonRelease .. | .flashEnd ..
  | .byteReceived .. | .patienceAndCooldownCount .. => false

end Sys2Proof

namespace Sys2Proof.Machine

/-! ### Link Interface -/

/-- R182: what the receiver holds in each of its states: nothing in HUNT and LENGTH; in BODY fewer bytes than the
length byte asks for, in CHECK exactly as many, and with them the running sum. -/
def Receiver.Sound (x : Receiver) : Prop :=
  match x.state with
  | .hunt | .length => x.length = 0 ∧ x.body = [] ∧ x.sum = 0
  | .body => 1 ≤ x.length ∧ x.length ≤ 200 ∧ x.body.length < x.length
      ∧ x.sum = BitVec.ofNat 8 x.length + byteSum x.body
  | .check => 1 ≤ x.length ∧ x.length ≤ 200 ∧ x.body.length = x.length
      ∧ x.sum = BitVec.ofNat 8 x.length + byteSum x.body

/-- R5, R183, R185, R186: the queues, the reply list, the threshold and the cursor are within their bounds. -/
def State.LinkBounded (s : State) : Prop :=
  s.link.receiver.Sound
  ∧ s.link.requests.length ≤ 4
  ∧ (s.link.replies.filter (·.busy)).length ≤ 4
  ∧ (s.link.replies.filter (!·.busy)).length ≤ 1
  ∧ s.link.reports.length ≤ 32
  ∧ s.link.threshold ≤ 3
  ∧ s.link.cursor.index ≤ tableEntries s.link.cursor.table

/-! ### Show Store -/

/-- R1: every table is in its one canonical form, so that every entry holds one record. -/
def State.TablesCanonical (s : State) : Prop := s.store.tables.wf = true

/-- R8: both flags are off in LOADING and in STANDBY. -/
def State.FlagsOffOutsideShow (s : State) : Prop :=
  s.store.mode ≠ .running → s.store.triggersOn = false ∧ s.store.attractOn = false

/-- R14, R17: the part is in LOADING exactly while a load is going on. -/
def State.LoadsInLoading (s : State) : Prop := s.store.load.isSome = true ↔ s.store.mode = .loading

/-! ### Scene Engine -/

/-- R29: the pending queue holds at most 16 entries, in non-increasing priority. -/
def State.QueueOrdered (s : State) : Prop :=
  s.engine.queue.length ≤ 16 ∧ s.engine.queue.Pairwise fun a b => b.priority ≤ a.priority

/-- R63: no claim names a FREE player. -/
def State.ClaimsNamePlayers (s : State) : Prop :=
  (∀ (g : Fin 16) (p : Fin 8), s.engine.claims.groups[g] = .player p → s.engine.players[p].isSome = true)
  ∧ (∀ (a : Fin 8) (p : Fin 8), s.engine.claims.axes[a] = some p → s.engine.players[p].isSome = true)
  ∧ (∀ (v : Fin 4) (p : Fin 8), s.engine.claims.voices[v] = some p → s.engine.players[p].isSome = true)

/-- R40, R53: the start orders of the non-FREE players are distinct numbers from 1 to their count, and no loop stack
holds more than 4 entries. -/
def State.PlayersOrdered (s : State) : Prop :=
  (∀ (p : Fin 8) (r : Run), s.engine.players[p] = some r →
    1 ≤ r.order ∧ r.order ≤ s.engine.running ∧ r.loops.length ≤ 4)
  ∧ (∀ (p q : Fin 8) (r x : Run), s.engine.players[p] = some r → s.engine.players[q] = some x →
    r.order = x.order → p = q)

/-- R9, R10, R40, R63: outside SHOW every player is FREE, the queue is empty, and every claim is NONE or DIRECT. -/
def State.IdleOutsideShow (s : State) : Prop :=
  s.store.mode ≠ .running →
    (∀ p : Fin 8, s.engine.players[p] = none) ∧ s.engine.queue = []
    ∧ (∀ (g : Fin 16) (p : Fin 8), s.engine.claims.groups[g] ≠ .player p)
    ∧ (∀ a : Fin 8, s.engine.claims.axes[a] = none) ∧ ∀ v : Fin 4, s.engine.claims.voices[v] = none

/-- R20: a scene is PENDING exactly while the queue holds an entry for it, which is then its only one, and RUNNING exactly
while a player holds it, which is then the only one; its cooldown is 0 outside COOLDOWN, and its again flag is set in
RUNNING alone. -/
def State.ScenesAgree (s : State) : Prop :=
  (∀ sc : Fin 64,
    ((s.engine.scenes[sc]).state = .pending ↔ ∃ e ∈ s.engine.queue, e.scene = sc)
    ∧ ((s.engine.scenes[sc]).state = .running ↔ ∃ (p : Fin 8) (r : Run), s.engine.players[p] = some r ∧ r.scene = sc)
    ∧ ((s.engine.scenes[sc]).state ≠ .cooldown → (s.engine.scenes[sc]).cooldown = 0)
    ∧ ((s.engine.scenes[sc]).state ≠ .running → (s.engine.scenes[sc]).again = false))
  ∧ (s.engine.queue.Pairwise fun a b => a.scene ≠ b.scene)
  ∧ ∀ (p q : Fin 8) (r x : Run), s.engine.players[p] = some r → s.engine.players[q] = some x → r.scene = x.scene → p = q

/-! ### Lighting Engine -/

/-- R111, R116: while the attract cycle does not run, its slot and hold are 0. -/
def State.AttractRests (s : State) : Prop :=
  s.store.attractRunning = false → s.light.slot = 0 ∧ s.light.hold = 0

/-- A number lies between two others, both included. -/
def Between (a b x : Nat) : Prop := min a b ≤ x ∧ x ≤ max a b

/-- R84, R90: every fade has taken at most its length in steps, and its value lies between its start and its
target. -/
def State.FadesBetween (s : State) : Prop :=
  (∀ c : Fin 48, (s.light.channels[c]).fade.elapsed ≤ (s.light.channels[c]).fade.length
    ∧ Between (s.light.channels[c]).fade.start (s.light.channels[c]).fade.target (s.light.channels[c]).fade.intent)
  ∧ (∀ g : Fin 16, (s.light.masters[g]).elapsed ≤ (s.light.masters[g]).length
    ∧ Between (s.light.masters[g]).start (s.light.masters[g]).target (s.light.masters[g]).level)

/-- R109: the flicker register is not 0. -/
def State.FlickerRuns (s : State) : Prop := s.light.flicker ≠ 0

/-! ### Sound Engine -/

/-- The bytes that a stream has buffered. -/
def Sound.fill (x : Sound) (n : Fin 8) : Nat :=
  if h : n.val < 4 then x.voices[n.val].feed.buffer.length else x.beds[n.val - 4].feed.buffer.length

/-- R124, R125: no buffer holds more than 320 bytes, and while a burst that will be delivered is in flight its stream
holds at most 256 and the burst is of at most 64. R130, R131, R136: stages and stall frames are within their bounds. -/
def State.SoundBounded (s : State) : Prop :=
  (∀ n : Fin 8, s.sound.fill n ≤ 320)
  ∧ (∀ (n : Fin 8) (a k : Nat), s.sound.flight = some (.stream n a k false) → s.sound.fill n ≤ 256 ∧ k ≤ 64)
  ∧ (∀ v : Fin 4, (s.sound.voices[v]).fade ≤ 8 ∧ (s.sound.voices[v]).stall ≤ 50)
  ∧ (∀ b : Fin 4, (s.sound.beds[b]).stage ≤ 7)

/-! ### Motion Engine -/

/-- R4, R154, R156, R157: the soft limits of every axis record enclose 0, a homed axis lies within those of its own, and
an axis in HOMING is not homed. -/
def State.WithinSoftLimits (s : State) : Prop :=
  ∀ a : Fin 8, (s.store.tables.axis a).minPos ≤ 0 ∧ 0 ≤ (s.store.tables.axis a).maxPos
    ∧ ((s.motion.axes[a]).homed = true →
        (s.store.tables.axis a).minPos ≤ (s.motion.axes[a]).position
        ∧ (s.motion.axes[a]).position ≤ (s.store.tables.axis a).maxPos)
    ∧ ((s.motion.axes[a]).state = .homing → (s.motion.axes[a]).homed = false)

/-- R159, R160: while its hold condition is present an axis neither moves nor homes, and no resume wait runs. -/
def State.HeldAxesStill (s : State) : Prop :=
  ∀ a : Fin 8, s.holdPresent a = true →
    (s.motion.axes[a]).state ≠ .moving ∧ (s.motion.axes[a]).state ≠ .homing
    ∧ ((s.motion.axes[a]).state = .held → (s.motion.axes[a]).wait = none)

/-- R161: an axis is in FAULT with cause ESTOP exactly while ESTOP is asserted, and an axis in FAULT is at rest and not
homed. -/
def State.EstopFaultsAxes (s : State) : Prop :=
  ∀ a : Fin 8,
    ((s.motion.axes[a]).state = .fault ∧ (s.motion.axes[a]).cause = some .estop ↔ s.motion.estop = true)
    ∧ ((s.motion.axes[a]).state = .fault → (s.motion.axes[a]).homed = false ∧ (s.motion.axes[a]).rate = 0)

/-! ### Zone Monitor -/

/-- R3, R170: the default language and the current language of every zone are members of its language set. -/
def State.LanguagesOffered (s : State) : Prop :=
  ∀ z : Fin 12, (s.store.tables.zone z).languages.getLsbD (s.store.tables.zone z).language = true
    ∧ (s.store.tables.zone z).languages.getLsbD (s.monitor.zones[z]).language = true

end Sys2Proof.Machine
end

