-- ==== Sys2Proof/WellFormed.lean ====
section
/-! DEFINITION. What a command's operands must satisfy for the step it names to be able to happen. -/

namespace Sys2Proof

/-- A link frame carries at most 199 payload bytes (R182), a burst 1 to 64 data bytes (R122), and an image
read at least one byte. Every other operand's type already bounds it. -/
def Instr.wellFormed : Instr → Bool
  | .arrival _ payload => payload.length ≤ 199
  | .burstComplete data => 1 ≤ data.length && data.length ≤ 64
  | .imageReadComplete data => 1 ≤ data.length
  | _ => true

end Sys2Proof
end

