-- ==== Sys2Proof/Certificates/Slice0/Obligations.lean ====
section
/-! DEFINITION. The statements for the provers: what the commands do, rule by rule, and what every step keeps. In each
statement about a request, `s.RequestNext kind payload rest` says that the request is the next to be executed, `s.took
rest` is the part once it has left the request queue, and `replied` adds the reply; `finishLink` then lets an idle
transmitter choose its next frame (R185), and `finish` beside that lets the fetch arbiter grant the flash port
(R124). -/

open Sys2Proof Sys2Proof.Machine

/-! ### Steps and resets -/

/-- A step takes the command at the front of the queue and is its effect on the part with the rest of the queue; on an
empty queue the part idles, which is the model's choice (log entry 14). -/
def Obligations.StepTakesFrontCommand : Prop :=
  (∀ (s : State) (c : Instr) (rest : List Instr), s.pending = c :: rest → step s = exec c { s with pending := rest })
  ∧ ∀ s : State, s.pending = [] → step s = .next s

/-- Every command answers a next state on every part: no command faults or is refused. That a command out of its turn
completes too, and then changes nothing (log entries 2 and 3), and that every command leaves the waiting commands as they
are, the resets among them (log entry 14), are the model's choices. -/
def Obligations.EveryCommandCompletes : Prop :=
  ∀ (c : Instr) (s : State), ∃ t : State, exec c s = .next t ∧ t.pending = s.pending

/-- R12, R181, R188: when a reset begins, every block takes its reset values, the transmit output is high and the receiver
is in HUNT (the strap, the mode pins and the start cause are kept until they are sampled again: log entry 1), and until
the reset ends nothing but a reset acts on the part. When power-on reset or RESET_n ends, every table holds its empty
records, every block its reset values, and the pins and the strap are as sampled. With MODE1, MODE0 at 00 the part is
then in STANDBY and loads nothing (where R12 gives a field no value, State.reset holds the model's choice: log entry 23;
that the waiting commands are kept is the model's choice too: log entry 14). Otherwise it is in LOADING, and the load of the image at flash address 0 has begun its
verify pass: at 01 to end in STANDBY, at 10 in SHOW with both flags on, at 11 in SHOW with triggers-enabled off and
attract-enabled on. -/
def Obligations.ResetsGiveResetValues : Prop :=
  ((∀ s : State,
     exec .resetBegins s = .next
       { State.reset with
         pending := s.pending, inReset := true,
         link := { Link.reset with
           fastBaud := s.link.fastBaud, mode1 := s.link.mode1, mode0 := s.link.mode0, cause := s.link.cause } })
   ∧ (∀ (s : State) (c : Instr), s.inReset = true → c.isReset = false → exec c s = .next s)
   ∧ ∀ s : State, s.inReset = true → s.transmitting = none)
  ∧ (∀ (s : State) (m1 m0 fast : Bool) (c : Instr) (cause : StartCause),
       (c = .powerOnReset m1 m0 fast ∧ cause = .powerOn) ∨ (c = .resetN m1 m0 fast ∧ cause = .resetPin) →
       let link := { Link.reset with fastBaud := fast, mode1 := m1, mode0 := m0, cause := cause }
       (m1 = false → m0 = false → exec c s = .next { State.reset with pending := s.pending, link := link })
       ∧ (m1 = true ∨ m0 = true →
           ∃ t : State, exec c s = .next t ∧ t.pending = s.pending ∧ t.inReset = false ∧ t.link = link
             ∧ t.engine = Engine.reset ∧ t.monitor = Monitor.reset ∧ t.motion = Motion.reset
             ∧ t.light = Lighting.reset ∧ t.sound = { Sound.reset with flight := some .image }
             ∧ t.store.tables = Tables.empty ∧ t.store.mode = .loading ∧ t.store.triggersOn = false
             ∧ t.store.attractOn = false ∧ t.store.status = .verifying
             ∧ ∃ ld : Load, t.store.load = some ld ∧ ld.address = 0 ∧ ld.pass = .verify ∧ ld.pos = 0
                 ∧ ld.goal = if m1 then .running (!m0) true else .standby))

/-- R18, R162: SOFT RESET is answered OK outside LOADING. The tables, the request queue behind it, the report queue, the
threshold and the lost mark are kept; the cursor returns to its reset values and the start cause is SOFT_RESET; the show
state is STANDBY with both flags off; no player, claim or pending entry is left; every master and the grand master are
255; every axis is UNHOMED, or in FAULT with cause ESTOP while ESTOP is asserted; every voice is IDLE and every bed OFF;
every base and gated duty is 0, and every staged and active duty is the house level with its mark on a participating
channel while HOUSE is asserted, and else 0 with the mark clear (R101); every zone has its default language; and every
lamp has its initial mode, at the start of its blink and with no flash (R174). -/
def Obligations.SoftResetRestartsThePart : Prop :=
  ∀ (s : State) (rest : List Request), s.RequestNext 0x05 [] rest → s.store.mode ≠ .loading →
    ∃ t : State, exec .softReset s = .next (t.replied 0x05 [0]).finish
      ∧ t.pending = s.pending ∧ t.store.tables = s.store.tables
      ∧ t.link = { s.link with requests := rest, cursor := ⟨0, 0, false⟩, cause := .softReset }
      ∧ t.store.mode = .standby ∧ t.store.triggersOn = false ∧ t.store.attractOn = false
      ∧ t.engine.queue = [] ∧ (∀ p : Fin 8, t.engine.players[p] = none) ∧ t.engine.claims = Claims.reset
      ∧ (∀ sc : Fin 64, t.engine.scenes[sc] =
          ⟨if (s.store.tables.scene sc).enabled then .ready else .disabled, 0, false, none⟩)
      ∧ (∀ c : Fin 48, (t.light.channels[c]).fade = Fade.reset) ∧ (∀ g : Fin 16, t.light.masters[g] = MasterFade.reset)
      ∧ t.light.grand = 255 ∧ t.light.slot = 0 ∧ t.light.hold = 0 ∧ t.light.house = s.light.house
      ∧ (∀ c : Fin 48,
          let r := s.store.tables.channel c
          let duty : Duty := if s.light.house && r.participates then ⟨r.house, true⟩ else ⟨0, false⟩
          (t.light.channels[c]).base = 0 ∧ (t.light.channels[c]).gated = 0
          ∧ (t.light.channels[c]).staged = duty ∧ (t.light.channels[c]).active = duty)
      ∧ (∀ a : Fin 8, (t.motion.axes[a]).homed = false ∧
          if s.motion.estop then (t.motion.axes[a]).state = .fault ∧ (t.motion.axes[a]).cause = some .estop
          else (t.motion.axes[a]).state = .unhomed)
      ∧ (∀ v : Fin 4, (t.sound.voices[v]).state = .idle) ∧ (∀ b : Fin 4, (t.sound.beds[b]).state = .off)
      ∧ (∀ z : Fin 12, (t.monitor.zones[z]).language = (s.store.tables.zone z).language)
      ∧ ∀ b : Fin 16,
          let mode : LampMode := if (s.store.tables.button b).manual then .off else .auto
          (t.monitor.lamps[b]).mode = mode ∧ (t.monitor.lamps[b]).blink = 0 ∧ (t.monitor.lamps[b]).flash = 0
          ∧ (t.monitor.lamps[b]).pattern = mode.pattern (autoPattern t.store t.engine.scenes s.monitor.house.asserted b)

/-- The part right after reset meets every invariant that the statements below say each step keeps. -/
def Obligations.ResetMeetsInvariants : Prop :=
  State.reset.LinkBounded ∧ State.reset.TablesCanonical ∧ State.reset.FlagsOffOutsideShow
  ∧ State.reset.LoadsInLoading ∧ State.reset.QueueOrdered
  ∧ State.reset.ClaimsNamePlayers ∧ State.reset.PlayersOrdered ∧ State.reset.IdleOutsideShow
  ∧ State.reset.ScenesAgree ∧ State.reset.AttractRests ∧ State.reset.FadesBetween ∧ State.reset.FlickerRuns
  ∧ State.reset.SoundBounded ∧ State.reset.WithinSoftLimits ∧ State.reset.HeldAxesStill
  ∧ State.reset.EstopFaultsAxes ∧ State.reset.LanguagesOffered

/-! ### Link Interface -/

/-- Section 10.2 and R182: the bytes of a link frame, received one after another from HUNT with good stop bits, lead to
exactly what the arrival of the frame's kind and payload leads to: no byte of the framing is lost or misread. That the
arrival is made within the step of the check byte, and that ARRIVAL is the same step as a whole, is log entry 15. -/
def Obligations.FramedBytesArrive : Prop :=
  ∀ (s : State) (kind : Byte) (payload : List Byte),
    s.inReset = false → s.link.receiver = Receiver.reset → payload.length ≤ 199 →
    runCommands ((linkFrame kind payload).map fun b => .byteReceived b true) s = exec (.arrival kind payload) s

/-- R182, R183: what a received byte does in each state of the receiver, and the gap timeout. A stop error and a length
byte outside 1 to 200 return it to HUNT; a check byte that does not make the sum 0 discards the frame; one that does makes
it an arrival, within the same step (log entry 15). A gap of more than 5 ms outside HUNT discards the partial frame; in
HUNT GAP_TIMEOUT changes nothing (log entry 6). ARRIVAL leaves the receiver in HUNT (log entry 15). An arrival joins the request queue while
it holds fewer than 4 requests; with 4 waiting it is discarded, and a BUSY reply of its kind with the top bit set joins
the reply list, unless that holds 4 BUSY replies already. -/
def Obligations.ReceiverTakesBytesAndFrames : Prop :=
  (∀ (s : State) (b : Byte), s.inReset = false →
     let x := s.link.receiver
     let become (y : Receiver) : State := { s with link := { s.link with receiver := y } }
     exec (.byteReceived b false) s = .next (become Receiver.reset)
     ∧ (x.state = .hunt →
         exec (.byteReceived b true) s = .next (become (if b = 0x5A then ⟨.length, 0, [], 0⟩ else Receiver.reset)))
     ∧ (x.state = .length →
         exec (.byteReceived b true) s = .next (become
           (if 1 ≤ b.toNat ∧ b.toNat ≤ 200 then ⟨.body, b.toNat, [], b⟩ else Receiver.reset)))
     ∧ (x.state = .body →
         exec (.byteReceived b true) s = .next (become
           ⟨if x.length ≤ x.body.length + 1 then .check else .body, x.length, x.body ++ [b], x.sum + b⟩))
     ∧ (∀ (kind : Byte) (payload : List Byte), x.state = .check → x.body = kind :: payload →
         exec (.byteReceived b true) s = .next
           (if x.sum + b = 0 then (become Receiver.reset).arrive kind payload else become Receiver.reset))
     ∧ (x.state ≠ .hunt → exec .gapTimeout s = .next (become Receiver.reset))
     ∧ (x.state = .hunt → exec .gapTimeout s = .next s))
  ∧ (∀ (s : State) (kind : Byte) (payload : List Byte), s.inReset = false → payload.length ≤ 199 →
       let idle := { s with link := { s.link with receiver := Receiver.reset } }
       (s.link.requests.length < 4 →
         exec (.arrival kind payload) s = .next (State.finishLink
           { idle with link := { idle.link with requests := s.link.requests ++ [⟨kind, payload⟩] } }))
       ∧ (4 ≤ s.link.requests.length → (s.link.replies.filter (·.busy)).length < 4 →
           exec (.arrival kind payload) s = .next (State.finishLink
             { idle with link := { idle.link with replies := s.link.replies ++ [⟨kind ||| 0x80, [6], true⟩] } }))
       ∧ (4 ≤ s.link.requests.length → 4 ≤ (s.link.replies.filter (·.busy)).length →
           exec (.arrival kind payload) s = .next idle.finishLink))

/-- R185: when the transmitter finishes a frame, it begins the oldest reply, which leaves the reply list; with no reply,
the oldest report, which carries the lost mark in byte 0 and clears it (R186); with neither it is idle. -/
def Obligations.TransmitterChoosesNext : Prop :=
  ∀ (s : State) (frame : List Byte), s.inReset = false → s.link.sending = some frame →
    (∀ (r : Reply) (rest : List Reply), s.link.replies = r :: rest →
      exec .transmitEnd s = .next
        { s with link := { s.link with replies := rest, sending := some (linkFrame r.kind r.payload) } })
    ∧ (∀ (r : Report) (rest : List Report), s.link.replies = [] → s.link.reports = r :: rest →
        exec .transmitEnd s = .next
          { s with link := { s.link with
              reports := rest, lost := false,
              sending := some (linkFrame r.kind ((if s.link.lost then 1 else 0) :: r.fields)) } })
    ∧ (s.link.replies = [] → s.link.reports = [] →
        exec .transmitEnd s = .next { s with link := { s.link with sending := none } })

/-- R11, R184, R192: no request is executed while the reply list holds the reply of an executed request, and a command
whose request is not the one in front changes nothing (the model's choice: log entry 3). A request of unknown kind is
answered UNKNOWN with its kind and the top bit, in every show state. In LOADING every request but IDENT, STATUS, QUERY
and TABLE READ is answered WRONG_STATE and has no effect; and a request that is not refused so and whose payload is not
of its kind's length is answered BAD_LENGTH and has no effect. -/
def Obligations.RequestsWaitAndAreChecked : Prop :=
  ((∀ (c : Instr) (s : State), c.requestKind?.isSome = true ∨ c = .unknownRequest → s.inReset = false →
     s.link.replies.any (!·.busy) = true → exec c s = .next s)
   ∧ ∀ (s : State) (kind : Byte) (payload : List Byte) (rest : List Request),
       s.RequestNext kind payload rest → kind.toNat = 0 ∨ 23 < kind.toNat →
       exec .unknownRequest s = .next ((s.took rest).replied kind [1]).finishLink)
  ∧ (∀ (c : Instr) (kind : Byte) (s : State) (payload : List Byte) (rest : List Request),
       c.requestKind? = some kind → s.RequestNext kind payload rest →
       let answered (status : Byte) (t : State) : Prop :=
         t = ((s.took rest).replied kind [status]).finishLink ∨ t = ((s.took rest).replied kind [status]).finish
       (c.answeredInLoading = false → s.store.mode = .loading → ∃ t : State, exec c s = .next t ∧ answered 4 t)
       ∧ (∀ n : Nat, c.payloadLength? = some n → payload.length ≠ n →
           c.answeredInLoading = true ∨ s.store.mode ≠ .loading → ∃ t : State, exec c s = .next t ∧ answered 2 t))
  ∧ ∀ (c : Instr) (kind : Byte) (s : State), c.requestKind? = some kind →
      (∀ r : Request, s.link.requests.head? = some r → r.kind ≠ kind) → exec c s = .next s

/-- R20, R29, R39, R63, R100, R120, R143, R164, R180, R188 to R190: IDENT, STATUS and QUERY are answered OK in every
show state and change nothing. IDENT carries the part number 7240, revision 1, the strap, the two mode pins and the
start cause. STATUS carries the show state and flags, the load status with its cause, the attract cycle, the published
safety inputs, the counts of players and entries, and the report and request queues, with the requests left behind this
one. QUERY carries the record of its selection as it stands: a scene with its holder, a player, the queue with the
arrival counter, the claims, a channel with its output stage, a group, a voice, a bed, an axis, or a zone with the
gallery. A selection or an index outside its range is answered BAD_ARG. Where the rules leave the layout of a field or the
order of a list open, it is the model's choice (log entry 13; for the mode of a lamp log entry 29): so the sensors mapped
to a zone, like the sensors, buttons and lamps of the gallery and the entries of the claims table, come by rising number. -/
def Obligations.InformationIsReported : Prop :=
  ∀ (s : State) (rest : List Request),
    let link (kind : Byte) (fields : List Byte) : State := ((s.took rest).replied kind (0 :: fields)).finishLink
    let m := s.monitor
    let tables := s.store.tables
    let owner (o : GroupOwner) : List Byte := match o with
      | .none => [0xFF] | .direct => [0xFE] | .player p => put8 p
    let player (p : Option (Fin 8)) : List Byte := match p with
      | none => [0xFF] | some p => put8 p
    (s.RequestNext 0x01 [] rest →
      exec .ident s = .next (link 0x01
        ([0x48, 0x1C, 1] ++ putFlag s.link.fastBaud ++ putFlag s.link.mode1 ++ putFlag s.link.mode0
          ++ put8 s.link.cause.code)))
    ∧ (s.RequestNext 0x02 [] rest →
        exec .status s = .next (link 0x02
          (put8 s.store.mode.code ++ putFlag s.store.triggersOn ++ putFlag s.store.attractOn
            ++ (match s.store.status with
                | .none => [0, 0, 0] | .verifying => [1, 0, 0] | .applying => [2, 0, 0] | .done => [3, 0, 0]
                | .failed cause => [4, 1] ++ put8 cause.code)
            ++ putFlag s.store.attractRunning ++ put8 s.light.slot ++ put16 s.light.hold
            ++ putFlag m.house.asserted ++ putFlag m.estop.asserted
            ++ put8 s.engine.running ++ put8 s.engine.queue.length
            ++ put8 s.link.threshold ++ put8 s.link.reports.length ++ putFlag s.link.lost ++ put8 rest.length)))
    ∧ ∀ selection index : Byte, s.RequestNext 0x03 [selection, index] rest →
        let carries (fields : List Byte) : Prop := exec .query s = .next (link 0x03 fields)
        let refused : Prop := exec .query s = .next ((s.took rest).replied 0x03 [3]).finishLink
        (selection = 0 → 64 ≤ index.toNat → refused)
        ∧ (∀ sc : Fin 64, selection = 0 → index.toNat = sc.val →
            let x := s.engine.scenes[sc]
            let record := put8 x.state.code ++ put16 x.cooldown ++ putFlag x.again
            (∀ (p : Fin 8) (r : Run), s.engine.players[p] = some r → r.scene = sc →
              (∀ (q : Fin 8) (y : Run), q < p → s.engine.players[q] = some y → y.scene ≠ sc) →
              carries (record ++ [1] ++ put8 p))
            ∧ ((∀ (p : Fin 8) (r : Run), s.engine.players[p] = some r → r.scene ≠ sc) → carries (record ++ [0, 0])))
        ∧ (selection = 1 → 8 ≤ index.toNat → refused)
        ∧ (∀ p : Fin 8, selection = 1 → index.toNat = p.val →
            (s.engine.players[p] = none → carries (List.replicate 32 0))
            ∧ ∀ r : Run, s.engine.players[p] = some r →
                let phase : List Byte × List Byte × List Byte := match r.phase with
                  | .delaying d => ([1], put16 d, List.replicate 13 0)
                  | .awaiting a => ([2], [0, 0], [1] ++ put8 a.cond.code ++ [a.operand]
                      ++ (match a.timeout with | none => [0, 0, 0] | some n => [1] ++ put16 n) ++ put16 a.target
                      ++ (match a.cond with
                          | .button _ => [1] ++ putFlag a.seen
                          | .voiceDone | .axisDone _ | .axesDone | .zoneClear _ | .zoneOccupied _ => [0, 0])
                      ++ [0, 0, 0])
                  | .blocked => ([3], [0, 0], List.replicate 10 0 ++ [1] ++ put16 r.cue)
                carries (phase.1 ++ [1] ++ put8 r.scene ++ [1] ++ put8 r.priority ++ [1] ++ put8 r.order ++ [1]
                  ++ put16 r.cue ++ [1] ++ phase.2.1 ++ phase.2.2
                  ++ [1] ++ put8 r.loops.length ++ (r.loops.map fun e => put16 e.cue ++ put8 e.count).flatten
                  ++ [1] ++ (match r.voice with | none => [0xFF] | some v => put8 v) ++ [1] ++ put8 r.executed))
        ∧ (selection = 2 → carries (put8 s.engine.queue.length
            ++ (s.engine.queue.map fun e => put8 e.scene ++ put8 e.priority ++ put8 e.source.kindCode
                  ++ put8 e.source.number ++ put16 e.arrival ++ put16 e.patience).flatten
            ++ put16 s.engine.arrivals))
        ∧ (selection = 3 → carries (((List.finRange 16).map fun (g : Fin 16) => owner s.engine.claims.groups[g]).flatten
            ++ ((List.finRange 8).map fun (a : Fin 8) => player s.engine.claims.axes[a]).flatten
            ++ ((List.finRange 4).map fun (v : Fin 4) => player s.engine.claims.voices[v]).flatten
            ++ ((List.finRange 8).map fun (p : Fin 8) => match s.engine.players[p] with
                | none => [0, 0] | some r => [1] ++ put8 r.order).flatten))
        ∧ (selection = 4 → 48 ≤ index.toNat → refused)
        ∧ (∀ c : Fin 48, selection = 4 → index.toNat = c.val →
            let r := tables.channel c
            let x := s.light.channels[c]
            let phase : Option Bool := if s.store.mode = .loading then none else r.carrier.map fun k => s.light.phases[k]
            carries (put8 r.group ++ owner s.engine.claims.groups[r.group]
              ++ put16 x.fade.start ++ put16 x.fade.target ++ put16 x.fade.length ++ put16 x.fade.elapsed
              ++ put8 x.fade.curve.code ++ put16 x.fade.intent ++ put8 s.light.masters[r.group].level
              ++ put8 s.light.grand ++ put16 x.base ++ put16 x.gated ++ put16 x.staged.duty ++ putFlag x.staged.house
              ++ put16 x.active.duty ++ putFlag x.active.house
              ++ (match phase with | some true => [0] | some false => [1] | none => [0xFF])
              ++ put8 (match r.slot with | some k => k.val | none => c.val % 8)
              ++ put8 r.align.code ++ putFlag s.light.house))
        ∧ (selection = 5 → 16 ≤ index.toNat → refused)
        ∧ (∀ g : Fin 16, selection = 5 → index.toNat = g.val →
            let x := s.light.masters[g]
            carries (owner s.engine.claims.groups[g]
              ++ put8 ((List.finRange 48).countP fun c => decide ((tables.channel c).group = g))
              ++ put8 x.start ++ put8 x.target ++ put16 x.length ++ put16 x.elapsed ++ put8 x.level
              ++ put8 s.light.grand))
        ∧ (selection = 6 → 4 ≤ index.toNat → refused)
        ∧ (∀ v : Fin 4, selection = 6 → index.toNat = v.val →
            let x := s.sound.voices[v]
            carries (player s.engine.claims.voices[v] ++ put8 x.state.code
              ++ (match x.clip with | none => [0, 0] | some c => [1] ++ put8 c)
              ++ (match x.variant with | none => [0, 0, 0] | some i => [1] ++ put8 i.1 ++ put8 i.2)
              ++ put8 x.output ++ put32 x.feed.cursor ++ put32 x.feed.left ++ put16 x.feed.buffer.length ++ [255]
              ++ put8 x.fade ++ put16 x.stall
              ++ (match s.sound.flight with
                  | some (.stream n _ _ _) => putFlag (decide (n.val = v.val)) | some .image => [0] | none => [0])))
        ∧ (selection = 7 → 4 ≤ index.toNat → refused)
        ∧ (∀ b : Fin 4, selection = 7 → index.toNat = b.val →
            let x := s.sound.beds[b]
            carries ((match x.clip with | none => [0xFF, 0xFF] | some c => put16 c) ++ put8 x.gain ++ put8 x.duck
              ++ put8 x.state.code ++ put32 x.feed.cursor ++ put32 x.feed.left ++ put16 x.feed.buffer.length
              ++ put8 x.stage ++ put8 x.dir.code ++ put16 x.timer
              ++ put8 (x.gain - (x.gain - x.duck) * x.stage / 7) ++ putFlag (s.sound.speaking b)
              ++ putFlag s.sound.house))
        ∧ (selection = 8 → 8 ≤ index.toNat → refused)
        ∧ (∀ a : Fin 8, selection = 8 → index.toNat = a.val →
            let x := s.motion.axes[a]
            let move (y : Move) : List Byte := putS32 y.target ++ put8 y.profile
            carries (put8 x.state.code ++ putFlag x.homed ++ putS32 x.position ++ put16 x.rate ++ put16 x.acc
              ++ put8 x.dir.code
              ++ (match x.target with | none => List.replicate 5 0 | some t => [1] ++ putS32 t)
              ++ (match x.profile with | none => [0, 0] | some p => [1] ++ put8 p)
              ++ (match x.ending with | none => [0, 0] | some e => [1] ++ put8 e.code)
              ++ (match x.follow with
                  | none => List.replicate 7 0 | some (.move y) => [1, 0] ++ move y
                  | some .home => [1, 1, 0, 0, 0, 0, 0])
              ++ (match x.pendingMove with | none => List.replicate 6 0 | some y => [1] ++ move y)
              ++ (match x.wait with | none => [0, 0, 0] | some w => [1] ++ put16 w)
              ++ (match x.cause with | none => [0, 0] | some cause => [1] ++ put8 cause.code)
              ++ player s.engine.claims.axes[a] ++ putFlag x.homeSwitch ++ putFlag x.limitSwitch
              ++ putFlag (s.motion.house || match (tables.axis a).guard with
                  | none => false | some z => decide ((m.zones[z]).state ≠ .clear))
              ++ putFlag s.motion.house ++ putFlag s.motion.estop))
        ∧ (selection = 9 → 12 ≤ index.toNat → refused)
        ∧ (∀ z : Fin 12, selection = 9 → index.toNat = z.val →
            let x := m.zones[z]
            let mapped := (List.finRange 16).filter fun i => decide ((tables.sensor i).zone = some z)
            carries (put8 x.state.code ++ put16 x.counter ++ putFlag x.raw
              ++ put8 mapped.length ++ (mapped.map fun (i : Fin 16) => put8 i ++ putFlag (m.sensors.getLsbD i)).flatten
              ++ put8 x.language
              ++ ((List.finRange 16).map fun (i : Fin 16) => putFlag (m.sensors.getLsbD i)).flatten
              ++ ((List.finRange 16).map fun (i : Fin 16) => putFlag (m.buttons[i]).pressed).flatten
              ++ ((List.finRange 16).map fun (i : Fin 16) =>
                    (match (m.lamps[i]).mode with | .off => [0] | .on => [1] | .slow => [2] | .fast => [3] | .auto => [0xFF])
                      ++ put8 (m.lamps[i]).pattern.code ++ put16 (m.lamps[i]).flash
                      ++ putFlag (m.lamps[i]).lit).flatten
              ++ putFlag m.house.asserted ++ put8 m.house.count ++ putFlag m.estop.asserted ++ put8 m.estop.count))
        ∧ (10 ≤ selection.toNat → refused)

/-- R187: REPORT LEVEL. In LOADING it is answered WRONG_STATE; a threshold above 3 is answered BAD_ARG and changes
nothing; otherwise the threshold becomes the carried value and the reply carries it with the number of reports queued,
which stay queued. Reports raised afterwards are tested against it, and reports already queued are sent whatever their
level. -/
def Obligations.ReportLevelSetsThreshold : Prop :=
  ∀ (s : State) (n : Byte) (rest : List Request), s.RequestNext 0x04 [n] rest →
    let set : State := { s.took rest with link := { (s.took rest).link with threshold := n.toNat } }
    (s.store.mode = .loading → exec .reportLevel s = .next ((s.took rest).replied 0x04 [4]).finishLink)
    ∧ (s.store.mode ≠ .loading → 3 < n.toNat →
        exec .reportLevel s = .next ((s.took rest).replied 0x04 [3]).finishLink)
    ∧ (s.store.mode ≠ .loading → n.toNat ≤ 3 →
        exec .reportLevel s = .next (set.replied 0x04 (0 :: n :: put8 s.link.reports.length)).finishLink
        ∧ (set.replied 0x04 (0 :: n :: put8 s.link.reports.length)).finishLink.link.reports = s.link.reports
        ∧ (∀ r : Report, r.level < n.toNat → set.raise r = set)
        ∧ (∀ r : Report, n.toNat ≤ r.level → s.link.reports.length < 32 →
            (set.raise r).link.reports = s.link.reports ++ [r]))
    ∧ ∀ (l : Link) (r : Report) (queued : List Report), l.sending = none → l.replies = [] → l.reports = r :: queued →
        l.transmit.reports = queued ∧ l.transmit.sending = some (linkFrame r.kind (putFlag l.lost ++ r.fields))

/-! ### Show Store -/

/-- R8, R9, R111, R134: SHOW MODE with target SHOW, or of an unknown target, or STANDBY in STANDBY. In LOADING it is
answered WRONG_STATE and with a target other than STANDBY (1) and SHOW (2) BAD_ARG. From STANDBY to SHOW the flags are
set as carried and every bed begins; from SHOW to SHOW only the flags are set. In both, attract slot 0 is entered when
the attract cycle comes to run, and the cycle stops when it ceases to. Nothing else changes. -/
def Obligations.ShowModeSetsStateAndFlags : Prop :=
  ∀ (s : State) (target flags : Byte) (rest : List Request), s.RequestNext 0x06 [target, flags] rest →
    let x := s.took rest
    let store := { s.store with mode := .running, triggersOn := flags.getLsbD 0, attractOn := flags.getLsbD 1 }
    let attracts := flags.getLsbD 1 && decide (1 ≤ s.store.tables.slotCount)
    let begun := s.light.enterSlot s.store.tables s.engine.claims 0
    let answered (y : State) (status : Byte) : Prop := exec .showMode s = .next (y.replied 0x06 [status]).finish
    (s.store.mode = .loading → answered x 4)
    ∧ (s.store.mode ≠ .loading → target ≠ 1 → target ≠ 2 → answered x 3)
    ∧ (s.store.mode = .standby → target = 1 → answered x 0)
    ∧ (s.store.mode = .standby → target = 2 →
        answered
          { x with store := store, sound := { s.sound with beds := Vector.ofFn fun b => s.sound.beds[b].begin s.store.tables },
                   light := if attracts then begun else s.light } 0)
    ∧ (s.store.mode = .running → target = 2 →
        answered
          { x with store := store, light :=
              if attracts = s.store.attractRunning then s.light
              else if attracts then begun else { s.light with slot := 0, hold := 0 } } 0)

/-- R9, R10, R21, R34, R65: SHOW MODE from SHOW to STANDBY. Every player is stopped with reason STANDBY, in increasing
player number (the order is log entry 16), with its report; the queue is emptied without reports; the scenes of the queue are READY and those of the
players in COOLDOWN, or READY when their cooldown is 0; the DIRECT groups stay and every other claim is released; the
voices of the players fade out and every bed is OFF; the axes that move, home, stop or are held come to rest; and no
fade, master or duty changes. -/
def Obligations.ShowToStandbyEndsTheShow : Prop :=
  ∀ (s : State) (flags : Byte) (rest : List Request),
    s.RequestNext 0x06 [1, flags] rest → s.store.mode = .running → s.ClaimsNamePlayers →
    ∃ t : State, exec .showMode s = .next (t.replied 0x06 [0]).finish
      ∧ t.pending = s.pending ∧ t.frame = s.frame ∧ t.monitor = s.monitor
      ∧ t.store = { s.store with mode := .standby, triggersOn := false, attractOn := false }
      ∧ t.link = (List.finRange 8).foldl
          (fun (l : Link) (p : Fin 8) => match s.engine.players[p] with
            | some r => l.raise (.sceneEnded r.scene p .standby r.cue)
            | none => l)
          (s.took rest).link
      ∧ t.engine.queue = [] ∧ t.engine.arrivals = s.engine.arrivals
      ∧ (∀ p : Fin 8, t.engine.players[p] = none)
      ∧ (∀ e ∈ s.engine.queue, t.engine.scenes[e.scene] = ⟨.ready, 0, false, none⟩)
      ∧ (∀ (p : Fin 8) (r : Run), s.engine.players[p] = some r → (∀ e ∈ s.engine.queue, e.scene ≠ r.scene) →
          t.engine.scenes[r.scene] =
            if (s.store.tables.scene r.scene).cooldown = 0 then ⟨.ready, 0, false, none⟩
            else ⟨.cooldown, (s.store.tables.scene r.scene).cooldown, false, s.frame⟩)
      ∧ (∀ g : Fin 16, t.engine.claims.groups[g] = if s.engine.claims.groups[g] = .direct then .direct else .none)
      ∧ (∀ a : Fin 8, t.engine.claims.axes[a] = none) ∧ (∀ v : Fin 4, t.engine.claims.voices[v] = none)
      ∧ t.light = (if s.store.attractRunning then { s.light with slot := 0, hold := 0 } else s.light)
      ∧ (∀ v : Fin 4, t.sound.voices[v] =
          if (s.engine.claims.voices[v]).isSome then (s.sound.voices[v]).fadeOut else s.sound.voices[v])
      ∧ (∀ b : Fin 4, (t.sound.beds[b]).state = .off ∧ (t.sound.beds[b]).stage = 0)
      ∧ ∀ a : Fin 8, (t.motion.axes[a]).position = (s.motion.axes[a]).position
          ∧ match (s.motion.axes[a]).state with
            | .moving | .homing | .stopping => (t.motion.axes[a]).state = .stopping
                ∧ (t.motion.axes[a]).ending = some .idle ∧ (t.motion.axes[a]).rate = (s.motion.axes[a]).rate
            | .held => (t.motion.axes[a]).state = .idle
            | .idle | .unhomed | .fault => t.motion.axes[a] = s.motion.axes[a]

/-- R11, R14, R96, R132, R162: LOAD IMAGE. Outside STANDBY it is answered WRONG_STATE, and an address above 67,108,863
BAD_ARG. Otherwise it is answered OK and the part is in LOADING with the load status VERIFYING and the verify pass at
the start of the image; the tables, the engine and the zones keep what they hold, the fades, the masters and the grand
master take their reset values, every voice is IDLE, and no axis moves or homes on. -/
def Obligations.LoadImageBeginsTheLoad : Prop :=
  ∀ (s : State) (a b c d : Byte) (rest : List Request), s.RequestNext 0x07 [a, b, c, d] rest →
    let address := a.toNat + 256 * b.toNat + 65536 * c.toNat + 16777216 * d.toNat
    (s.store.mode ≠ .standby → exec .loadImage s = .next ((s.took rest).replied 0x07 [4]).finish)
    ∧ (s.store.mode = .standby → 67108863 < address →
        exec .loadImage s = .next ((s.took rest).replied 0x07 [3]).finish)
    ∧ (s.store.mode = .standby → address ≤ 67108863 →
        ∃ t : State, exec .loadImage s = .next (t.replied 0x07 [0]).finish
          ∧ t.pending = s.pending ∧ t.link = (s.took rest).link ∧ t.engine = s.engine ∧ t.monitor = s.monitor
          ∧ t.store.tables = s.store.tables ∧ t.store.mode = .loading ∧ t.store.triggersOn = false
          ∧ t.store.attractOn = false ∧ t.store.status = .verifying
          ∧ (∃ ld : Load, t.store.load = some ld ∧ ld.address = address ∧ ld.pass = .verify ∧ ld.pos = 0
              ∧ ld.goal = .standby)
          ∧ (∀ ch : Fin 48, (t.light.channels[ch]).fade = Fade.reset
              ∧ (t.light.channels[ch]).staged = (s.light.channels[ch]).staged)
          ∧ (∀ g : Fin 16, t.light.masters[g] = MasterFade.reset) ∧ t.light.grand = 255
          ∧ (∀ v : Fin 4, (t.sound.voices[v]).state = .idle)
          ∧ ∀ ax : Fin 8, (t.motion.axes[ax]).state ≠ .moving ∧ (t.motion.axes[ax]).state ≠ .homing
              ∧ (t.motion.axes[ax]).state ≠ .held)

/-- R13, R15, R16: the verify pass, read whole from its start in one image read (how many bytes one image read brings is
the model's choice: log entry 9). An image whose tag is OD72, whose total length is its own and fits its flash chip,
whose section count is 1 to 32, whose CRC matches and which holds at least one descriptor is applied when its last byte
has been read: every table then holds its empty records, the load status is APPLYING and the apply pass stands at the
first section. Of the checks, in this order, the first that fails ends the load with its cause: TAG, LENGTH, COUNT, CRC;
and OVERRUN with section 0 when no descriptor fits behind the header. The tables are then empty, the show state is
STANDBY, and LOAD_FAILED carries the cause and the image address. With no image read in flight, IMAGE_READ_COMPLETE
changes nothing (log entry 9). -/
def Obligations.VerifiedImageIsApplied : Prop :=
  (∀ (s : State) (ld : Load) (image : List Byte),
     s.inReset = false → s.sound.flight = some .image → s.store.load = some ld →
     ld.pass = .verify → ld.header = [] → ld.pos = 0 → ld.crc = 0xFFFF →
     let total := get32 image 4
     let count := get16 image 8
     let tagged := image.take 4 = [0x4F, 0x44, 0x37, 0x32]
     let fits := 12 ≤ total ∧ ld.address % 16777216 + total ≤ 16777216
     let counted := 1 ≤ count ∧ count ≤ 32
     let matched := (crc16 ((image.take total).drop 12)).toNat = get16 image 10
     let fails (cause : LoadCause) (sect : Option Nat) : Prop :=
       ∃ t : State, exec (.imageReadComplete image) s = .next t.finish
         ∧ t.store.load = none ∧ t.store.status = .failed cause ∧ t.store.tables = Tables.empty
         ∧ t.store.mode = .standby ∧ t.store.triggersOn = false ∧ t.store.attractOn = false
         ∧ t.link = s.link.raise (.loadFailed cause ld.address sect none)
     (4 ≤ image.length → ¬ tagged → fails .tag none)
     ∧ (8 ≤ image.length → tagged → ¬ fits → fails .length none)
     ∧ (10 ≤ image.length → tagged → fits → ¬ counted → fails .count none)
     ∧ (12 ≤ image.length → total ≤ image.length → tagged → fits → counted → ¬ matched → fails .crc none)
     ∧ (12 ≤ image.length → total ≤ image.length → tagged → fits → counted → matched → total < 17 →
         fails .overrun (some 0))
     ∧ (17 ≤ image.length → total = image.length → tagged → fits → counted → matched →
         ∃ t : State, exec (.imageReadComplete image) s = .next t
           ∧ t.store.tables = Tables.empty ∧ t.store.status = .applying ∧ t.store.mode = s.store.mode
           ∧ ∃ after : Load, t.store.load = some after ∧ after.pass = .apply ∧ after.pos = 12 ∧ after.sect = 0
               ∧ after.table = none ∧ after.part = [] ∧ after.address = ld.address ∧ after.goal = ld.goal
               ∧ get32 after.header 4 = total ∧ get16 after.header 8 = count))
  ∧ ∀ (s : State) (data : List Byte), s.inReset = false → s.sound.flight ≠ some .image ∨ s.store.load = none →
      exec (.imageReadComplete data) s = .next s

/-- R3, R16, R17: the apply pass takes a section, its descriptor with its records, in one image read (how many bytes one
read brings is the model's choice: log entry 9). A table id above 13 fails the load with TABLE; entries beyond the table,
or a descriptor or records beyond the image, with OVERRUN; a record that R3 refuses with ENTRY and its entry; and bytes
left after the last section with LENGTH. Otherwise its records are stored one after another, and the next section
begins, or, with no bytes left, the load is DONE with LOAD_DONE and ends in the show state of its goal. What the two
ends of a load leave: a failure empties every table, holds its cause, queues LOAD_FAILED and leaves the part in STANDBY;
a success is DONE with LOAD_DONE, in STANDBY or in SHOW with the flags of its goal. After either no load goes on, every
scene is as its record says and every zone has its default language. -/
def Obligations.LoadEndsByItsOutcome : Prop :=
  (∀ (s : State) (ld : Load),
    let settled (t : State) : Prop :=
      t.store.load = none
      ∧ (∀ sc : Fin 64, t.engine.scenes[sc] =
          ⟨if (t.store.tables.scene sc).enabled then .ready else .disabled, 0, false, none⟩)
      ∧ ∀ z : Fin 12, (t.monitor.zones[z]).language = (t.store.tables.zone z).language
    (∀ (cause : LoadCause) (sect entry : Option Nat),
      let t := s.loadFails ld cause sect entry
      settled t ∧ t.store.tables = Tables.empty ∧ t.store.status = .failed cause ∧ t.store.mode = .standby
      ∧ t.store.triggersOn = false ∧ t.store.attractOn = false
      ∧ t.link = s.link.raise (.loadFailed cause ld.address sect entry))
    ∧ (let t := s.loadSucceeds ld
       settled t ∧ t.store.tables = s.store.tables ∧ t.store.status = .done
       ∧ t.link = s.link.raise (.loadDone ld.address (get16 ld.header 8))
       ∧ (ld.goal = .standby → t.store.mode = .standby ∧ t.store.triggersOn = false ∧ t.store.attractOn = false)
       ∧ ∀ triggers attract : Bool, ld.goal = .running triggers attract →
           t.store.mode = .running ∧ t.store.triggersOn = triggers ∧ t.store.attractOn = attract))
  ∧ ∀ (s : State) (ld : Load) (bytes : List Byte),
      s.inReset = false → s.sound.flight = some .image → s.store.load = some ld →
      ld.pass = .apply → ld.table = none → ld.part = [] → 5 ≤ bytes.length →
      let total := get32 ld.header 4
      let sections := get16 ld.header 8
      let start := get16 bytes 1
      let count := get16 bytes 3
      let becomes (t : State) : Prop := exec (.imageReadComplete bytes) s = .next t.finish
      let fails (cause : LoadCause) (sect entry : Option Nat) : Prop :=
        ∃ t : State, becomes t ∧ t.store.load = none ∧ t.store.status = .failed cause
          ∧ t.store.tables = Tables.empty ∧ t.store.mode = .standby
          ∧ t.link = s.link.raise (.loadFailed cause ld.address sect entry)
      (14 ≤ byteAt bytes 0 → fails .table (some ld.sect) none)
      ∧ ∀ table : Fin 14, byteAt bytes 0 = table.val →
          let size := recordSize table
          let record (k : Nat) : List Byte := (bytes.drop (5 + k * size)).take size
          let stops := ld.pos + 5 + count * size
          (tableEntries table < start + count ∨ total < stops → fails .overrun (some ld.sect) none)
          ∧ ∀ tabs : Nat → Tables, start + count ≤ tableEntries table → stops ≤ total → tabs 0 = s.store.tables →
              let stored (k : Nat) : Prop :=
                ∀ j : Nat, j < k → (tabs j).storeEntry? table (start + j) (record j) = some (tabs (j + 1))
              (∀ k : Nat, k < count → 5 + (k + 1) * size ≤ bytes.length → stored k →
                (tabs k).storeEntry? table (start + k) (record k) = none →
                fails .entry (some ld.sect) (some (start + k)))
              ∧ (bytes.length = 5 + count * size → stored count →
                  (ld.sect + 1 < sections → total < stops + 5 → fails .overrun (some (ld.sect + 1)) none)
                  ∧ (ld.sect + 1 < sections → stops + 5 ≤ total →
                      ∃ (t : State) (after : Load), becomes t ∧ t.store.tables = tabs count ∧ t.link = s.link
                        ∧ t.store.mode = s.store.mode ∧ t.store.status = s.store.status
                        ∧ t.store.load = some after ∧ after.pass = .apply ∧ after.header = ld.header
                        ∧ after.address = ld.address ∧ after.goal = ld.goal ∧ after.pos = stops
                        ∧ after.sect = ld.sect + 1 ∧ after.table = none ∧ after.part = [])
                  ∧ (sections ≤ ld.sect + 1 → stops < total → fails .length (some sections) none)
                  ∧ (sections ≤ ld.sect + 1 → stops = total →
                      ∃ t : State, becomes t ∧ t.store.tables = tabs count ∧ t.store.load = none
                        ∧ t.store.status = .done ∧ t.link = s.link.raise (.loadDone ld.address sections)
                        ∧ (ld.goal = .standby → t.store.mode = .standby)
                        ∧ ∀ triggers attract : Bool, ld.goal = .running triggers attract →
                            t.store.mode = .running ∧ t.store.triggersOn = triggers ∧ t.store.attractOn = attract))

/-- R5, R7, R192: TABLE OPEN and TABLE READ. TABLE OPEN in LOADING is answered WRONG_STATE; a table id above 13 or an
index at or beyond the table's entry count is answered BAD_ARG and leaves the cursor; otherwise the cursor takes the
three values (the flag byte's bit 0 is auto-increment: log entry 13). TABLE READ, in every show state, answers a count of
0 with BAD_ARG; otherwise the reply carries the records from the cursor index on, as many as were requested, but no more
than are left in the table and than fit in a reply, and the cursor advances by the count when auto-increment is on. -/
def Obligations.TableOpenAndReadUseTheCursor : Prop :=
  (∀ (s : State) (id low high flags : Byte) (rest : List Request), s.RequestNext 0x08 [id, low, high, flags] rest →
     let index := low.toNat + 256 * high.toNat
     let answered (y : State) (status : Byte) : Prop := exec .tableOpen s = .next (y.replied 0x08 [status]).finishLink
     (s.store.mode = .loading → answered (s.took rest) 4)
     ∧ (s.store.mode ≠ .loading → 14 ≤ id.toNat → answered (s.took rest) 3)
     ∧ ∀ table : Fin 14, s.store.mode ≠ .loading → id.toNat = table.val →
         (tableEntries table ≤ index → answered (s.took rest) 3)
         ∧ (index < tableEntries table →
             answered { s.took rest with
               link := { (s.took rest).link with cursor := ⟨table, index, flags.getLsbD 0⟩ } } 0))
  ∧ (∀ (s : State) (requested : Byte) (rest : List Request), s.RequestNext 0x0A [requested] rest →
       let c := s.link.cursor
       let n := min (min requested.toNat (tableEntries c.table - c.index)) (197 / recordSize c.table)
       let records := ((List.range n).map fun k => s.store.tables.putEntry c.table (c.index + k)).flatten
       let cursor := { c with index := if c.auto then c.index + n else c.index }
       (requested = 0 → exec .tableRead s = .next ((s.took rest).replied 0x0A [3]).finishLink)
       ∧ (requested ≠ 0 →
           exec .tableRead s = .next (State.finishLink
             (State.replied { s.took rest with link := { (s.took rest).link with cursor := cursor } } 0x0A
               (0 :: put8 n ++ records)))))

/-- R3, R6, R21, R133, R157, R170, R174: TABLE WRITE. A payload that is not a whole, nonzero number of the records of the
cursor's table is answered BAD_LENGTH, and outside STANDBY the reply is WRONG_STATE. In STANDBY the records go to the
entries from the cursor on, one after another, until all are stored (OK), or one is refused or would go beyond the table
(BAD_ARG); the reply carries the count stored, by which the cursor advances when auto-increment is on. A stored scene
record sets its scene's state, a bed record its bed's clip and levels, a zone record its zone's language, a button record
its lamp's initial mode; and an axis record takes the homing of an axis outside its new limits, and acts on its hold
condition, by the axis's state (R159, R160); that the new limits act first and the change of the hold condition after
them is the model's reading (DEDUCED: log entry 19). Nothing else but the tables changes: no player, claim, fade, voice
or waiting trigger. -/
def Obligations.TableWriteStoresTheRecord : Prop :=
  (∀ (x : Axis) (r : AxisRec), x.ActsOnHolds r)
  ∧ ∀ (s : State) (payload : List Byte) (rest : List Request), s.RequestNext 0x09 payload rest →
    let c := s.link.cursor
    let size := recordSize c.table
    let n := payload.length / size
    let record (k : Nat) : List Byte := (payload.drop (k * size)).take size
    let answered (y : State) (reply : List Byte) : Prop := exec .tableWrite s = .next (y.replied 0x09 reply).finishLink
    (s.store.mode ≠ .loading → payload = [] ∨ payload.length % size ≠ 0 → answered (s.took rest) [2])
    ∧ (s.store.mode ≠ .standby → payload ≠ [] → payload.length % size = 0 → answered (s.took rest) [4])
    ∧ ∀ (tabs : Nat → Tables) (k : Nat),
        s.store.mode = .standby → payload ≠ [] → payload.length % size = 0 → k ≤ n → tabs 0 = s.store.tables →
        (∀ j : Nat, j < k → c.index + j < tableEntries c.table
          ∧ (tabs j).storeEntry? c.table (c.index + j) (record j) = some (tabs (j + 1))) →
        let written (i : Nat) : Prop := c.index ≤ i ∧ i < c.index + k
        let wrote (status : Byte) : Prop :=
          ∃ t : State, answered t (status :: put8 k) ∧ t.pending = s.pending ∧ t.frame = s.frame
            ∧ t.store = { s.store with tables := tabs k }
            ∧ t.link = { (s.took rest).link with
                cursor := { c with index := if c.auto then c.index + k else c.index } }
            ∧ { t.engine with scenes := s.engine.scenes } = s.engine ∧ t.light = s.light
            ∧ { t.sound with beds := s.sound.beds } = s.sound
            ∧ { t.monitor with zones := s.monitor.zones, lamps := s.monitor.lamps } = s.monitor
            ∧ { t.motion with axes := s.motion.axes } = s.motion
            ∧ (∀ sc : Fin 64,
                let was := s.engine.scenes[sc]
                (c.table = 0 ∧ written sc → t.engine.scenes[sc] =
                  if ((tabs k).scene sc).enabled = false then ⟨.disabled, 0, false, none⟩
                  else if was.state = .disabled then ⟨.ready, 0, false, none⟩ else was)
                ∧ (¬ (c.table = 0 ∧ written sc) → t.engine.scenes[sc] = was))
            ∧ (∀ b : Fin 4,
                let r := (tabs k).bed b
                let was := s.sound.beds[b]
                (c.table = 9 ∧ written b →
                  t.sound.beds[b] = { was with clip := r.clip, gain := r.gain, duck := r.duck })
                ∧ (¬ (c.table = 9 ∧ written b) → t.sound.beds[b] = was))
            ∧ (∀ z : Fin 12,
                let was := s.monitor.zones[z]
                (c.table = 10 ∧ written z →
                  t.monitor.zones[z] = { was with language := ((tabs k).zone z).language })
                ∧ (¬ (c.table = 10 ∧ written z) → t.monitor.zones[z] = was))
            ∧ (∀ b : Fin 16,
                let r := (tabs k).button b
                let was := s.monitor.lamps[b]
                let auto : Pattern := match r.function with | .language _ => .on | .scene => .off
                (c.table = 11 ∧ written (16 + b) → t.monitor.lamps[b] =
                  { was with mode := if r.manual then .off else .auto, pattern := if r.manual then .off else auto,
                             blink := 0, flash := 0 })
                ∧ (¬ (c.table = 11 ∧ written (16 + b)) → t.monitor.lamps[b] = was))
            ∧ (∀ a : Fin 8,
                let r := (tabs k).axis a
                let was := s.motion.axes[a]
                let limited : Axis :=
                  if was.homed = true ∧ (was.position < r.minPos ∨ r.maxPos < was.position) then
                    { was with state := .unhomed, homed := false, rate := 0, acc := 0, target := none, profile := none,
                               ending := none, follow := none, pendingMove := none, wait := none, cause := none }
                  else was
                let present (guard : Option (Fin 12)) : Bool := s.motion.house || match guard with
                  | none => false
                  | some z => decide ((s.monitor.zones[z]).state ≠ .clear)
                let before := present (s.store.tables.axis a).guard
                let after := present r.guard
                (c.table = 12 ∧ written a → t.motion.axes[a] =
                  if before = after then limited
                  else if after then limited.holdBegins
                  else if limited.state = .held then limited.startWait r else limited)
                ∧ (¬ (c.table = 12 ∧ written a) → t.motion.axes[a] = was))
        (k = n → wrote 0)
        ∧ (k < n → tableEntries c.table ≤ c.index + k
              ∨ (tabs k).storeEntry? c.table (c.index + k) (record k) = none → wrote 3)

/-- R3, R4, R7, R191: what is stored reads back. The bytes that TABLE READ returns for an entry to which a record of
any of the fourteen tables has been stored are themselves a record that the check accepts, and storing them again
changes nothing. -/
def Obligations.StoredRecordsReadBack : Prop :=
  ∀ (t u : Tables) (table : Fin 14) (i : Nat) (record : List Byte),
    t.storeEntry? table i record = some u → u.storeEntry? table i (u.putEntry table i) = some u

/-! ### Scene Engine: triggers, admission and the pending queue -/

/-- R23, R24, R36: TRIGGER where no admission is made. Outside SHOW it is answered WRONG_STATE, and an index above 63
BAD_ARG. Otherwise the reply carries the outcome and the scene's state: HOUSE (9) while HOUSE is asserted, DISABLED (7),
ALREADY_PENDING (2), COOLDOWN (6), and for a RUNNING scene IGNORED (3), or QUEUED_AGAIN (5) with the again flag set. Of
these only QUEUED_AGAIN changes anything. -/
def Obligations.TriggerWithoutAdmissionIsAnswered : Prop :=
  ∀ (s : State) (n : Byte) (rest : List Request), s.RequestNext 0x0B [n] rest →
    let x := s.took rest
    let answered (y : State) (reply : List Byte) : Prop := exec .trigger s = .next (y.replied 0x0B reply).finishLink
    (s.store.mode ≠ .running → answered x [4])
    ∧ (s.store.mode = .running → 64 ≤ n.toNat → answered x [3])
    ∧ ∀ sc : Fin 64, s.store.mode = .running → n.toNat = sc.val →
        let run := s.engine.scenes[sc]
        let r := s.store.tables.scene sc
        (s.engine.house = true → answered x ([0, 9] ++ put8 run.state.code))
        ∧ (s.engine.house = false → r.enabled = false → answered x ([0, 7] ++ put8 run.state.code))
        ∧ (s.engine.house = false → r.enabled = true →
            (run.state = .pending → answered x [0, 2, 2])
            ∧ (run.state = .cooldown → answered x [0, 6, 4])
            ∧ (run.state = .running → r.retrigger = .ignore → answered x [0, 3, 3])
            ∧ (run.state = .running → r.retrigger = .queue → run.again = true → answered x [0, 3, 3])
            ∧ (run.state = .running → r.retrigger = .queue → run.again = false →
                answered { x with engine := { s.engine with
                  scenes := s.engine.scenes.set sc { run with again := true } } } [0, 5, 3]))

/-- R25 to R27, R41, R64, R70: TRIGGER of an enabled READY scene whose groups and axes are all unowned, with a FREE
player and, when it narrates, an unowned IDLE voice. The scene is RUNNING on the lowest-numbered FREE player, which has
claimed its whole resource set, with the lowest-numbered such voice, and stands at the first cue with its delay;
SCENE_STARTED is queued and the outcome is STARTED. Nothing else changes: no other player stops. R24, R73: TRIGGER of a
RUNNING scene with retrigger RESTART stops its player with reason RESTARTED and admits the scene again within the one
trigger (outcome RESTARTED): with nothing waiting and what it needs its own, it starts again, and what it needs passes
on without a return to attract; kept out by a group in direct control, it becomes PENDING or is dropped, and rests. -/
def Obligations.AdmittedSceneStarts : Prop :=
  ∀ (s : State) (n : Byte) (rest : List Request) (sc : Fin 64) (p : Fin 8),
    s.RequestNext 0x0B [n] rest → n.toNat = sc.val → s.store.mode = .running → s.engine.house = false →
    let r := s.store.tables.scene sc
    let x := s.took rest
    let answered (y : State) (reply : List Byte) : Prop := exec .trigger s = .next (y.replied 0x0B reply).finishLink
    r.enabled = true →
    (∀ voice : Option (Fin 4), (s.engine.scenes[sc]).state = .ready → x.Startable sc p voice →
      ∃ t : State, answered t [0, 0, 3] ∧ x.Starts t sc .link p voice s.engine.queue)
    ∧ ∀ run : Run, (s.engine.scenes[sc]).state = .running → r.retrigger = .restart →
        s.engine.players[p] = some run → run.scene = sc →
        (∀ (q : Fin 8) (y : Run), q < p → s.engine.players[q] = some y → y.scene ≠ sc) →
        (∀ (q : Fin 8) (voice : Option (Fin 4)), x.Readmissible p run q voice →
          ∃ t : State, answered t [0, 4, 3] ∧ x.Restarts t p run .restarted .link q voice)
        ∧ (s.engine.queue = [] → x.ShutOut sc →
            ∃ t u : State, x.StopsPlayer u p run .restarted ∧ u.WaitsOrDrops t sc .link
              ∧ answered t ([0, 4] ++
                  (if r.patience ≠ 0 then [2] else if r.cooldown = 0 then [1] else [4])))

/-- R25, R70, R71: the players that the admission of an admissible scene stops, in increasing player number, are all of
lower priority; among them is every player that owns a group, an axis or the voice that the scene needs; and when nobody
owns any of these and no player is FREE, there is exactly one, which has the lowest priority and among those the lowest
start order. R72, R78: TRIGGER of such a scene, with nothing waiting and no again flag set, stops them with reason
PREEMPTED in that order, each with its report; the scene then starts on the lowest-numbered FREE player, and its report
follows theirs; their scenes rest, and the groups they leave unowned return to attract. -/
def Obligations.PreemptionTakesFromLowerPriorities : Prop :=
  (∀ (s : State) (sc : Fin 64), s.admissible sc = true →
    let r := s.store.tables.scene sc
    let voice := if r.narration then s.chooseVoice r.priority else none
    let stopped := s.preempted sc voice
    stopped.Pairwise (· < ·)
    ∧ (∀ p ∈ stopped, ∃ x : Run, s.engine.players[p] = some x ∧ x.priority < r.priority)
    ∧ (∀ p : Fin 8, (s.engine.players[p]).isSome = true →
        ((∃ g : Fin 16, r.groupMask.getLsbD g = true ∧ s.engine.claims.groups[g] = .player p)
          ∨ (∃ a : Fin 8, r.axisMask.getLsbD a = true ∧ s.engine.claims.axes[a] = some p)
          ∨ ∃ v : Fin 4, voice = some v ∧ s.engine.claims.voices[v] = some p) → p ∈ stopped)
    ∧ ((∀ p : Fin 8, (s.engine.players[p]).isSome = true ∧ s.engine.ownsNeeded r voice p = false) →
        ∃ (p : Fin 8) (x : Run), stopped = [p] ∧ s.engine.players[p] = some x
          ∧ ∀ (q : Fin 8) (y : Run), s.engine.players[q] = some y →
              x.priority < y.priority ∨ (x.priority = y.priority ∧ x.order ≤ y.order)))
  ∧ ∀ (s : State) (n : Byte) (rest : List Request) (sc : Fin 64) (p : Fin 8),
      s.RequestNext 0x0B [n] rest → n.toNat = sc.val → s.store.mode = .running → s.engine.house = false →
      let r := s.store.tables.scene sc
      let voice := if r.narration then s.chooseVoice r.priority else none
      let stopped := s.preempted sc voice
      r.enabled = true → (s.engine.scenes[sc]).state = .ready → s.admissible sc = true → stopped ≠ [] →
      s.engine.queue = [] → s.engine.estop = false ∨ r.axisMask = 0 →
      (∀ q ∈ stopped, ∀ y : Run, s.engine.players[q] = some y →
        y.scene ≠ sc ∧ (s.engine.scenes[y.scene]).again = false) →
      s.engine.players[p] = none ∨ p ∈ stopped →
      (∀ q : Fin 8, q < p → (s.engine.players[q]).isSome = true ∧ q ∉ stopped) →
      ∃ t : State, exec .trigger s = .next (t.replied 0x0B [0, 0, 3]).finishLink
        ∧ { t with link := s.link, engine := s.engine, light := s.light, sound := s.sound, motion := s.motion } = s
        ∧ t.link = (stopped.foldl
            (fun (l : Link) (q : Fin 8) => match s.engine.players[q] with
              | some y => l.raise (.sceneEnded y.scene q .preempted y.cue)
              | none => l)
            (s.took rest).link).raise (.sceneStarted sc p r.priority .link)
        ∧ { t.engine with
            scenes := s.engine.scenes, players := s.engine.players, claims := s.engine.claims } = s.engine
        ∧ t.engine.scenes[sc] = ⟨.running, 0, false, none⟩
        ∧ (∀ q ∈ stopped, ∀ y : Run, s.engine.players[q] = some y → t.engine.scenes[y.scene] = s.restOf y.scene)
        ∧ (∀ other : Fin 64, other ≠ sc →
            (∀ q ∈ stopped, ∀ y : Run, s.engine.players[q] = some y → y.scene ≠ other) →
            t.engine.scenes[other] = s.engine.scenes[other])
        ∧ t.engine.players[p] = some (s.freshRun sc voice (s.engine.running - stopped.length + 1))
        ∧ (∀ q ∈ stopped, q ≠ p → t.engine.players[q] = none)
        ∧ (∀ q : Fin 8, q ≠ p → q ∉ stopped → ∃ order : Nat,
            t.engine.players[q] = (s.engine.players[q]).map fun y => { y with order := order })
        ∧ (∀ g : Fin 16, t.engine.claims.groups[g] =
            if r.groupMask.getLsbD g then .player p
            else if stopped.any fun q => decide (s.engine.claims.groups[g] = .player q) then .none
            else s.engine.claims.groups[g])
        ∧ (∀ a : Fin 8, t.engine.claims.axes[a] =
            if r.axisMask.getLsbD a then some p
            else if stopped.any fun q => decide (s.engine.claims.axes[a] = some q) then none
            else s.engine.claims.axes[a])
        ∧ (∀ v : Fin 4, t.engine.claims.voices[v] =
            if voice = some v then some p
            else if stopped.any fun q => decide (s.engine.claims.voices[v] = some q) then none
            else s.engine.claims.voices[v])
        ∧ s.ReturnsGroups t.light (fun g =>
            r.groupMask.getLsbD g = false ∧ ∃ q ∈ stopped, s.engine.claims.groups[g] = .player q)
        ∧ { t.sound with voices := s.sound.voices } = s.sound
        ∧ (∀ v : Fin 4, t.sound.voices[v] =
            if stopped.any fun q => decide (s.engine.claims.voices[v] = some q) then (s.sound.voices[v]).fadeOut
            else s.sound.voices[v])
        ∧ { t.motion with axes := s.motion.axes } = s.motion
        ∧ ∀ a : Fin 8, t.motion.axes[a] =
            if stopped.any fun q => decide (s.engine.claims.axes[a] = some q) then (s.motion.axes[a]).stopRequest
            else s.motion.axes[a]

/-- R28 to R30: TRIGGER of an enabled READY scene that is not admissible. With patience 0 it is dropped with NO_WAIT.
Otherwise it waits: with fewer than 16 entries it goes directly behind every entry of an equal or higher priority that
precedes the first of a lower one, with its patience and the arrival number, and is PENDING; with 16 entries the last
entry is first evicted when its priority is lower, and otherwise the scene is dropped with FULL. -/
def Obligations.UnadmittedSceneWaitsOrIsDropped : Prop :=
  ∀ (s : State) (n : Byte) (rest : List Request) (sc : Fin 64),
    s.RequestNext 0x0B [n] rest → n.toNat = sc.val → s.store.mode = .running → s.engine.house = false →
    let r := s.store.tables.scene sc
    r.enabled = true → (s.engine.scenes[sc]).state = .ready → s.admissible sc = false →
    let x := s.took rest
    let e : Entry := ⟨sc, r.priority, .link, s.engine.arrivals, r.patience, s.frame⟩
    let answered (y : State) (reply : List Byte) : Prop := exec .trigger s = .next (y.replied 0x0B reply).finishLink
    let waits (scenes : Vector SceneRun 64) (link : Link) (queue : List Entry) : Prop :=
      ∃ front back : List Entry, queue = front ++ back
        ∧ (∀ y ∈ front, e.priority ≤ y.priority) ∧ (∀ y : Entry, back.head? = some y → y.priority < e.priority)
        ∧ answered
            { x with link := link, engine := { s.engine with
                queue := front ++ e :: back, arrivals := (s.engine.arrivals + 1) % 65536,
                scenes := scenes.set sc ⟨.pending, 0, false, none⟩ } } [0, 1, 2]
    (r.patience = 0 → answered { x with link := x.link.raise (.triggerDropped sc .noWait .link) } [0, 8, 1])
    ∧ (r.patience ≠ 0 → s.engine.queue.length < 16 → waits s.engine.scenes x.link s.engine.queue)
    ∧ (∀ (last : Entry) (others : List Entry), r.patience ≠ 0 → 16 ≤ s.engine.queue.length →
        s.engine.queue = others ++ [last] →
        (last.priority < r.priority →
          waits (s.engine.scenes.set last.scene ⟨.ready, 0, false, none⟩)
            (x.link.raise (.triggerDropped last.scene .evicted last.source)) others)
        ∧ (r.priority ≤ last.priority →
            answered { x with link := x.link.raise (.triggerDropped sc .full .link) } [0, 8, 1]))

/-- R34, R37, R40, R57, R65: CANCEL. An index above 63 is answered BAD_ARG. A PENDING scene leaves the queue with its report
and is READY (result REMOVED); with an empty queue behind it, the player of a RUNNING scene stops with reason CANCELLED: its
report is queued, its voice fades out, its axes have a stop request, its claims are released, its groups return to
attract where the cycle runs and they are attract-enabled (R78), the start orders close up, and the scene is in COOLDOWN,
or READY when its cooldown is 0, with the again flag clear (result STOPPED); any other scene is left (result NONE, coded 0xFF: log entry 13). -/
def Obligations.CancelRemovesOrStops : Prop :=
  ∀ (s : State) (n : Byte) (rest : List Request), s.RequestNext 0x0C [n] rest →
    let x := s.took rest
    let answered (y : State) (reply : List Byte) : Prop := exec .cancel s = .next (y.replied 0x0C reply).finishLink
    (s.store.mode = .loading → answered x [4])
    ∧ (s.store.mode ≠ .loading → 64 ≤ n.toNat → answered x [3])
    ∧ ∀ sc : Fin 64, s.store.mode ≠ .loading → n.toNat = sc.val →
        let run := s.engine.scenes[sc]
        (run.state = .ready ∨ run.state = .cooldown ∨ run.state = .disabled → answered x [0, 0xFF])
        ∧ (∀ (front back : List Entry) (e : Entry), run.state = .pending → s.engine.queue = front ++ e :: back →
            e.scene = sc → (∀ y ∈ front ++ back, y.scene ≠ sc) →
            answered
              { x with
                link := x.link.raise (.triggerDropped sc .cancelled e.source)
                engine := { s.engine with
                  queue := front ++ back, scenes := s.engine.scenes.set sc ⟨.ready, 0, false, none⟩ } } [0, 0])
        ∧ (∀ (p : Fin 8) (r : Run), run.state = .running → s.engine.queue = [] → s.engine.players[p] = some r →
            r.scene = sc → (∀ (q : Fin 8) (y : Run), q < p → s.engine.players[q] = some y → y.scene ≠ sc) →
            ∃ t : State, answered t [0, 1] ∧ x.StopsPlayer t p r .cancelled
              ∧ t.store = s.store ∧ t.monitor = s.monitor ∧ t.engine.queue = []
              ∧ t.link = x.link.raise (.sceneEnded sc p .cancelled r.cue)
              ∧ t.engine.players[p] = none ∧ t.engine.claims = s.engine.claims.release p
              ∧ t.engine.scenes[sc] =
                  (if (s.store.tables.scene sc).cooldown = 0 then ⟨.ready, 0, false, none⟩
                   else ⟨.cooldown, (s.store.tables.scene sc).cooldown, false, s.frame⟩)
              ∧ ∀ other : Fin 64, other ≠ sc → t.engine.scenes[other] = s.engine.scenes[other])

/-- R38: STOP ALL. It is answered OK with the number of entries removed and of players stopped. Every entry leaves the
queue from the front on, and every player is stopped in increasing player number, each with its report; afterwards every
player is FREE, the queue is empty, every group outside the direct-control set and every axis and voice is unowned, and the
players' scenes are in COOLDOWN or READY, with no again flag. R131: their voices, PRIMING, PLAYING or STALLED, are FADING
at stage 0. R149: their axes have a stop request: MOVING, HOMING and STOPPING axes are STOPPING with ending IDLE and
nothing to follow, a HELD axis is IDLE at once, and the others are left. -/
def Obligations.StopAllEmptiesTheEngine : Prop :=
  ∀ (s : State) (rest : List Request),
    s.RequestNext 0x0D [] rest → s.store.mode ≠ .loading → s.ClaimsNamePlayers →
    let running := ((List.finRange 8).filter fun (p : Fin 8) => (s.engine.players[p]).isSome).length
    let rests (sc : Fin 64) : SceneRun :=
      if (s.store.tables.scene sc).cooldown = 0 then ⟨.ready, 0, false, none⟩
      else ⟨.cooldown, (s.store.tables.scene sc).cooldown, false, s.frame⟩
    let faded (x : Voice) : Voice := match x.state with
      | .priming | .playing | .stalled => { x with state := .fading, fade := 0, stall := 0 }
      | .idle | .fading => x
    let stopped (x : Axis) : Axis := match x.state with
      | .moving => { x with state := .stopping, ending := some .idle, follow := none }
      | .homing | .stopping =>
        { x with state := .stopping, ending := some .idle, follow := none, pendingMove := none }
      | .held =>
        { x with state := .idle, rate := 0, acc := 0, target := none, profile := none, ending := none, follow := none,
                 pendingMove := none, wait := none, cause := none }
      | .idle | .unhomed | .fault => x
    (∀ x : Voice, x.fadeOut = faded x) ∧ (∀ x : Axis, x.stopRequest = stopped x) ∧ ∃ t : State,
      exec .stopAll s = .next (t.replied 0x0D (0 :: put8 s.engine.queue.length ++ put8 running)).finishLink
      ∧ t.pending = s.pending ∧ t.store = s.store ∧ t.monitor = s.monitor ∧ t.sound.beds = s.sound.beds
      ∧ t.link = (List.finRange 8).foldl
          (fun (l : Link) (p : Fin 8) => match s.engine.players[p] with
            | some r => l.raise (.sceneEnded r.scene p .cancelled r.cue)
            | none => l)
          (s.engine.queue.foldl (fun l e => l.raise (.triggerDropped e.scene .cancelled e.source)) (s.took rest).link)
      ∧ t.engine.queue = [] ∧ (∀ p : Fin 8, t.engine.players[p] = none)
      ∧ (∀ (p : Fin 8) (r : Run), s.engine.players[p] = some r → t.engine.scenes[r.scene] = rests r.scene)
      ∧ (∀ e ∈ s.engine.queue, (∀ (p : Fin 8) (r : Run), s.engine.players[p] = some r → r.scene ≠ e.scene) →
          t.engine.scenes[e.scene] = ⟨.ready, 0, false, none⟩)
      ∧ (∀ g : Fin 16, t.engine.claims.groups[g] = if s.engine.claims.groups[g] = .direct then .direct else .none)
      ∧ (∀ a : Fin 8, t.engine.claims.axes[a] = none) ∧ (∀ v : Fin 4, t.engine.claims.voices[v] = none)
      ∧ (∀ v : Fin 4, t.sound.voices[v] =
          if (s.engine.claims.voices[v]).isSome then faded (s.sound.voices[v]) else s.sound.voices[v])
      ∧ (∀ a : Fin 8, t.motion.axes[a] =
          if (s.engine.claims.axes[a]).isSome then stopped (s.motion.axes[a]) else s.motion.axes[a])
      ∧ (s.store.attractRunning = false → t.light = s.light)

/-- R74 to R76: HOLD GROUP and FREE GROUP. A number above 15 is answered BAD_ARG. HOLD GROUP makes the group DIRECT and
answers TAKEN (0), TAKEN_FROM_PLAYER (1) with the player and its scene, or ALREADY (2); the player runs on, and nothing
but the group's owner changes (the layout of the reply is the model's choice: log entry 13). FREE GROUP of a DIRECT
group makes it unowned and answers FREED (0); of any other group it answers NOT_IN_SET (1) and changes nothing. R32, R78,
R115: in SHOW a freed attract-enabled group returns to attract, over its return fade, while the cycle runs; and a rescan
of the queue starts a waiting scene that nothing keeps out any more, passing over those that another group in direct
control keeps out, which keep their places. Nothing else changes. -/
def Obligations.DirectControlTakesAndFreesGroups : Prop :=
  ∀ (s : State) (n : Byte) (rest : List Request),
    let x := s.took rest
    let owned (g : Fin 16) (o : GroupOwner) : State :=
      { x with engine := { s.engine with claims := { s.engine.claims with groups := s.engine.claims.groups.set g o } } }
    (s.RequestNext 0x0E [n] rest →
      let answered (y : State) (reply : List Byte) : Prop := exec .holdGroup s = .next (y.replied 0x0E reply).finishLink
      (s.store.mode = .loading → answered x [4])
      ∧ (s.store.mode ≠ .loading → 16 ≤ n.toNat → answered x [3])
      ∧ ∀ g : Fin 16, s.store.mode ≠ .loading → n.toNat = g.val →
          (s.engine.claims.groups[g] = .none → answered (owned g .direct) [0, 0, 0, 0, 0, 0])
          ∧ (s.engine.claims.groups[g] = .direct → answered x [0, 2, 0, 0, 0, 0])
          ∧ ∀ (p : Fin 8) (r : Run), s.engine.claims.groups[g] = .player p → s.engine.players[p] = some r →
              answered (owned g .direct) ([0, 1, 1] ++ put8 p ++ [1] ++ put8 r.scene))
    ∧ (s.RequestNext 0x0F [n] rest →
        let answered (y : State) (reply : List Byte) : Prop := exec .freeGroup s = .next (y.replied 0x0F reply).finishLink
        (s.store.mode = .loading → answered x [4])
        ∧ (s.store.mode ≠ .loading → 16 ≤ n.toNat → answered x [3])
        ∧ ∀ g : Fin 16, s.store.mode ≠ .loading → n.toNat = g.val →
            (s.engine.claims.groups[g] ≠ .direct → answered x [0, 1])
            ∧ (s.engine.claims.groups[g] = .direct → s.store.mode = .standby → answered (owned g .none) [0, 0])
            ∧ (s.engine.claims.groups[g] = .direct → s.store.mode = .running → s.engine.queue = [] →
                ∃ light : Lighting, s.ReturnsGroups light (fun h => h = g)
                  ∧ answered { owned g .none with light := light } [0, 0]
                  ∧ (s.store.attractRunning = false → light = s.light))
            ∧ ∀ (front back : List Entry) (e : Entry) (p : Fin 8) (voice : Option (Fin 4)),
                s.engine.claims.groups[g] = .direct → s.store.mode = .running → s.engine.house = false →
                s.store.attractRunning = false → s.engine.queue = front ++ e :: back → s.engine.queue.length ≤ 16 →
                (∀ y ∈ front ++ back, (owned g .none).ShutOut y.scene) → (owned g .none).Startable e.scene p voice →
                ∃ t : State, answered t [0, 0] ∧ (owned g .none).Starts t e.scene e.source p voice (front ++ back))

/-- R31, R34, R21: the counts of one show frame, which are taken once in it (log entry 2). In SHOW the patience of each
waiting entry falls by 1, unless it is 65,535 or the entry came in this frame (log entry 4), and an entry at its last
frame is dropped with PATIENCE and its scene is READY (that the reports of several such entries are queued from the front
of the queue to the back is the model's choice: log entry 31); in SHOW and STANDBY each cooldown falls by 1, and a scene
at its last frame is READY. PATIENCE_EXPIRY and COOLDOWN_END are the same for one entry and one scene. Nothing else
changes. -/
def Obligations.PatienceAndCooldownsCount : Prop :=
  ∀ (s : State) (f : Nat), s.inReset = false →
    let counts (e : Entry) : Bool := decide (e.patience ≠ 65535) && decide (e.since ≠ some f)
    let expires (e : Entry) : Bool := counts e && decide (e.patience ≤ 1)
    let cools (x : SceneRun) : Bool := decide (x.state = .cooldown) && decide (x.since ≠ some f)
    let ready : SceneRun := ⟨.ready, 0, false, none⟩
    (∀ (front back : List Entry) (e : Entry), s.engine.frame ≠ some f → s.store.mode = .running →
      s.engine.queue = front ++ e :: back → (∀ y ∈ front ++ back, y.scene ≠ e.scene) → expires e = true →
      exec (.patienceExpiry e.scene f) s = .next (State.finishLink
        { s with frame := some f, link := s.link.raise (.triggerDropped e.scene .patience e.source),
                 engine := { s.engine with
                   queue := front ++ back, scenes := s.engine.scenes.set e.scene ready } }))
    ∧ (∀ sc : Fin 64, s.engine.frame ≠ some f → s.store.mode ≠ .loading → cools s.engine.scenes[sc] = true →
        (s.engine.scenes[sc]).cooldown ≤ 1 →
        exec (.cooldownEnd sc f) s = .next
          { s with frame := some f, engine := { s.engine with scenes := s.engine.scenes.set sc ready } })
    ∧ (s.engine.frame ≠ some f →
        let queue := if s.store.mode = .running then s.engine.queue else []
        ∃ t : State, exec (.patienceAndCooldownCount f) s = .next t.finishLink
          ∧ { t with link := s.link, engine := s.engine, frame := s.frame } = s
          ∧ t.link = (queue.filter expires).foldl
              (fun l e => l.raise (.triggerDropped e.scene .patience e.source)) s.link
          ∧ t.frame = some f ∧ t.engine.frame = some f
          ∧ { t.engine with queue := s.engine.queue, scenes := s.engine.scenes, frame := s.engine.frame } = s.engine
          ∧ (s.store.mode ≠ .running → t.engine.queue = s.engine.queue)
          ∧ (s.store.mode = .running → t.engine.queue =
              (s.engine.queue.filter fun e => !queue.any fun y => expires y && decide (y.scene = e.scene)).map
                fun e => if counts e then { e with patience := e.patience - 1 } else e)
          ∧ ∀ sc : Fin 64, t.engine.scenes[sc] =
              if queue.any fun y => expires y && decide (y.scene = sc) then ready
              else if decide (s.store.mode ≠ .loading) && cools s.engine.scenes[sc] then
                (if (s.engine.scenes[sc]).cooldown ≤ 1 then ready
                 else { s.engine.scenes[sc] with cooldown := (s.engine.scenes[sc]).cooldown - 1 })
              else s.engine.scenes[sc])
    ∧ (s.engine.frame = some f → exec (.patienceAndCooldownCount f) s = .next s)

/-! ### Players and cues -/

/-- R41, R43, R44, R52 to R57, R61: the frame event of a DELAYING player. A delay above 1 falls by 1. A delay at its last
frame, or of 0, executes the cue at the cue pointer. MARK queues its report, LOOP opens a loop (of at most four), NEXT
closes or repeats the newest one, LAMP sets a lamp's mode, and the player arrives at the following cue, NEXT's loop, or
GOTO's target, with its delay; zero-delay cues follow at once, but at most sixteen in one frame event. END, and a cue that
leads past cue 2047, end the player with reason END; a NEXT with no open loop and a fifth LOOP stop it with CUE_ERROR.
With nothing waiting its scene rests as R34 gives; R24, R35, R73: with the again flag set and HOUSE released the scene is
triggered again within the event, and starts or waits. CUE_DELAY_EXPIRY is the frame event of a player whose delay is
over, and otherwise nothing. A player takes one frame event in a show frame (log entry 2), and a FREE player none. -/
def Obligations.DelaysCountAndCuesExecute : Prop :=
  ∀ (s : State) (p : Fin 8) (f : Nat), s.inReset = false →
    (s.engine.players[p] = none →
      exec (.playerFrameEvent p f) s = .next s ∧ exec (.cueDelayExpiry p f) s = .next s)
    ∧ ∀ (r : Run) (d : Nat), s.engine.players[p] = some r → r.phase = .delaying d →
        let becomes (y : Run) (link : Link) : State :=
          { s with frame := some f, link := link,
                   engine := { s.engine with players := s.engine.players.set p (some y) } }
        let cue := ((s.store.tables.cue r.cue).cue?).getD .finish
        let delay (c : Fin 2048) : Nat := (s.store.tables.cue c).delay
        let base : State := { s with frame := some f }
        let goes (t : State) : Prop :=
          exec (.playerFrameEvent p f) s = .next t.finish ∧ exec (.cueDelayExpiry p f) s = .next t.finish
        let stops (y : State) (reason : StopReason) : Prop :=
          s.engine.queue = [] → (s.engine.scenes[r.scene]).again = false ∨ s.engine.house = true →
          ∃ t : State, goes t ∧ y.StopsPlayer t p r reason
        (r.frame = some f → exec (.playerFrameEvent p f) s = .next s ∧ exec (.cueDelayExpiry p f) s = .next s)
        ∧ (r.frame ≠ some f → 1 < d →
            exec (.playerFrameEvent p f) s = .next (State.finish
              (becomes { r with phase := .delaying (d - 1), executed := 0, frame := some f } s.link))
            ∧ exec (.cueDelayExpiry p f) s = .next s)
        ∧ (r.frame ≠ some f → d ≤ 1 →
            (∀ next : Fin 2048, next.val = r.cue.val + 1 → delay next ≠ 0 →
              (∀ code : Nat, cue = .mark code →
                goes (becomes { r with cue := next, phase := .delaying (delay next), executed := 1, frame := some f }
                  (s.link.raise (.mark code r.scene p r.cue))))
              ∧ (∀ count : Nat, cue = .loop count → r.loops.length < 4 →
                  goes (s.arrivedAt p { r with loops := r.loops ++ [⟨r.cue, count⟩] } next f))
              ∧ (∀ (front : List LoopEntry) (e : LoopEntry), cue = .next → r.loops = front ++ [e] → e.count = 1 →
                  goes (s.arrivedAt p { r with loops := front } next f))
              ∧ (∀ (b : Fin 16) (mode : LampMode), cue = .lamp b mode →
                  let auto := autoPattern s.store s.engine.scenes s.monitor.house.asserted b
                  let lamp : Lamp :=
                    { s.monitor.lamps[b] with mode := mode, pattern := mode.pattern auto, blink := 0, flash := 0 }
                  goes (State.arrivedAt
                    { s with monitor := { s.monitor with lamps := s.monitor.lamps.set b lamp } } p r next f)))
            ∧ (∀ (front : List LoopEntry) (e : LoopEntry) (target : Fin 2048), cue = .next → r.loops = front ++ [e] →
                target.val = e.cue.val + 1 → delay target ≠ 0 →
                (e.count = 0 → goes (s.arrivedAt p r target f))
                ∧ (1 < e.count →
                    goes (s.arrivedAt p { r with loops := front ++ [⟨e.cue, e.count - 1⟩] } target f)))
            ∧ (∀ target : Fin 2048, cue = .goto target.val → delay target ≠ 0 → goes (s.arrivedAt p r target f))
            ∧ (∀ (codes : Nat → Nat) (last : Fin 2048), last.val = r.cue.val + 16 →
                (∀ (k : Nat) (c : Fin 2048), k < 16 → c.val = r.cue.val + k →
                  (s.store.tables.cue c).cue? = some (.mark (codes k))) →
                (∀ c : Fin 2048, r.cue < c → c ≤ last → delay c = 0) →
                goes (becomes { r with cue := last, phase := .delaying 0, executed := 16, frame := some f }
                  ((List.range 16).foldl
                    (fun (l : Link) (k : Nat) => l.raise (.mark (codes k) r.scene p (Fin.ofNat 2048 (r.cue.val + k))))
                    s.link)))
            ∧ (cue = .finish → stops base .finish)
            ∧ (∀ target : Nat, cue = .goto target → 2048 ≤ target → stops base .finish)
            ∧ (∀ code : Nat, cue = .mark code → r.cue = 2047 →
                stops { base with link := s.link.raise (.mark code r.scene p r.cue) } .finish)
            ∧ (cue = .next → r.loops = [] → stops base .cueError)
            ∧ (∀ count : Nat, cue = .loop count → 4 ≤ r.loops.length → stops base .cueError)
            ∧ (cue = .finish → (s.engine.scenes[r.scene]).again = true → s.engine.house = false →
                (∀ (q : Fin 8) (voice : Option (Fin 4)), base.Readmissible p r q voice →
                  ∃ t : State, goes t ∧ base.Restarts t p r .finish .again q voice)
                ∧ (s.engine.queue = [] → base.ShutOut r.scene →
                    ∃ t u : State, base.StopsPlayer u p r .finish ∧ u.WaitsOrDrops t r.scene .again ∧ goes t)))

/-- R50 to R52, and section 3.10 for the stops with CUE_ERROR and AXIS_FAULT: an AWAIT cue, and the frame event of an
AWAITING player. The conditions hold, fail or wait by the state of the voice, the axes, the zone and the button seen. At
the AWAIT cue a player whose condition holds goes on, one whose condition fails stops with AXIS_FAULT, one that awaits an
axis it does not claim stops with CUE_ERROR, and any other becomes AWAITING with the cue's timeout and target.
Afterwards, while the condition does not yet hold, the player without a timeout stays; a timeout above 1 falls by 1; at
its last frame the player arrives at the timeout target, and waits there when that cue's delay is not 0. When the
condition holds, the player arrives at the cue after the AWAIT, and when it fails, it stops with AXIS_FAULT.
AWAIT_TIMEOUT is the frame event of a player whose timeout is at its last frame, and otherwise nothing (the model's
choice: log entry 2). The loop stack is left. -/
def Obligations.AwaitsEndOrTimeOut : Prop :=
  (∀ (s : State) (p : Fin 8) (voice : Option (Fin 4)) (seen : Bool),
    let test (cond : AwaitCond) : AwaitTest := s.testAwait p voice seen cond
    let arrived (x : AxisState) : Prop := x = .idle ∨ x = .unhomed
    (∀ v : Fin 4, voice = some v →
      test .voiceDone = if (s.sound.voices[v]).state = .idle then .holds else .waits)
    ∧ (voice = none → test .voiceDone = .holds)
    ∧ (∀ a : Fin 8,
        (test (.axisDone a) = .holds ↔ arrived (s.motion.axes[a]).state)
        ∧ (test (.axisDone a) = .fails ↔ (s.motion.axes[a]).state = .fault))
    ∧ (test .axesDone = .fails ↔ ∃ a : Fin 8, s.engine.claims.axes[a] = some p ∧ (s.motion.axes[a]).state = .fault)
    ∧ (test .axesDone = .holds ↔
        ∀ a : Fin 8, s.engine.claims.axes[a] = some p → arrived (s.motion.axes[a]).state)
    ∧ (∀ z : Fin 12,
        let occupied := (s.monitor.zones[z]).state = .occupied ∨ (s.monitor.zones[z]).state = .emptying
        (¬ occupied → test (.zoneClear z) = .holds ∧ test (.zoneOccupied z) = .waits)
        ∧ (occupied → test (.zoneClear z) = .waits ∧ test (.zoneOccupied z) = .holds))
    ∧ ∀ b : Fin 16, test (.button b) = if seen then .holds else .waits)
  ∧ ∀ (s : State) (p : Fin 8) (f : Nat) (r : Run), s.inReset = false →
      s.engine.players[p] = some r → r.frame ≠ some f →
      let becomes (y : Run) : State :=
        { s with frame := some f, engine := { s.engine with
            players := s.engine.players.set p (some { y with frame := some f }) } }
      let stays (y : Run) : State := becomes { y with executed := 0 }
      let arrives (c : Fin 2048) : State :=
        stays { r with cue := c, phase := .delaying (s.store.tables.cue c).delay }
      let stops (reason : StopReason) : Prop :=
        s.engine.queue = [] → (s.engine.scenes[r.scene]).again = false ∨ s.engine.house = true →
        ∃ t : State, exec (.playerFrameEvent p f) s = .next t.finish
          ∧ State.StopsPlayer { s with frame := some f } t p r reason
      (∀ (d : Nat) (cond : AwaitCond) (operand : Byte) (timeout : Nat) (target : Fin 2048),
        r.phase = .delaying d → d ≤ 1 →
        ((s.store.tables.cue r.cue).cue?).getD .finish = .await cond operand timeout target →
        let unclaimed := ∃ a : Fin 8, cond = .axisDone a ∧ s.engine.claims.axes[a] ≠ some p
        (unclaimed → stops .cueError)
        ∧ (¬ unclaimed → s.testAwait p r.voice false cond = .fails → stops .axisFault)
        ∧ (¬ unclaimed → s.testAwait p r.voice false cond = .waits →
            exec (.playerFrameEvent p f) s = .next (State.finish (becomes
              { r with
                executed := 1
                phase := .awaiting ⟨cond, operand, if timeout = 0 then none else some timeout, target, false⟩ })))
        ∧ (¬ unclaimed → s.testAwait p r.voice false cond = .holds → ∀ next : Fin 2048, next.val = r.cue.val + 1 →
            (s.store.tables.cue next).delay ≠ 0 →
            exec (.playerFrameEvent p f) s = .next (s.arrivedAt p r next f).finish))
      ∧ (∀ a : Await, r.phase = .awaiting a →
          (s.testAwait p r.voice a.seen a.cond = .waits →
            (a.timeout = none →
              exec (.playerFrameEvent p f) s = .next (stays r).finish ∧ exec (.awaitTimeout p f) s = .next s)
            ∧ (∀ n : Nat, a.timeout = some n → 1 < n →
                exec (.playerFrameEvent p f) s = .next
                  (stays { r with phase := .awaiting { a with timeout := some (n - 1) } }).finish
                ∧ exec (.awaitTimeout p f) s = .next s)
            ∧ (∀ n : Nat, a.timeout = some n → n ≤ 1 → (s.store.tables.cue a.target).delay ≠ 0 →
                exec (.playerFrameEvent p f) s = .next (arrives a.target).finish
                ∧ exec (.awaitTimeout p f) s = .next (arrives a.target).finish))
          ∧ (s.testAwait p r.voice a.seen a.cond = .holds → ∀ next : Fin 2048, next.val = r.cue.val + 1 →
              (s.store.tables.cue next).delay ≠ 0 → exec (.playerFrameEvent p f) s = .next (arrives next).finish)
          ∧ (s.testAwait p r.voice a.seen a.cond = .fails → stops .axisFault))

/-- R45 to R49, R61, R75: what the lighting, sound and motion cues do, and that a cue acts only on what its player has. A
player that arrives at such a cue executes it and goes on to the next. LIGHT applies its look to the groups of its mask
that the player owns; LEVEL and MASTER start a fade when the player owns the group; SAY begins its clip on the player's
IDLE voice, in the language of the scene's zone, and HUSH fades the voice out; MOVE and HOME are handed to a claimed axis.
A SAY whose voice is not IDLE, and a MOVE or HOME whose axis is STOPPING, block the player, until the voice is IDLE, or
the axis IDLE, HELD or UNHOMED. An unclaimed axis stops the player with CUE_ERROR, and one that refuses with AXIS_FAULT.
Whatever cue a player executes, and whatever its operands name, it changes no channel of a group that the player does not
own and no such group's master, no axis that it does not claim, no voice but its own, no bed, no claim, no other player,
no table and no show state. -/
def Obligations.CuesActOnlyOnClaims : Prop :=
  (∀ (s : State) (p : Fin 8) (f : Nat) (r : Run), s.inReset = false →
    s.engine.players[p] = some r → r.frame ≠ some f →
    let due := ∃ d : Nat, r.phase = .delaying d ∧ d ≤ 1
    let blocked := r.phase = .blocked
    let cue := ((s.store.tables.cue r.cue).cue?).getD .finish
    let does (t : State) : Prop := exec (.playerFrameEvent p f) s = .next t.finish
    let blocks : Prop := does { s with frame := some f, engine := { s.engine with
      players := s.engine.players.set p (some { r with phase := .blocked, executed := 0, frame := some f }) } }
    let stops (reason : StopReason) : Prop :=
      s.engine.queue = [] → (s.engine.scenes[r.scene]).again = false ∨ s.engine.house = true →
      ∃ t : State, does t ∧ State.StopsPlayer { s with frame := some f } t p r reason
    let axis (a : Fin 8) : AxisState := (s.motion.axes[a]).state
    let rests (a : Fin 8) : Prop := axis a = .idle ∨ axis a = .held ∨ axis a = .unhomed
    let ready (a : Fin 8) : Prop := due ∧ axis a ≠ .stopping ∨ blocked ∧ rests a
    let move (a : Fin 8) (position : Int) (profile : Option (Fin 16)) : Option Axis :=
      let rec' := s.store.tables.axis a
      (s.motion.axes[a]).takeMove? s.store.tables rec' (s.holdPresent a) ⟨position, profile.getD rec'.profile⟩
    let home (a : Fin 8) : Option Axis := (s.motion.axes[a]).takeHome? (s.store.tables.axis a) (s.holdPresent a)
    (∀ next : Fin 2048, next.val = r.cue.val + 1 → (s.store.tables.cue next).delay ≠ 0 →
      let goes (t : State) : Prop := does (t.arrivedAt p r next f)
      let lit (l : Lighting) : State := { s with light := l }
      let voiced (v : Fin 4) (y : Voice) : State :=
        { s with sound := { s.sound with voices := s.sound.voices.set v y } }
      (∀ (look : Fin 128) (mask : BitVec 16) (fade : Nat) (curve : FadeCurve), due → cue = .light look mask fade curve →
        ∃ l : Lighting, goes (lit l)
          ∧ s.light.TakesLook l s.store.tables look
              (fun g => mask.getLsbD g = true ∧ s.engine.claims.groups[g] = .player p) (fun _ => fade) curve)
      ∧ (∀ (c : Fin 48) (level fade : Nat), due → cue = .level c level fade →
          let owner := s.engine.claims.groups[(s.store.tables.channel c).group]
          let now := (s.light.channels[c]).fade.intent
          let begun : Fade := ⟨now, level * 257, fade, 0, .linear, if fade = 0 then level * 257 else now⟩
          (owner ≠ .player p → goes s)
          ∧ (owner = .player p → goes (lit
              { s.light with channels := s.light.channels.set c { s.light.channels[c] with fade := begun } })))
      ∧ (∀ (g : Fin 16) (level fade : Nat), due → cue = .master g level fade →
          let now := (s.light.masters[g]).level
          let begun : MasterFade := ⟨now, level, fade, 0, if fade = 0 then level else now⟩
          (s.engine.claims.groups[g] ≠ .player p → goes s)
          ∧ (s.engine.claims.groups[g] = .player p →
              goes (lit { s.light with masters := s.light.masters.set g begun })))
      ∧ (∀ clip : Fin 256, due ∨ blocked → cue = .say clip →
          (r.voice = none → goes s)
          ∧ ∀ v : Fin 4, r.voice = some v → (s.sound.voices[v]).state = .idle →
              let place := match (s.store.tables.scene r.scene).zone with
                | none => ((0, 0) : Fin 4 × Fin 4)
                | some z => ((s.monitor.zones[z]).language, (s.store.tables.zone z).output)
              let record := s.store.tables.clip clip
              let begins (i : Nat) (w : Variant) : Prop := goes (voiced v
                { s.sound.voices[v] with
                  state := .priming, clip := some clip, variant := some (Fin.ofNat 4 i, w.language), output := place.2,
                  feed := ⟨w.address, w.length, [], w.address, w.length, record.loop⟩, fade := 0, stall := 0 })
              (∀ (i : Nat) (w : Variant), record.variants[i]? = some w → w.language = place.1 →
                (∀ (k : Nat) (y : Variant), k < i → record.variants[k]? = some y → y.language ≠ place.1) → begins i w)
              ∧ ∀ w : Variant, record.variants.head? = some w → (∀ y ∈ record.variants, y.language ≠ place.1) →
                  begins 0 w)
      ∧ (due → cue = .hush →
          (r.voice = none → goes s) ∧ ∀ v : Fin 4, r.voice = some v → goes (voiced v (s.sound.voices[v]).fadeOut))
      ∧ (∀ (a : Fin 8) (position : Int) (profile : Option (Fin 16)) (y : Axis), ready a →
          s.engine.claims.axes[a] = some p → cue = .move a position profile → move a position profile = some y →
          goes (s.setAxis a y))
      ∧ ∀ (a : Fin 8) (y : Axis), ready a → s.engine.claims.axes[a] = some p → cue = .home a → home a = some y →
          goes (s.setAxis a y))
    ∧ (∀ (clip : Fin 256) (v : Fin 4), due ∨ blocked → cue = .say clip → r.voice = some v →
        (s.sound.voices[v]).state ≠ .idle → blocks)
    ∧ ∀ (a : Fin 8) (position : Int) (profile : Option (Fin 16)), cue = .move a position profile ∨ cue = .home a →
        (due → s.engine.claims.axes[a] ≠ some p → stops .cueError)
        ∧ (due → s.engine.claims.axes[a] = some p → axis a = .stopping → blocks)
        ∧ (blocked → ¬ rests a → blocks)
        ∧ (due → s.engine.claims.axes[a] = some p → axis a = .fault →
            cue = .move a position profile ∨ (s.motion.axes[a]).cause = some .estop → stops .axisFault))
  ∧ ∀ (s : State) (p : Fin 8) (r : Run) (t : State),
      s.engine.players[p] = some r →
      (∃ target : Nat, s.execCue p r = .goes t target) ∨ (∃ a : Await, s.execCue p r = .awaits t a) →
      t.store = s.store ∧ t.engine.claims = s.engine.claims ∧ t.engine.queue = s.engine.queue
      ∧ t.engine.scenes = s.engine.scenes
      ∧ (∀ q : Fin 8, q ≠ p → t.engine.players[q] = s.engine.players[q])
      ∧ (∀ c : Fin 48, s.engine.claims.groups[(s.store.tables.channel c).group] ≠ .player p →
          t.light.channels[c] = s.light.channels[c])
      ∧ (∀ g : Fin 16, s.engine.claims.groups[g] ≠ .player p → t.light.masters[g] = s.light.masters[g])
      ∧ t.light.grand = s.light.grand
      ∧ (∀ a : Fin 8, s.engine.claims.axes[a] ≠ some p → t.motion.axes[a] = s.motion.axes[a])
      ∧ (∀ v : Fin 4, r.voice ≠ some v → t.sound.voices[v] = s.sound.voices[v]) ∧ t.sound.beds = s.sound.beds
      ∧ t.monitor.zones = s.monitor.zones

/-! ### Lighting Engine -/

/-- R79, R85, R91, R97, R98: SET LEVEL and SET MASTER. A channel above 47, a curve that is neither LINEAR nor STEPPED8,
or a group above 15 is answered BAD_ARG; a group that is not DIRECT is answered NOT_OWNER; both change nothing.
Otherwise a fade to the level starts from the present intent or master, and with length 0 it is there at once; nothing
else changes. -/
def Obligations.DirectLevelsStartFades : Prop :=
  ∀ (s : State) (n level low high : Byte) (rest : List Request),
    let x := s.took rest
    let length := low.toNat + 256 * high.toNat
    (∀ shape : Byte, s.RequestNext 0x10 [n, level, low, high, shape] rest →
      let answered (y : State) (status : Byte) : Prop := exec .setLevel s = .next (y.replied 0x10 [status]).finishLink
      (s.store.mode = .loading → answered x 4)
      ∧ (s.store.mode ≠ .loading → 48 ≤ n.toNat ∨ 2 ≤ shape.toNat → answered x 3)
      ∧ ∀ (c : Fin 48) (curve : FadeCurve), s.store.mode ≠ .loading → n.toNat = c.val → shape.toNat = curve.code →
          let owner := s.engine.claims.groups[(s.store.tables.channel c).group]
          let now := (s.light.channels[c]).fade.intent
          let target := level.toNat * 257
          let fade : Fade := ⟨now, target, length, 0, curve, if length = 0 then target else now⟩
          (owner ≠ .direct → answered x 5)
          ∧ (owner = .direct →
              answered { x with light := { s.light with
                channels := s.light.channels.set c { s.light.channels[c] with fade := fade } } } 0))
    ∧ (s.RequestNext 0x11 [n, level, low, high] rest →
        let answered (y : State) (status : Byte) : Prop :=
          exec .setMaster s = .next (y.replied 0x11 [status]).finishLink
        (s.store.mode = .loading → answered x 4)
        ∧ (s.store.mode ≠ .loading → 16 ≤ n.toNat → answered x 3)
        ∧ ∀ g : Fin 16, s.store.mode ≠ .loading → n.toNat = g.val →
            let now := (s.light.masters[g]).level
            let fade : MasterFade := ⟨now, level.toNat, length, 0, if length = 0 then level.toNat else now⟩
            (s.engine.claims.groups[g] ≠ .direct → answered x 5)
            ∧ (s.engine.claims.groups[g] = .direct →
                answered { x with light := { s.light with masters := s.light.masters.set g fade } } 0))

/-- R99: SET GRAND. In LOADING it is answered WRONG_STATE; in STANDBY and in SHOW it is answered OK and sets the grand
master at once, whatever the claims are; the base duty of every channel, whoever owns its group, is formed with it at
the next lighting frame event; and of two requests carried out one after the other the later level holds. -/
def Obligations.GrandMasterIsSet : Prop :=
  (∀ (s : State) (level : Byte) (rest : List Request), s.RequestNext 0x12 [level] rest →
    let set : State := { s.took rest with light := { s.light with grand := level.toNat } }
    (s.store.mode = .loading → exec .setGrand s = .next ((s.took rest).replied 0x12 [4]).finishLink)
    ∧ (s.store.mode ≠ .loading →
        exec .setGrand s = .next (set.replied 0x12 [0]).finishLink
        ∧ ∀ (f : Nat) (c : Fin 48), set.light.frame ≠ some f →
            let l := set.light.frameEvent set.store set.engine.claims f
            let r := s.store.tables.channel c
            l.grand = level.toNat
            ∧ (l.channels[c]).base =
                r.baseDuty (l.channels[c]).fade.intent (l.masters[r.group]).level level.toNat))
  ∧ ∀ (s t u : State) (first second : Byte) (rest rest' : List Request),
      s.store.mode ≠ .loading → s.RequestNext 0x12 [first] rest → exec .setGrand s = .next t →
      t.RequestNext 0x12 [second] rest' → exec .setGrand t = .next u → u.light.grand = second.toNat

/-- R86, R101, R107, R110, R113: the lighting frame event, once in a show frame (log entry 2). Without an attract slot
to enter, every fade and every master fade in progress takes one step, the duties of every channel are formed from the
new values and the phases as they stood, and then, except in LOADING, the frame counts and the flicker register advance;
while the attract cycle runs, its hold falls by 1. Nothing outside the Lighting Engine changes. -/
def Obligations.LightingFrameStepsEveryFade : Prop :=
  ∀ (s : State) (f : Nat), s.inReset = false →
    (s.light.frame = some f → exec (.lightingFrameEvent f) s = .next s)
    ∧ (s.light.frame ≠ some f →
        ∃ t : State, exec (.lightingFrameEvent f) s = .next t
          ∧ { t with light := s.light, frame := s.frame } = s ∧ t.frame = some f ∧ t.light.frame = some f
          ∧ t.light.house = s.light.house ∧ t.light.grand = s.light.grand ∧ t.light.period = s.light.period
          ∧ t.light.flicker = (if s.store.mode = .loading then s.light.flicker else flickerStep s.light.flicker)
          ∧ (∀ k : Fin 4, t.light.counts[k] =
              if s.store.mode = .loading then s.light.counts[k]
              else if (s.store.tables.carrier k).period ≤ s.light.counts[k] + 1 then 0 else s.light.counts[k] + 1)
          ∧ (s.store.mode ≠ .loading → ∀ k : Fin 4,
              t.light.phases[k] = (s.store.tables.carrier k).onPhase s.light.counts[k] s.light.flicker)
          ∧ (s.store.attractRunning = false ∨ 1 < s.light.hold →
              t.light.slot = s.light.slot
              ∧ t.light.hold = (if s.store.attractRunning then s.light.hold - 1 else s.light.hold)
              ∧ (∀ g : Fin 16, t.light.masters[g] = (s.light.masters[g]).step)
              ∧ ∀ c : Fin 48,
                  let r := s.store.tables.channel c
                  let x := t.light.channels[c]
                  let base := r.baseDuty x.fade.intent (t.light.masters[r.group]).level s.light.grand
                  let phase := if s.store.mode = .loading then none
                    else r.carrier.map fun k =>
                      (s.store.tables.carrier k).onPhase s.light.counts[k] s.light.flicker
                  x = { s.light.channels[c] with
                    fade := (s.light.channels[c]).fade.step, base := base, gated := r.gate base phase,
                    staged := if s.light.house && r.participates then ⟨r.house, true⟩ else ⟨r.gate base phase, false⟩ }))

/-- R112 to R114: the lighting frame event in which the attract hold ends, which is ATTRACT_HOLD_EXPIRY. The slot after
the current one, or slot 0 after the last, is entered within the event and before its fade steps: its look starts linear
fades of the slot's fade length, from the intents as they stand, on the channels that it lists in attract-enabled unowned
groups and on no other, and the hold becomes the slot's hold × 2. With the cycle not running, or its hold above 1,
ATTRACT_HOLD_EXPIRY is no event (the model's choice: log entry 2). -/
def Obligations.AttractEntersTheNextSlot : Prop :=
  ∀ (s : State) (f : Nat), s.inReset = false → s.light.frame ≠ some f →
    (s.store.attractRunning = false ∨ 1 < s.light.hold → exec (.attractHoldExpiry f) s = .next s)
    ∧ (s.store.attractRunning = true → s.light.hold ≤ 1 →
        ∃ t : State, exec (.attractHoldExpiry f) s = .next t ∧ exec (.lightingFrameEvent f) s = .next t
          ∧ { t with light := s.light, frame := s.frame } = s
          ∧ t.light.slot.val = (if s.store.tables.slotCount ≤ s.light.slot.val + 1 then 0 else s.light.slot.val + 1) % 16
          ∧ t.light.hold = 2 * (s.store.tables.slot t.light.slot).hold
          ∧ (∀ g : Fin 16, t.light.masters[g] = (s.light.masters[g]).step)
          ∧ ∀ c : Fin 48,
              let group := (s.store.tables.channel c).group
              let was := s.light.channels[c]
              let slot := s.store.tables.slot t.light.slot
              let listed (e : PoolRec) : Prop := e ∈ s.store.tables.lookEntries slot.look ∧ e.channel = c
              let eligible := (s.store.tables.group group).attract = true ∧ s.engine.claims.groups[group] = .none
              ((∀ e : PoolRec, ¬ listed e) ∨ ¬ eligible → (t.light.channels[c]).fade = was.fade.step)
              ∧ (∀ e : PoolRec, eligible →
                  (s.store.tables.lookEntries slot.look).filter (fun y => decide (y.channel = c)) = [e] →
                  (t.light.channels[c]).fade = Fade.step
                    ⟨was.fade.intent, e.level * 257, slot.fade, 0, .linear,
                      if slot.fade = 0 then e.level * 257 else was.fade.intent⟩)
              ∧ (eligible → (t.light.channels[c]).fade =
                  (s.store.tables.lookFade slot.look c slot.fade .linear was.fade).step))

/-- R84, R86 to R88, R91: a fade of length 1 or more that takes as many lighting frame events as its length ends exactly
at its target, for either curve and for masters, and moves toward its target at every step. -/
def Obligations.FadesArriveAtTheirTarget : Prop :=
  (∀ (x : Fade) (n : Nat), 0 < x.length → x.elapsed + n = x.length → 0 < n →
    let y := Nat.repeat Fade.step n x
    y.intent = y.target ∧ y.target = x.target ∧ y.step = y)
  ∧ (∀ (x : MasterFade) (n : Nat), 0 < x.length → x.elapsed + n = x.length → 0 < n →
    let y := Nat.repeat MasterFade.step n x
    y.level = y.target ∧ y.target = x.target ∧ y.step = y)
  ∧ ∀ (curve : FadeCurve) (start target length k : Nat), 0 < length → k < length →
      (start ≤ target → fadeValue curve start target length k ≤ fadeValue curve start target length (k + 1))
      ∧ (target ≤ start → fadeValue curve start target length (k + 1) ≤ fadeValue curve start target length k)

/-- R94: the output curve. LINEAR gives its input; SQUARE gives ⌊x²/65,535⌋, with the same end points and a lower value
between them, so that 32,896 gives 16,512, 1 to 255 give 0, and 256 gives 1. -/
def Obligations.OutputCurvesShapeTheLevel : Prop :=
  (∀ x : Nat, OutputCurve.linear.apply x = x ∧ OutputCurve.square.apply x = x * x / 65535)
  ∧ OutputCurve.square.apply 0 = 0 ∧ OutputCurve.square.apply 65535 = 65535
  ∧ (∀ x : Nat, 0 < x → x < 65535 → OutputCurve.square.apply x < OutputCurve.linear.apply x)
  ∧ OutputCurve.square.apply 32896 = 16512
  ∧ (∀ x : Nat, 1 ≤ x → x ≤ 255 → OutputCurve.square.apply x = 0)
  ∧ OutputCurve.square.apply 256 = 1

/-- R93, R95, R102: the duty of a channel whose floor is not above its ceiling. The base duty is 0 or lies between floor
and ceiling; with a full intent and full masters it is the ceiling, and with an intent, master or grand master of 0 it is
0; it never falls as the intent rises; and the gated duty is 0 or lies between floor and ceiling as well. -/
def Obligations.DutiesStayBetweenFloorAndCeiling : Prop :=
  ∀ (r : ChannelRec) (intent master grand : Nat), r.floor ≤ r.ceiling →
    intent ≤ 65535 → master ≤ 255 → grand ≤ 255 →
    let d := r.baseDuty intent master grand
    (d = 0 ∨ r.floor ≤ d ∧ d ≤ r.ceiling)
    ∧ (∀ phase : Option Bool, r.gate d phase = 0 ∨ r.floor ≤ r.gate d phase ∧ r.gate d phase ≤ r.ceiling)
    ∧ r.baseDuty 65535 255 255 = r.ceiling
    ∧ (intent = 0 ∨ master = 0 ∨ grand = 0 → d = 0)
    ∧ ∀ more : Nat, intent ≤ more → more ≤ 65535 → d ≤ r.baseDuty more master grand

/-- R104 to R106: the PWM period of a channel starts. Its active duty and house mark take the staged ones, and its
alignment and phase slot are read from its record; the period counter stands at the channel's offset (log entry 8); no
other channel and nothing else changes. Over one round of the period counter the pin of a channel with an active duty of
0 is off throughout and with 4,095 on throughout; otherwise it is on at the positions 0 to d − 1 (EDGE) or s to
s + d − 1 with s = ⌊(4,096 − d)/2⌋ (CENTRE), which is exactly d of the 4,096 counts. -/
def Obligations.PwmFollowsTheStagedDuty : Prop :=
  (∀ (s : State) (c : Fin 48), s.inReset = false →
     let r := s.store.tables.channel c
     let slot := r.slot.getD (Fin.ofNat 8 c.val)
     exec (.pwmPeriodStart c) s = .next
       { s with light := { s.light with
           period := slot.val * 512
           channels := s.light.channels.set c
             { s.light.channels[c] with active := (s.light.channels[c]).staged, align := r.align, slot := slot } } })
  ∧ ((∀ (d position : Nat), position < 4096 →
       (d = 0 → ∀ align : Machine.Alignment, pwmOn d align position = false)
       ∧ (d = 4095 → ∀ align : Machine.Alignment, pwmOn d align position = true)
       ∧ (1 ≤ d → d ≤ 4094 →
           (pwmOn d .edge position = true ↔ position < d)
           ∧ (pwmOn d .centre position = true ↔ (4096 - d) / 2 ≤ position ∧ position < (4096 - d) / 2 + d)))
     ∧ ∀ (x : Channel), x.active.duty ≤ 4095 →
         (((List.range 4096).filter x.pin).length = if x.active.duty = 4095 then 4096 else x.active.duty))

/-- R108, R109: the carriers. OFF is always in its on-phase, SQUARE while its count is below its on-frames, FLICKER
while the low byte of the register is below ⌊n × 256/P⌋, which a stored record keeps between 1 and 254. At each step the
register shifts one place down, and its bit 15 becomes the exclusive-or of bits 0, 2, 3 and 5; it never reaches 0; and a
lower threshold is on in a subset of the frames. -/
def Obligations.CarriersDecideTheirPhase : Prop :=
  (∀ (r : CarrierRec) (count : Nat) (x : BitVec 16),
    (r.mode = .off → r.onPhase count x = true)
    ∧ (r.mode = .square → (r.onPhase count x = true ↔ count < r.onFrames))
    ∧ (r.mode = .flicker → (r.onPhase count x = true ↔ x.toNat % 256 < r.onFrames * 256 / r.period))
    ∧ (2 ≤ r.period → r.period ≤ 255 → 1 ≤ r.onFrames → r.onFrames < r.period →
        1 ≤ r.onFrames * 256 / r.period ∧ r.onFrames * 256 / r.period ≤ 254))
  ∧ (∀ x : BitVec 16,
      (∀ i : Nat, i < 15 → (flickerStep x).getLsbD i = x.getLsbD (i + 1))
      ∧ (flickerStep x).getLsbD 15 = (((x.getLsbD 0 ^^ x.getLsbD 2) ^^ x.getLsbD 3) ^^ x.getLsbD 5)
      ∧ (x ≠ 0 → flickerStep x ≠ 0))
  ∧ ∀ (r q : CarrierRec) (m n : Nat) (x : BitVec 16), r.mode = .flicker → q.mode = .flicker →
      r.threshold ≤ q.threshold → r.onPhase m x = true → q.onPhase n x = true

/-! ### Sound Engine -/

/-- R133, R134, R138: SET BED. An output above 3, or a clip that is neither 0 to 255 nor NONE (0xFFFF), is answered
BAD_ARG and changes nothing. Otherwise the bed's gain, duck level and clip are set, and in SHOW its playback acts on the
clip: with NONE the bed is OFF, a clip that is going on goes on, and any other begins from its start; a playback that is
dropped discards a burst of the bed in flight, and its cursor, bytes left and buffer are then those at reset (the model's
reading: log entry 20). The duck stage is kept, and no other bed and no voice is touched. -/
def Obligations.BedsAreSet : Prop :=
  ∀ (s : State) (n low high gain : Byte) (rest : List Request), s.RequestNext 0x13 [n, low, high, gain] rest →
    let number := low.toNat + 256 * high.toNat
    let refused (status : Byte) : Prop := exec .setBed s = .next ((s.took rest).replied 0x13 [status]).finish
    (s.store.mode = .loading → refused 4)
    ∧ (s.store.mode ≠ .loading → 4 ≤ n.toNat ∨ (256 ≤ number ∧ number ≠ 65535) → refused 3)
    ∧ ∀ (o : Fin 4) (clip : Option (Fin 256)), s.store.mode ≠ .loading → n.toNat = o.val →
        number = (match clip with | some c => c.val | none => 65535) →
        let bed := s.sound.beds[o]
        let set : Bed :=
          { bed with clip := clip, gain := gain.toNat, duck := min (s.store.tables.bed o).duck gain.toNat }
        let goesOn := decide (clip ≠ none) && decide (clip = bed.clip) && bed.playing
        let after (bed : Bed) (flight : Option Flight) : State :=
          { s.took rest with sound := { s.sound with beds := s.sound.beds.set o bed, flight := flight } }
        let dropped : Option Flight := match s.sound.flight with
          | some (.stream m a k d) => some (.stream m a k (d || decide (m.val = 4 + o.val)))
          | some .image => some .image
          | none => none
        let answered (t : State) : Prop := exec .setBed s = .next (t.replied 0x13 [0]).finish
        (s.store.mode = .standby ∨ goesOn = true → answered (after set s.sound.flight))
        ∧ (s.store.mode = .running → clip = none →
            answered (after { set with state := .off, feed := Feed.reset } dropped))
        ∧ ∀ c : Fin 256, s.store.mode = .running → goesOn = false → clip = some c →
            let r := s.store.tables.clip c
            answered (after { set with state := .priming, feed := Feed.start (r.variant 0) r.loop } dropped)

/-- R128, R135, R139 to R141: the sample event. A PLAYING stream takes the oldest byte of its buffer, and when the
buffer empties it ends with no bytes left and else is STALLED; a FADING voice takes one as well, and any other stream
none. The sample of each output is 0 under HOUSE, and else the sum of its bed's and its voices' terms, saturated to
−32,768 … 32,767. -/
def Obligations.SampleEventTakesAndMixes : Prop :=
  ∀ s : State, s.inReset = false →
    ∃ t : State, exec .sampleEvent s = .next t.finish
      ∧ { t with sound := s.sound } = s
      ∧ { t.sound with voices := s.sound.voices, beds := s.sound.beds, out := s.sound.out } = s.sound
      ∧ (∀ v : Fin 4,
          let x := s.sound.voices[v]
          let y := t.sound.voices[v]
          (∀ (b : Byte) (rest : List Byte), x.state = .playing → x.feed.buffer = b :: rest →
            y.feed = { x.feed with buffer := rest } ∧ y.output = x.output
            ∧ (rest ≠ [] → y.state = .playing)
            ∧ (rest = [] → x.feed.left = 0 → y.state = .idle ∧ y.clip = none ∧ y.variant = none)
            ∧ (rest = [] → 0 < x.feed.left → y.state = .stalled ∧ y.stall = 0))
          ∧ (∀ (b : Byte) (rest : List Byte), x.state = .fading → x.feed.buffer = b :: rest →
            y = { x with feed := { x.feed with buffer := rest } })
          ∧ (x.feed.buffer = [] ∨ x.state ≠ .playing ∧ x.state ≠ .fading → y = x))
      ∧ (∀ o : Fin 4,
          let x := s.sound.beds[o]
          let y := t.sound.beds[o]
          (∀ (b : Byte) (rest : List Byte), x.state = .playing → x.feed.buffer = b :: rest →
            y.feed = { x.feed with buffer := rest } ∧ y.stage = x.stage
            ∧ y.state = if rest ≠ [] then .playing else if x.feed.left = 0 then .ended else .stalled)
          ∧ (x.feed.buffer = [] ∨ x.state ≠ .playing → y = x))
      ∧ ∀ o : Fin 4,
          let voiceTerm (v : Fin 4) : Int :=
            let x := s.sound.voices[v]
            match x.state, x.feed.buffer with
            | .playing, b :: _ => if x.output = o then decodeSample b else 0
            | .fading, b :: _ => if x.output = o then (decodeSample b * (255 * (8 - x.fade) : Nat)).tdiv 2040 else 0
            | _, _ => 0
          let bedTerm : Int :=
            let x := s.sound.beds[o]
            match x.state, x.feed.buffer with
            | .playing, b :: _ => (decodeSample b * ((x.gain - (x.gain - x.duck) * x.stage / 7 : Nat) : Int)).tdiv 255
            | _, _ => 0
          let sum := bedTerm + voiceTerm 0 + voiceTerm 1 + voiceTerm 2 + voiceTerm 3
          t.sound.out[o] = (if s.sound.house then 0 else max (-32768) (min 32767 sum))

/-- R130, R131, R136, R142: the sound frame event, for each voice and bed once in a show frame (log entry 2). A FADING
voice's stage and a STALLED voice's frames rise by 1; at 8 and at 50 the playback is dropped, with the values that log
entry 20 gives a dropped playback, and a stall that ends so queues VOICE_UNDERRUN (for several voices by rising number,
the model's choice: log entry 11); a burst in flight of a voice whose playback drops, and of no other, is marked as
dropped. In SHOW each bed's envelope acts, on the voices as they then stand (log entry 11): its output speaks while a
voice of it is PRIMING, PLAYING or STALLED, and the wanted direction is then UP and else DOWN; a change of direction sets
the timer to 0 and does no more; at stage 7 or 0 the timer is 0; and else the timer rises by 1, and when it reaches the
duck step the stage moves by 1 and the timer is 0. FADE_OUT_END, STALL_TIMEOUT and DUCK_STEP are the same for one voice
or bed. Nothing outside the Sound Engine changes. -/
def Obligations.SoundFrameCountsStages : Prop :=
  ∀ (s : State) (f : Nat), s.inReset = false →
    let counted (v : Fin 4) : Voice :=
      let x := s.sound.voices[v]
      if x.frame = some f then x
      else match x.state with
        | .fading => if 7 ≤ x.fade
            then { x with state := .idle, clip := none, variant := none, feed := Feed.reset, fade := 8, frame := some f }
            else { x with fade := x.fade + 1, frame := some f }
        | .stalled => if 49 ≤ x.stall
            then { x with state := .idle, clip := none, variant := none, feed := Feed.reset, stall := 50,
                          frame := some f }
            else { x with stall := x.stall + 1, frame := some f }
        | .idle | .priming | .playing => { x with frame := some f }
    let enveloped (b : Fin 4) (speaking : Bool) : Bed :=
      let x := s.sound.beds[b]
      let wanted : DuckDir := if speaking then .up else .down
      let atRest : Bool := if speaking then decide (7 ≤ x.stage) else decide (x.stage = 0)
      if x.frame = some f then x
      else if s.store.mode ≠ .running then { x with frame := some f }
      else if x.dir ≠ wanted then { x with dir := wanted, timer := 0, frame := some f }
      else if atRest then { x with timer := 0, frame := some f }
      else if (s.store.tables.bed b).step ≤ x.timer + 1 then
        { x with stage := if speaking then x.stage + 1 else x.stage - 1, timer := 0, frame := some f }
      else { x with timer := x.timer + 1, frame := some f }
    let speaks (voices : Vector Voice 4) (b : Fin 4) : Bool := (List.finRange 4).any fun v =>
      decide ((voices[v]).output = b) && match (voices[v]).state with
        | .priming | .playing | .stalled => true
        | .idle | .fading => false
    let dropped (v : Fin 4) : Option Flight := match s.sound.flight with
      | some (.stream m a k d) => some (.stream m a k (d || decide (m.val = v.val)))
      | some .image => some .image
      | none => none
    let one (v : Fin 4) : State :=
      { s with frame := some f, sound := { s.sound with
          voices := s.sound.voices.set v (counted v), flight := dropped v } }
    (∃ t : State, exec (.soundFrameEvent f) s = .next t.finishLink
      ∧ { t with sound := s.sound, link := s.link, frame := s.frame } = s ∧ t.frame = some f
      ∧ { t.sound with voices := s.sound.voices, beds := s.sound.beds, flight := s.sound.flight } = s.sound
      ∧ (∀ v : Fin 4, t.sound.voices[v] = counted v)
      ∧ (∀ b : Fin 4, t.sound.beds[b] = enveloped b (speaks t.sound.voices b))
      ∧ t.sound.flight = (match s.sound.flight with
          | some (.stream m a k d) => some (.stream m a k (d || (List.finRange 4).any fun v =>
              decide (m.val = v.val) && !decide ((s.sound.voices[v]).frame = some f)
              && !decide ((s.sound.voices[v]).state = .idle) && decide ((counted v).state = .idle)))
          | some .image => some .image
          | none => none)
      ∧ t.link = (List.finRange 4).foldl
          (fun (l : Link) (v : Fin 4) =>
            let x := s.sound.voices[v]
            let owner := s.engine.claims.voices[v]
            if x.frame ≠ some f ∧ x.state = .stalled ∧ 49 ≤ x.stall then
              l.raise (.voiceUnderrun v owner (s.sceneOf owner) x.clip (x.variant.map (·.2)) x.feed.left)
            else l)
          s.link)
    ∧ (∀ v : Fin 4, (s.sound.voices[v]).frame ≠ some f →
        let x := s.sound.voices[v]
        let owner := s.engine.claims.voices[v]
        let lost : Report := .voiceUnderrun v owner (s.sceneOf owner) x.clip (x.variant.map (·.2)) x.feed.left
        (x.state = .fading → 7 ≤ x.fade → exec (.fadeOutEnd v f) s = .next (one v))
        ∧ (x.state = .stalled → 49 ≤ x.stall →
            exec (.stallTimeout v f) s = .next (State.finishLink { one v with link := s.link.raise lost })))
    ∧ ∀ b : Fin 4, (s.sound.beds[b]).frame ≠ some f → s.store.mode = .running →
        (enveloped b (speaks s.sound.voices b)).stage ≠ (s.sound.beds[b]).stage →
        exec (.duckStep b f) s = .next
          { s with frame := some f, sound := { s.sound with
              beds := s.sound.beds.set b (enveloped b (speaks s.sound.voices b)) } }

/-- R125, R127, R129, R134, R135: a burst of a stream completes. A burst whose playback has ended is discarded.
Otherwise its bytes join the stream's buffer, its cursor and bytes left move by their number, and a looping clip whose
bytes are all fetched begins again (past the last byte of the flash the 26-bit cursor is a free value of the model: log
entry 28); PRIMING becomes PLAYING at a fill of 256, STALLED at 128, and either when no bytes
are left (the bytes left before a looping clip wraps: log entry 25). With no burst of a stream in flight nothing happens
(the model's choice: log entry 9). -/
def Obligations.BurstCompletionFeedsTheStream : Prop :=
  ∀ (s : State) (data : List Byte), s.inReset = false →
    let landed : Sound := { s.sound with flight := none }
    let fed (x : Feed) : Feed :=
      let next := x.cursor + data.length
      let cursor := if next < 67108864 then next else (Config.cursorPastFlash next).toNat
      let y := { x with buffer := x.buffer ++ data, cursor := cursor,
                        left := x.left - data.length }
      if x.left ≤ data.length ∧ x.loop = true then { y with cursor := x.address, left := x.length } else y
    let full (x : Feed) (mark : Nat) : Prop := mark ≤ x.buffer.length + data.length ∨ x.left ≤ data.length
    (s.sound.flight = none ∨ s.sound.flight = some .image → exec (.burstComplete data) s = .next s)
    ∧ (∀ (n : Fin 8) (a k : Nat), s.sound.flight = some (.stream n a k true) →
        exec (.burstComplete data) s = .next (State.finish { s with sound := landed }))
    ∧ (∀ (v : Fin 4) (n : Fin 8) (a : Nat), n.val = v.val → s.sound.flight = some (.stream n a data.length false) →
        let x := s.sound.voices[v]
        ∃ y : Voice,
          exec (.burstComplete data) s = .next
            (State.finish { s with sound := { landed with voices := s.sound.voices.set v y } })
          ∧ { y with feed := x.feed, state := x.state, stall := x.stall } = x ∧ y.feed = fed x.feed
          ∧ (x.state = .priming ∧ full x.feed 256 ∨ x.state = .stalled ∧ full x.feed 128 →
              y.state = .playing ∧ (x.state = .stalled → y.stall = 0))
          ∧ (¬ (x.state = .priming ∧ full x.feed 256 ∨ x.state = .stalled ∧ full x.feed 128) →
              y.state = x.state ∧ y.stall = x.stall))
    ∧ ∀ (b : Fin 4) (n : Fin 8) (a : Nat), n.val = 4 + b.val → s.sound.flight = some (.stream n a data.length false) →
        let x := s.sound.beds[b]
        ∃ y : Bed,
          exec (.burstComplete data) s = .next
            (State.finish { s with sound := { landed with beds := s.sound.beds.set b y } })
          ∧ { y with feed := x.feed, state := x.state } = x ∧ y.feed = fed x.feed
          ∧ (x.state = .priming ∧ full x.feed 256 ∨ x.state = .stalled ∧ full x.feed 128 → y.state = .playing)
          ∧ (¬ (x.state = .priming ∧ full x.feed 256 ∨ x.state = .stalled ∧ full x.feed 128) → y.state = x.state)

/-- R124: the fetch arbiter. A stream requests exactly while its playback is in progress (a voice is not IDLE, a bed is
PRIMING, PLAYING or STALLED), its fill is at most 256 and its bytes left are above 0. A grant is made only when no burst
is in flight: to a requesting stream, such that no requesting stream has a lower fill, and that of those with the same
fill it is the first in the order that begins after the stream served last. Its burst is of 64 bytes, or of the bytes
left, at its cursor. An image read is granted only when no stream requests. The end of a command that can bring a stream
or an image read to wait makes the grant, with an image read waiting exactly while a load is in progress (log entry 5). -/
def Obligations.ArbiterServesTheLowestFill : Prop :=
  (∀ (x : Sound) (imageWaits : Bool),
    let voice (n : Fin 8) : Voice := x.voices[Fin.ofNat 4 n.val]
    let bed (n : Fin 8) : Bed := x.beds[Fin.ofNat 4 n.val]
    let feed (n : Fin 8) : Feed := if n.val < 4 then (voice n).feed else (bed n).feed
    let plays (n : Fin 8) : Prop :=
      n.val < 4 ∧ (voice n).state ≠ .idle
      ∨ 4 ≤ n.val ∧ ((bed n).state = .priming ∨ (bed n).state = .playing ∨ (bed n).state = .stalled)
    let fill (n : Fin 8) : Nat := (feed n).buffer.length
    let requests (n : Fin 8) : Prop := plays n ∧ fill n ≤ 256 ∧ 0 < (feed n).left
    let turn (n : Fin 8) : Nat := (n.val + 7 - x.served.val) % 8
    (∀ n : Fin 8, (requests n → x.requesting? n = some (feed n)) ∧ (¬ requests n → x.requesting? n = none))
    ∧ (∀ flight : Flight, x.flight = some flight → x.grant imageWaits = x)
    ∧ (x.flight = none → (∀ n : Fin 8, ¬ requests n) →
        x.grant imageWaits = if imageWaits then { x with flight := some .image } else x)
    ∧ (x.flight = none → (∃ n : Fin 8, requests n) →
        ∃ n : Fin 8, requests n
          ∧ x.grant imageWaits =
              { x with served := n, flight := some (.stream n (feed n).cursor (min 64 (feed n).left) false) }
          ∧ ∀ m : Fin 8, requests m → fill n < fill m ∨ (fill n = fill m ∧ turn n ≤ turn m)))
  ∧ ∀ s : State, s.finish = { s.finishLink with sound := s.sound.grant s.store.load.isSome }

/-- R123: the clip byte. Bit 7 is the sign, bits 6 to 4 the exponent e and bits 3 to 0 the mantissa m; the magnitude is
((16 + m) × 2^e − 16) × 8, which lies between 0 and 31,616; the rows of the rule's table; and a burst that the flash
does not drive decodes to a steady −31,616. -/
def Obligations.ClipBytesDecode : Prop :=
  (∀ b : Byte,
    let e := b.toNat / 16 % 8
    let m := b.toNat % 16
    let magnitude : Int := ((16 + m) * 2 ^ e - 16) * 8
    0 ≤ magnitude ∧ magnitude ≤ 31616
    ∧ decodeSample b = if 128 ≤ b.toNat then -magnitude else magnitude)
  ∧ decodeSample 0x00 = 0 ∧ decodeSample 0x80 = 0 ∧ decodeSample 0x0F = 120 ∧ decodeSample 0x35 = 1216
  ∧ decodeSample 0xB5 = -1216 ∧ decodeSample 0xC2 = -2176 ∧ decodeSample 0x7F = 31616 ∧ decodeSample 0xFF = -31616
  ∧ ∀ k : Nat, (burstData k []).map decodeSample = List.replicate k (-31616)

/-! ### Motion Engine -/

/-- R147, R148, R163: MOVE AXIS and HOME AXIS. Outside STANDBY they are answered WRONG_STATE, and an argument outside its
range BAD_ARG. Otherwise the reply carries ACCEPTED (0) or REFUSED (1) with the axis state, and only the axis changes. A
MOVE, clamped to the soft limits, moves a homed IDLE axis whose hold condition is clear, or leaves it IDLE at its target;
becomes the pending move of a homing on an axis that is not homed; and is held while the hold condition is present. R152:
on a MOVING axis it changes the target, if that lies ahead beyond the braking distance, and else stops the axis to follow
on from rest; on a STOPPING or HELD axis it replaces what was to follow. A HOME begins a homing, follows on a stop, or is
held; on a HOMING axis the pending move is discarded, and the homing goes on (R148) or is stopped to be followed by a new
one (R155), as a free value decides: that it is one of these two is the model's choice (log entry 26). An axis in FAULT
refuses a MOVE, and with cause ESTOP a HOME. -/
def Obligations.LinkMovesAndHomesAxes : Prop :=
  ∀ (s : State) (n : Byte) (rest : List Request),
    (∀ b0 b1 b2 b3 profile : Byte, s.RequestNext 0x16 [n, b0, b1, b2, b3, profile] rest →
      let position := getS32 [n, b0, b1, b2, b3, profile] 1
      let answered (y : State) (reply : List Byte) : Prop := exec .moveAxis s = .next (y.replied 0x16 reply).finishLink
      (s.store.mode ≠ .standby → answered (s.took rest) [4])
      ∧ (s.store.mode = .standby → 8 ≤ n.toNat ∨ position < -1000000 ∨ 1000000 < position
          ∨ (16 ≤ profile.toNat ∧ profile ≠ 0xFF) → answered (s.took rest) [3])
      ∧ ∀ (a : Fin 8) (p : Fin 16), s.store.mode = .standby → n.toNat = a.val →
          -1000000 ≤ position → position ≤ 1000000 →
          (profile.toNat = p.val ∨ profile = 0xFF ∧ p = (s.store.tables.axis a).profile) →
          let r := s.store.tables.axis a
          let x := s.motion.axes[a]
          let target := r.limit position
          let became (y : Axis) (reply : List Byte) : Prop := answered ((s.took rest).setAxis a y) ([0, 0] ++ reply)
          let homing : Axis :=
            { x with state := .homing, homed := false, position := 0, rate := r.homeRate, acc := 0, dir := .negative,
                     target := none, profile := none, ending := none, follow := none, wait := none, cause := none,
                     pendingMove := some ⟨target, p⟩ }
          (x.state = .fault → answered (s.took rest) [0, 1, 6])
          ∧ (x.state = .idle → x.homed = true → s.holdPresent a = false → target = x.position → became x.idle [2])
          ∧ (x.state = .idle → x.homed = true → s.holdPresent a = false → target ≠ x.position →
              became
                { x with state := .moving, rate := 0, acc := 0, target := some target, profile := some p,
                         dir := if x.position < target then .positive else .negative, ending := none, follow := none,
                         pendingMove := none, wait := none, cause := none } [3])
          ∧ (x.state = .idle → x.homed = true → s.holdPresent a = true →
              became
                { x with state := .held, rate := 0, acc := 0, target := none, profile := none, ending := none,
                         follow := some (.move ⟨target, p⟩), wait := none, cause := none } [5])
          ∧ (x.state = .unhomed ∨ (x.state = .idle ∧ x.homed = false) → s.holdPresent a = false → became homing [1])
          ∧ (x.state = .homing → became { x with pendingMove := some ⟨target, p⟩ } [1])
          ∧ (x.state = .unhomed ∨ (x.state = .idle ∧ x.homed = false) → s.holdPresent a = true →
              became
                { x with state := .held, rate := 0, acc := 0, target := none, profile := none, ending := none,
                         follow := some .home, wait := none, cause := none, pendingMove := some ⟨target, p⟩ } [5])
          ∧ (x.state = .moving →
              let accel := (s.store.tables.profile p).accel
              let ahead := x.dir = .positive ∧ x.position < target ∨ x.dir = .negative ∧ target < x.position
              let beyond := x.rate * x.rate / (2000 * accel) < (target - x.position).natAbs
              (x.target = some target → became x [3])
              ∧ (x.target ≠ some target → ahead → beyond →
                  became { x with target := some target, profile := some p } [3])
              ∧ (x.target ≠ some target → ¬ (ahead ∧ beyond) →
                  became { x with state := .stopping, ending := some .next, follow := some (.move ⟨target, p⟩) } [4]))
          ∧ (∀ code : Byte, x.state = .stopping ∧ x.ending = some .held ∧ code = 4 ∨ x.state = .held ∧ code = 5 →
              (x.homed = true ∨ x.follow ≠ some .home →
                became { x with follow := some (.move ⟨target, p⟩), pendingMove := none } [code])
              ∧ (x.homed = false → x.follow = some .home →
                  became { x with pendingMove := some ⟨target, p⟩ } [code]))
          ∧ (x.state = .stopping → x.ending ≠ some .held →
              became { x with ending := some .next, follow := some (.move ⟨target, p⟩), pendingMove := none } [4]))
    ∧ (s.RequestNext 0x17 [n] rest →
        let answered (y : State) (reply : List Byte) : Prop := exec .homeAxis s = .next (y.replied 0x17 reply).finishLink
        (s.store.mode ≠ .standby → answered (s.took rest) [4])
        ∧ (s.store.mode = .standby → 8 ≤ n.toNat → answered (s.took rest) [3])
        ∧ ∀ a : Fin 8, s.store.mode = .standby → n.toNat = a.val →
            let r := s.store.tables.axis a
            let x := s.motion.axes[a]
            let became (y : Axis) (code : Byte) : Prop := answered ((s.took rest).setAxis a y) [0, 0, code]
            let atRest := x.state = .idle ∨ x.state = .unhomed ∨ (x.state = .fault ∧ x.cause ≠ some .estop)
            let stops := became
              { x with state := .stopping, ending := some .next, follow := some .home, pendingMove := none } 4
            (x.state = .fault → x.cause = some .estop → answered (s.took rest) [0, 1, 6])
            ∧ (atRest → s.holdPresent a = false →
                became
                  { x with state := .homing, homed := false, position := 0, rate := r.homeRate, acc := 0,
                           dir := .negative, target := none, profile := none, ending := none, follow := none,
                           pendingMove := none, wait := none, cause := none } 1)
            ∧ (atRest → s.holdPresent a = true →
                became
                  { x with state := .held, rate := 0, acc := 0, target := none, profile := none, ending := none,
                           follow := some .home, pendingMove := none, wait := none, cause := none } 5)
            ∧ (x.state = .homing →
                if Config.homeStopsHoming = true then stops else became { x with pendingMove := none } 1)
            ∧ (x.state = .moving ∨ x.state = .stopping ∧ x.ending ≠ some .held → stops)
            ∧ (x.state = .stopping → x.ending = some .held →
                became { x with follow := some .home, pendingMove := none } 4)
            ∧ (x.state = .held → became { x with follow := some .home, pendingMove := none } 5))

/-- R60, R146, R150, R151, R153 to R156, R158, R160, R164: the profile interval event of an axis. Its switches are
sampled; at rest nothing else happens. A MOVING axis takes the steps of its new rate toward its target, in either
direction, but never past it, and is IDLE when it arrives or when a soft limit comes first. A homed one meeting the LIMIT
switch ahead, or the HOME switch above 0, is in FAULT with cause LIMIT and its report, and stops the player that awaits
the axis (that AXIS_FAULT is queued before what this stop reports is the model's choice: log entry 16). A homed STOPPING axis comes to rest at the creep rate, at its target or at a soft limit, and else slows down
(what becomes of a rate between the creep rate and the deceleration is the model's choice: log entry 27); then its stop
ending decides: IDLE, HELD with the follow-on activity, or the activity begins. A HOMING axis takes the steps of its home
rate downwards, until the HOME switch is found: then it is homed at 0, IDLE or MOVING to its pending target, with its
report; beyond the search limit it is in FAULT with cause HOME_NOT_FOUND. A STOPPING axis that is not homed slows down
likewise, and finds its home or does not (with ending HELD its pending move is then held: log entry 12). -/
def Obligations.ProfileIntervalMovesTheAxis : Prop :=
  ∀ (s : State) (a : Fin 8) (home limit : Bool), s.inReset = false →
    let r := s.store.tables.axis a
    let x : Axis := { s.motion.axes[a] with homeSwitch := home, limitSwitch := limit, pulses := 0 }
    let hold := s.holdPresent a
    let owner := s.engine.claims.axes[a]
    let becomes (y : Axis) (link : Link) : Prop :=
      exec (.profileIntervalEvent a home limit) s = .next (State.finishLink { s.setAxis a y with link := link })
    let taken (y : Axis) (dir : Direction) (n : Nat) : Axis :=
      { y with position := if dir = .positive then y.position + n else y.position - n, pulses := n, pulseDir := dir }
    let room (dir : Direction) : Nat :=
      if dir = .positive then (r.maxPos - x.position).toNat else (x.position - r.minPos).toNat
    let atRest (y : Axis) : Axis := { y with rate := 0, acc := 0, target := none, profile := none }
    let idle (y : Axis) : Axis :=
      { atRest y with state := .idle, ending := none, follow := none, pendingMove := none, wait := none, cause := none }
    let faulted (y : Axis) (cause : AxisCause) : Axis :=
      { atRest y with state := .fault, homed := false, cause := some cause, ending := none, follow := none,
                      pendingMove := none, wait := none }
    let moves (y : Axis) (m : Move) : Axis :=
      let target := r.limit m.target
      { idle y with state := .moving, target := some target, profile := some m.profile,
                    dir := if y.position < target then .positive else if target < y.position then .negative else y.dir }
    let homes (y : Axis) (pending : Option Move) : Axis :=
      { idle y with state := .homing, homed := false, position := 0, rate := r.homeRate, dir := .negative,
                    pendingMove := pending }
    let held (y : Axis) (act : Activity) : Axis :=
      { atRest y with state := .held, ending := none, follow := some act, cause := none,
                      wait := if hold then none else some r.resume }
    let ends (y : Axis) (link : Link) : Prop :=
      (y.ending = some .idle → becomes (idle y) link)
      ∧ (∀ act : Activity, y.follow = some act →
          (y.ending = some .held → hold = true ∨ r.resume ≠ 0 → becomes (held y act) link)
          ∧ (y.ending = some .next → hold = true → becomes (held y act) link))
      ∧ (y.ending = some .next → hold = false →
          (∀ m : Move, y.follow = some (.move m) →
            (y.homed = true → r.limit m.target = y.position → becomes (idle y) link)
            ∧ (y.homed = true → r.limit m.target ≠ y.position → becomes (moves y m) link)
            ∧ (y.homed = false → becomes (homes y (some ⟨r.limit m.target, m.profile⟩)) link))
          ∧ (y.follow = some .home → becomes (homes y y.pendingMove) link))
    let searches (rate : Nat) : Prop :=
      let acc := x.acc + rate
      let y : Axis := { taken x .negative (acc / 1000) with rate := rate, acc := acc % 1000 }
      (0 ≤ y.position + (r.maxPos - r.minPos) + 1000 → becomes y s.link)
      ∧ (y.position + (r.maxPos - r.minPos) + 1000 < 0 → owner = none →
          becomes (faulted y .homeNotFound) (s.link.raise (.axisFault a .homeNotFound y.position none none)))
    let switched := x.dir = .positive ∧ limit = true ∨ x.dir = .negative ∧ home = true ∧ 0 < x.position
    let found : Axis := { atRest x with homed := true, position := 0 }
    let homed : Link := s.link.raise (.axisHomed a owner)
    (x.state = .idle ∨ x.state = .unhomed ∨ x.state = .held ∨ x.state = .fault → becomes x s.link)
    ∧ (x.state = .homing → home = true →
        (x.pendingMove = none → becomes (idle found) homed)
        ∧ ∀ m : Move, x.pendingMove = some m → becomes (moves found m) homed)
    ∧ (x.state = .homing → home = false → searches r.homeRate)
    ∧ (x.state = .moving ∨ x.state = .stopping → x.homed = true → switched →
        (owner = none → becomes (faulted x .limit) (s.link.raise (.axisFault a .limit x.position none none)))
        ∧ ∀ (p : Fin 8) (run : Run), owner = some p → s.engine.players[p] = some run →
            let reported : State := { s.setAxis a (faulted x .limit) with
              link := s.link.raise (.axisFault a .limit x.position (some p) (some run.scene)) }
            let cue := ((s.store.tables.cue run.cue).cue?).getD .finish
            let awaits := (∃ w : Await, run.phase = .awaiting w ∧ (w.cond = .axisDone a ∨ w.cond = .axesDone))
              ∨ run.phase = .blocked
                ∧ (cue = .home a ∨ ∃ (position : Int) (profile : Option (Fin 16)), cue = .move a position profile)
            (¬ awaits → exec (.profileIntervalEvent a home limit) s = .next reported.finishLink)
            ∧ (awaits → s.engine.queue = [] →
                (s.engine.scenes[run.scene]).again = false ∨ s.engine.house = true →
                ∃ t : State, exec (.profileIntervalEvent a home limit) s = .next t.finishLink
                  ∧ reported.StopsPlayer t p run .axisFault))
    ∧ (∀ (target : Int) (profile : Fin 16), x.state = .moving → x.target = some target → x.profile = some profile →
        x.homed = false ∨ ¬ switched → x.position ≠ target →
        let p := s.store.tables.profile profile
        let left := (target - x.position).natAbs
        let dir : Direction := if x.position < target then .positive else .negative
        let rate :=
          if left ≤ x.rate * x.rate / (2000 * p.accel) then max (x.rate - p.accel) (min p.accel p.top)
          else if p.top < x.rate then max (x.rate - p.accel) p.top
          else min (x.rate + p.accel) p.top
        let acc := x.acc + rate
        let steps := min (acc / 1000) left
        (room dir < steps → becomes { idle (taken x dir (room dir)) with dir := dir } s.link)
        ∧ (steps ≤ room dir → left ≤ acc / 1000 →
            becomes { idle (taken x dir left) with dir := dir, position := target } s.link)
        ∧ (steps ≤ room dir → acc / 1000 < left →
            becomes { taken x dir (acc / 1000) with dir := dir, rate := rate, acc := acc % 1000 } s.link))
    ∧ (∀ (target : Int) (profile : Fin 16), x.state = .stopping → x.homed = true → x.target = some target →
        x.profile = some profile → ¬ switched →
        let p := s.store.tables.profile profile
        let left := (target - x.position).natAbs
        let rate := x.rate - p.accel
        let acc := x.acc + rate
        let steps := min (acc / 1000) left
        (x.rate ≤ min p.accel p.top → ends x s.link)
        ∧ (min p.accel p.top < x.rate →
            (room x.dir < steps → ends (taken x x.dir (room x.dir)) s.link)
            ∧ (steps ≤ room x.dir → left ≤ acc / 1000 → ends (taken x x.dir left) s.link)
            ∧ (steps ≤ room x.dir → acc / 1000 < left →
                becomes { taken x x.dir (acc / 1000) with rate := rate, acc := acc % 1000 } s.link)))
    ∧ (x.state = .stopping → x.homed = false →
        let accel := (s.store.tables.profile r.profile).accel
        (home = false → x.rate ≤ accel → ends x s.link)
        ∧ (home = false → accel < x.rate → searches (x.rate - accel))
        ∧ (home = true → x.ending ≠ some .held → ends found homed)
        ∧ (home = true → x.ending = some .held →
            (x.pendingMove = none → becomes (idle found) homed)
            ∧ ∀ m : Move, x.pendingMove = some m → hold = true ∨ r.resume ≠ 0 →
                becomes { held found (.move m) with pendingMove := none } homed))

/-- R146, R160: the motion frame event, for each axis once in a show frame (log entry 2). A resume wait above 1 falls by
1; at its last frame a held MOVE of a homed axis sets off from rate 0 toward its target, or leaves the axis IDLE there;
of an axis that is not homed, it becomes the pending move of a homing, clamped to the limits as they stand; and a held
HOME begins a homing from rate 0, with its pending move kept. An axis without a wait is left.
RESUME_WAIT_EXPIRY is the same for one axis whose wait ends, and nothing otherwise. -/
def Obligations.ResumeWaitsCount : Prop :=
  ∀ (s : State) (f : Nat), s.inReset = false →
    let limited (a : Fin 8) (m : Move) : Int :=
      (s.store.tables.axis a).limit m.target
    ∃ t : State, exec (.motionFrameEvent f) s = .next t
      ∧ { t with motion := s.motion, frame := s.frame } = s ∧ t.frame = some f
      ∧ { t.motion with axes := s.motion.axes } = s.motion
      ∧ ∀ a : Fin 8,
          let x := s.motion.axes[a]
          let y := t.motion.axes[a]
          let ends := x.frame ≠ some f ∧ x.state = .held ∧ ∃ w : Nat, x.wait = some w ∧ w ≤ 1
          (x.frame = some f → y = x)
          ∧ (x.frame ≠ some f → (x.state ≠ .held ∨ x.wait = none) → y = { x with frame := some f })
          ∧ (∀ w : Nat, x.frame ≠ some f → x.state = .held → x.wait = some w → 1 < w →
              y = { x with frame := some f, wait := some (w - 1) })
          ∧ (∀ m : Move, ends → x.follow = some (.move m) → x.homed = true →
              (limited a m = x.position → y.state = .idle ∧ y.position = x.position ∧ y.homed = true)
              ∧ (limited a m ≠ x.position → y.state = .moving ∧ y.rate = 0 ∧ y.position = x.position
                  ∧ y.homed = true ∧ y.target = some (limited a m) ∧ y.profile = some m.profile))
          ∧ (∀ m : Move, ends → x.follow = some (.move m) → x.homed = false →
              y.state = .homing ∧ y.rate = 0 ∧ y.position = 0 ∧ y.homed = false
              ∧ y.pendingMove = some ⟨limited a m, m.profile⟩)
          ∧ (ends → x.follow = some .home → y.state = .homing ∧ y.rate = 0 ∧ y.position = 0 ∧ y.homed = false
              ∧ y.pendingMove = x.pendingMove)
          ∧ (ends → exec (.resumeWaitExpiry a f) s = .next { s.setAxis a y with frame := some f })
          ∧ (¬ ends → exec (.resumeWaitExpiry a f) s = .next s)

/-! ### Zone Monitor and the safety inputs -/

/-- R59, R117, R118, R141, R159 to R161, R179: HOUSE_EVENT and ESTOP_EVENT. A HOUSE change is published after two
differing samples, ESTOP asserted after one and released after two, and the first sample after reset directly; a sample
that publishes nothing is no event (the model's choice: log entry 2). At a HOUSE event each participating channel is
restaged at once, with its house level and mark or its gated duty, axes whose hold condition comes to be present, when
MOVING or HOMING, stop toward HELD with their activity to follow, a stop that was to go on is HELD too, and a HELD axis
loses its wait; HELD axes whose condition clears begin their wait, or resume at once with a delay of 0; R32: at its release a rescan follows. At ESTOP every
axis is in FAULT with cause ESTOP where it stands and not homed, and the players that claim an axis are stopped with
reason ESTOP in increasing player number, each with its report; at its release every such axis is UNHOMED. The blocks'
copies take the state in the publishing step, and the report is queued last (the model's choice: log entry 17), but for a
first publication of a released input. Nothing else changes. -/
def Obligations.SafetyInputsArePublished : Prop :=
  (∀ (x : Axis) (r : AxisRec), x.ActsOnHolds r)
  ∧ (∀ (s : State) (asserted : Bool) (f : Nat), s.inReset = false → s.monitor.house.frame ≠ some f →
     let x := s.monitor.house
     let changes := x.published = true ∧ x.asserted ≠ asserted ∧ 1 ≤ x.count
     (¬ changes → x.published = true → exec (.houseEvent asserted f) s = .next s)
     ∧ (changes ∨ x.published = false →
         ∃ t : State,
           let rescanned := if asserted then t else t.rescan
           exec (.houseEvent asserted f) s =
             .next (if x.published ∨ asserted then rescanned.raise (.house asserted) else rescanned).finishLink
           ∧ (s.engine.queue = [] ∨ s.store.mode ≠ .running → t.rescan = t)
           ∧ t.pending = s.pending ∧ t.store = s.store ∧ t.frame = some f ∧ t.link = s.link
           ∧ t.monitor = { s.monitor with house := ⟨asserted, 0, true, some f⟩ }
           ∧ t.engine = { s.engine with house := asserted } ∧ t.sound = { s.sound with house := asserted }
           ∧ { t.light with channels := s.light.channels } = { s.light with house := asserted }
           ∧ (∀ c : Fin 48,
               let r := s.store.tables.channel c
               let was := s.light.channels[c]
               t.light.channels[c] = if r.participates then
                 { was with staged := if asserted then ⟨r.house, true⟩ else ⟨was.gated, false⟩ } else was)
           ∧ t.motion.house = asserted ∧ t.motion.estop = s.motion.estop
           ∧ ∀ a : Fin 8, t.motion.axes[a] =
               if s.holdPresent a = t.holdPresent a then s.motion.axes[a]
               else if t.holdPresent a then (s.motion.axes[a]).holdBegins
               else (s.motion.axes[a]).holdEnds (s.store.tables.axis a)))
  ∧ (∀ (s : State) (asserted : Bool) (f : Nat), s.inReset = false → s.monitor.estop.frame ≠ some f →
       let x := s.monitor.estop
       let changes := x.published = true ∧ x.asserted ≠ asserted ∧ (asserted = true ∨ 1 ≤ x.count)
       (¬ changes → x.published = true → exec (.estopEvent asserted f) s = .next s)
       ∧ (changes ∨ x.published = false →
           let stopped (p : Fin 8) : Option Run :=
             if asserted && (List.finRange 8).any fun a => decide (s.engine.claims.axes[a] = some p) then
               s.engine.players[p]
             else none
           (∀ p : Fin 8, stopped p = none) ∨ s.engine.queue = [] ∧ s.store.attractRunning = false →
           (∀ (p : Fin 8) (r : Run), stopped p = some r →
             (s.engine.scenes[r.scene]).again = false ∨ s.engine.house = true) →
           ∃ t : State, exec (.estopEvent asserted f) s = .next t.finishLink
             ∧ t.pending = s.pending ∧ t.store = s.store ∧ t.frame = some f ∧ t.light = s.light
             ∧ (let link := (List.finRange 8).foldl
                  (fun (l : Link) (p : Fin 8) => match stopped p with
                    | some r => l.raise (.sceneEnded r.scene p .estop r.cue)
                    | none => l)
                  s.link
                t.link = if x.published ∨ asserted then link.raise (.estop asserted) else link)
             ∧ t.monitor = { s.monitor with estop := ⟨asserted, 0, true, some f⟩ }
             ∧ { t.engine with
                 scenes := s.engine.scenes, players := s.engine.players, claims := s.engine.claims }
                 = { s.engine with estop := asserted }
             ∧ (∀ (p : Fin 8) (r : Run), stopped p = some r →
                 t.engine.players[p] = none ∧ t.engine.scenes[r.scene] = State.restOf { s with frame := some f } r.scene)
             ∧ (∀ p : Fin 8, stopped p = none → ∃ order : Nat,
                 t.engine.players[p] = (s.engine.players[p]).map fun y => { y with order := order })
             ∧ (∀ sc : Fin 64, (∀ (p : Fin 8) (r : Run), stopped p = some r → r.scene ≠ sc) →
                 t.engine.scenes[sc] = s.engine.scenes[sc])
             ∧ (∀ g : Fin 16, t.engine.claims.groups[g] = match s.engine.claims.groups[g] with
                 | .player p => if (stopped p).isSome then .none else .player p
                 | .none => .none
                 | .direct => .direct)
             ∧ (∀ a : Fin 8, t.engine.claims.axes[a] =
                 if (s.engine.claims.axes[a]).any fun p => (stopped p).isSome then none else s.engine.claims.axes[a])
             ∧ (∀ v : Fin 4, t.engine.claims.voices[v] =
                 if (s.engine.claims.voices[v]).any fun p => (stopped p).isSome then none
                 else s.engine.claims.voices[v])
             ∧ { t.sound with voices := s.sound.voices } = s.sound
             ∧ (∀ v : Fin 4, t.sound.voices[v] =
                 if (s.engine.claims.voices[v]).any fun p => (stopped p).isSome then (s.sound.voices[v]).fadeOut
                 else s.sound.voices[v])
             ∧ t.motion.estop = asserted ∧ t.motion.house = s.motion.house
             ∧ ∀ a : Fin 8,
                 let was := s.motion.axes[a]
                 t.motion.axes[a] =
                   if asserted then
                     { was with state := .fault, homed := false, cause := some .estop, rate := 0, acc := 0, target := none,
                                profile := none, ending := none, follow := none, pendingMove := none, wait := none }
                   else if was.state = .fault ∧ was.cause = some .estop then
                     { was with state := .unhomed, cause := none }
                   else was))

/-- R170, R174, R177, R178: SET LANGUAGE and SET LAMP. In LOADING they are answered WRONG_STATE; a zone above 11, a
language above 3 or outside the zone's language set, a button above 15 or a mode above 4 is answered BAD_ARG and changes
nothing. Otherwise the zone has the language, which the reply carries, and the lamp has the mode with its pattern, at the
start of its blink and with no flash; nothing else changes. -/
def Obligations.LanguagesAndLampsAreSet : Prop :=
  ∀ (s : State) (n m : Byte) (rest : List Request),
    let x := s.took rest
    (s.RequestNext 0x14 [n, m] rest →
      let answered (y : State) (reply : List Byte) : Prop := exec .setLanguage s = .next (y.replied 0x14 reply).finishLink
      (s.store.mode = .loading → answered x [4])
      ∧ (s.store.mode ≠ .loading → 12 ≤ n.toNat ∨ 4 ≤ m.toNat → answered x [3])
      ∧ ∀ (z : Fin 12) (l : Fin 4), s.store.mode ≠ .loading → n.toNat = z.val → m.toNat = l.val →
          ((s.store.tables.zone z).languages.getLsbD l = false → answered x [3])
          ∧ ((s.store.tables.zone z).languages.getLsbD l = true →
              answered { x with monitor := { s.monitor with
                zones := s.monitor.zones.set z { s.monitor.zones[z] with language := l } } } [0, m]))
    ∧ (s.RequestNext 0x15 [n, m] rest →
        let answered (y : State) (status : Byte) : Prop := exec .setLamp s = .next (y.replied 0x15 [status]).finishLink
        (s.store.mode = .loading → answered x 4)
        ∧ (s.store.mode ≠ .loading → 16 ≤ n.toNat ∨ 5 ≤ m.toNat → answered x 3)
        ∧ ∀ (b : Fin 16) (mode : LampMode), s.store.mode ≠ .loading → n.toNat = b.val → 
            (m.toNat = match mode with | .off => 0 | .on => 1 | .slow => 2 | .fast => 3 | .auto => 4) →
            let pattern := match mode with
              | .off => .off | .on => .on | .slow => .slow | .fast => .fast
              | .auto => autoPattern s.store s.engine.scenes s.monitor.house.asserted b
            answered { x with monitor := { s.monitor with
              lamps := s.monitor.lamps.set b
                { s.monitor.lamps[b] with mode := mode, pattern := pattern, blink := 0, flash := 0 } } } 0)

/-- R22, R159, R160, R167, R168: a zone becomes OCCUPIED from ENTERING, or CLEAR from EMPTYING. Its counter is 0,
ZONE_STATE is queued, and a HELD axis that it guards begins its resume wait when it clears, unless HOUSE is asserted;
what the beginning and the end of a hold do to an axis is given by its state. Then, in SHOW with triggers-enabled alone,
the ZONE_ENTRY or ZONE_CLEAR trigger is raised for every enabled scene that lists it, in rising scene number, each taken
whole before the next (that the axes act before the report, and the report is queued before the triggers, is the model's
reading: log entry 16); a TRIGGER request takes the same trigger, with source LINK, and answers its outcome and state. A
zone that is not at its last sample of either is left (the model's choice: log entry 2). -/
def Obligations.ZonesBecomeOccupiedAndClear : Prop :=
  (∀ (x : Axis) (r : AxisRec), x.ActsOnHolds r)
  ∧ (∀ (s : State) (n : Byte) (rest : List Request) (sc : Fin 64),
      s.RequestNext 0x0B [n] rest → n.toNat = sc.val → s.store.mode = .running →
      let y := (s.took rest).trigger sc .link
      exec .trigger s = .next
        (y.1.replied 0x0B ([0] ++ put8 y.2.code ++ put8 (y.1.engine.scenes[sc]).state.code)).finishLink)
  ∧ ∀ (s : State) (z : Fin 12) (f : Nat), s.inReset = false → (s.monitor.zones[z]).frame ≠ some f →
    let raised (y : State) (src : Source) : State × List TriggerOutcome :=
      if y.store.mode = .running ∧ y.store.triggersOn = true then
        ((List.finRange 64).filter fun (sc : Fin 64) => (y.store.tables.scene sc).enabled
            && decide (src ∈ (y.store.tables.scene sc).sources)).foldl
          (fun (a : State × List TriggerOutcome) (sc : Fin 64) =>
            ((a.1.trigger sc src).1, a.2 ++ [(a.1.trigger sc src).2])) (y, [])
      else (y, [])
    let x := s.monitor.zones[z]
    let r := s.store.tables.zone z
    let stepped (state : ZoneState) (raw : Bool) : State :=
      { s with
        frame := some f
        link := s.link.raise (.zoneState z state)
        monitor := { s.monitor with
          zones := s.monitor.zones.set z ⟨state, 0, x.language, raw, some f⟩ } }
    (x.state = .entering → r.entry ≤ x.counter + 1 →
      exec (.zoneBecomesOccupied z f) s =
        .next ((raised (stepped .occupied true) (.zoneEntry z)).1).finishLink)
    ∧ (x.state ≠ .entering ∨ x.counter + 1 < r.entry → exec (.zoneBecomesOccupied z f) s = .next s)
    ∧ (x.state = .emptying → r.clear ≤ x.counter + 1 →
        ∃ motion : Motion,
          exec (.zoneBecomesClear z f) s =
            .next ((raised { stepped .clear false with motion := motion } (.zoneClear z)).1).finishLink
          ∧ { motion with axes := s.motion.axes } = s.motion
          ∧ ∀ a : Fin 8, motion.axes[a] =
              if (s.store.tables.axis a).guard = some z ∧ s.motion.house = false then
                (s.motion.axes[a]).holdEnds (s.store.tables.axis a)
              else s.motion.axes[a])
    ∧ (x.state ≠ .emptying ∨ x.counter + 1 < r.clear → exec (.zoneBecomesClear z f) s = .next s)

/-- R51, R171 to R173, R176: buttons. A press sets the debounced state, and a LANGUAGE button moves its zone to the next
member of the language set above the current language, or to the lowest when there is none, with an acknowledge flash
when that changes it; a SCENE button raises, in SHOW with triggers-enabled alone, one trigger for every enabled
scene that lists it, in rising scene number (R22), with a flash when one is STARTED, PENDING, RESTARTED or QUEUED_AGAIN; and either sets the button seen of the players that await it. A release only sets the state, and the end of
a flash leaves the lamp to its pattern. -/
def Obligations.ButtonsActAndLampsFlash : Prop :=
  ∀ (s : State) (b : Fin 16) (f : Nat), s.inReset = false → s.monitor.seeded = true →
    let x := s.monitor.buttons[b]
    let r := s.store.tables.button b
    let stepped (pressed : Bool) : State :=
      { s with frame := some f, monitor := { s.monitor with
          buttons := s.monitor.buttons.set b ⟨pressed, 0, some f⟩ } }
    let raised (y : State) (src : Source) : State × List TriggerOutcome :=
      if y.store.mode = .running ∧ y.store.triggersOn = true then
        ((List.finRange 64).filter fun (sc : Fin 64) => (y.store.tables.scene sc).enabled
            && decide (src ∈ (y.store.tables.scene sc).sources)).foldl
          (fun (a : State × List TriggerOutcome) (sc : Fin 64) =>
            ((a.1.trigger sc src).1, a.2 ++ [(a.1.trigger sc src).2])) (y, [])
      else (y, [])
    let seen (y : State) : State :=
      { y with engine := { y.engine with players := Vector.ofFn fun p => (y.engine.players[p]).map fun run =>
          match run.phase with
          | .awaiting a => if a.cond = .button b then { run with phase := .awaiting { a with seen := true } } else run
          | .delaying _ | .blocked => run } }
    let flashed (y : State) : State :=
      let was := y.monitor.lamps[b]
      let lamp : Lamp := { was with flash := if was.flash = 0 then (if r.ackLong then 100 else 25) else was.flash }
      { y with monitor := { y.monitor with lamps := y.monitor.lamps.set b lamp } }
    (x.frame ≠ some f → r.debounce ≤ x.counter + 1 → x.pressed = false →
      (∀ (z : Fin 12) (l : Fin 4), r.function = .language z →
        let now := (s.monitor.zones[z]).language
        let set := (s.store.tables.zone z).languages
        let moved (y : State) : State :=
          { y with monitor := { y.monitor with zones := y.monitor.zones.set z { y.monitor.zones[z] with language := l } } }
        set.getLsbD l = true →
        (now < l ∧ (∀ k : Fin 4, now < k → set.getLsbD k = true → l ≤ k)
          ∨ l < now ∧ (∀ k : Fin 4, set.getLsbD k = true → k ≤ now ∧ l ≤ k)) →
        exec (.press b f) s = .next (seen (flashed (moved (stepped true)))).finishLink)
      ∧ (∀ z : Fin 12, r.function = .language z →
          (∀ k : Fin 4, (s.store.tables.zone z).languages.getLsbD k = true → k = (s.monitor.zones[z]).language) →
          exec (.press b f) s = .next (seen (stepped true)).finishLink)
      ∧ (r.function = .scene →
          let y := raised (stepped true) (.button b)
          let qualifies := y.2.any fun o => decide (o = .started ∨ o = .pending ∨ o = .restarted ∨ o = .queuedAgain)
          exec (.press b f) s = .next (seen (if qualifies then flashed y.1 else y.1)).finishLink))
    ∧ (x.frame ≠ some f → r.debounce ≤ x.counter + 1 → x.pressed = true →
        exec (.buttonRelease b f) s = .next (stepped false))
    ∧ ((s.monitor.lamps[b]).frame ≠ some f → (s.monitor.lamps[b]).flash = 1 →
        ∃ lamp : Lamp, exec (.flashEnd b f) s = .next
            { s with frame := some f, monitor := { s.monitor with lamps := s.monitor.lamps.set b lamp } }
          ∧ lamp.flash = 0 ∧ lamp.mode = (s.monitor.lamps[b]).mode ∧ lamp.frame = some f)

/-- R165 to R168, R172, R174, R179: the input sample, in every show state. The sensors are read through their polarities; each
zone, each button once the first sample has been taken, each lamp, HOUSE and ESTOP then takes its step, if it has not
taken it in this show frame (log entry 2); on the first sample each button takes its sampled state with no press. A lamp in
AUTO takes its pattern from the scenes and HOUSE as they stood before the same sample's zones, buttons and HOUSE act: no
rule orders them, and that the lamps are taken first is the model's choice (log entry 7). The tables and the show state
are left. -/
def Obligations.InputSampleStepsEveryUnit : Prop :=
  ∀ (s : State) (levels : InputLevels) (f : Nat), s.inReset = false → s.monitor.frame ≠ some f →
    ∃ t : State, exec (.inputSample levels f) s = .next t.finishLink
      ∧ t.pending = s.pending ∧ t.store = s.store ∧ t.monitor.seeded = true ∧ t.monitor.frame = some f
      ∧ (∀ i : Fin 16, t.monitor.sensors.getLsbD i =
          (levels.sensors.getLsbD i != (s.store.tables.sensor i).activeLow))
      ∧ (∀ z : Fin 12, (s.monitor.zones[z]).frame ≠ some f →
          let x := s.monitor.zones[z]
          let y := t.monitor.zones[z]
          let r := s.store.tables.zone z
          let occupied := ∃ i : Fin 16, (s.store.tables.sensor i).zone = some z ∧ t.monitor.sensors.getLsbD i = true
          (y.raw = true ↔ occupied)
          ∧ (occupied →
              (y.state, y.counter) = match x.state with
                | .clear => (.entering, 0)
                | .entering => if r.entry ≤ x.counter + 1 then (.occupied, 0) else (.entering, x.counter + 1)
                | .occupied => (.occupied, x.counter)
                | .emptying => (.occupied, 0))
          ∧ (¬ occupied →
              (y.state, y.counter) = match x.state with
                | .clear => (.clear, x.counter)
                | .entering => (.clear, 0)
                | .occupied => (.emptying, 0)
                | .emptying => if r.clear ≤ x.counter + 1 then (.clear, 0) else (.emptying, x.counter + 1)))
      ∧ (∀ b : Fin 16, (s.monitor.buttons[b]).frame ≠ some f →
          let x := s.monitor.buttons[b]
          let sample := !levels.buttons.getLsbD b
          t.monitor.buttons[b] =
            if s.monitor.seeded = false then ⟨sample, 0, some f⟩
            else if sample = x.pressed then ⟨x.pressed, 0, some f⟩
            else if (s.store.tables.button b).debounce ≤ x.counter + 1 then ⟨sample, 0, some f⟩
            else ⟨x.pressed, x.counter + 1, some f⟩)
      ∧ (∀ b : Fin 16, (s.monitor.lamps[b]).frame ≠ some f →
          let x := s.monitor.lamps[b]
          let y := t.monitor.lamps[b]
          y.mode = x.mode ∧ y.pattern = x.mode.pattern (autoPattern s.store s.engine.scenes s.monitor.house.asserted b)
          ∧ (y.pattern ≠ x.pattern → y.blink = 0)
          ∧ (y.pattern = x.pattern →
              y.blink = if (if y.pattern = .fast then 19 else 99) ≤ x.blink then 0 else x.blink + 1))
      ∧ (s.monitor.house.frame ≠ some f → s.monitor.house.published = true →
          let x := s.monitor.house
          let sample := !levels.houseN
          (t.monitor.house.asserted, t.monitor.house.count) =
            if sample = x.asserted then (x.asserted, 0)
            else if 1 ≤ x.count then (sample, 0) else (x.asserted, 1))
      ∧ (s.monitor.estop.frame ≠ some f → s.monitor.estop.published = true →
          let x := s.monitor.estop
          let sample := !levels.estopN
          (t.monitor.estop.asserted, t.monitor.estop.count) =
            if sample = x.asserted then (x.asserted, 0)
            else if sample = true ∨ 1 ≤ x.count then (sample, 0) else (x.asserted, 1))

/-! ### What every step keeps -/

/-- R5, R182 to R187: no step takes the receiver out of its states, or the request queue, the reply list, the report
queue, the threshold or the table cursor out of their bounds. -/
def Obligations.StepKeepsLinkBounded : Prop :=
  ∀ s t : State, step s = .next t → s.LinkBounded → t.LinkBounded

/-- R1, R8, R14, R17: no step takes a table out of its canonical form, in which every entry holds one record, and none
leaves a flag on outside SHOW, or the part in LOADING with no load going on, or a load going on outside LOADING. -/
def Obligations.StepKeepsStoreSound : Prop :=
  ∀ s t : State, step s = .next t →
    (s.TablesCanonical → t.TablesCanonical) ∧ (s.FlagsOffOutsideShow → t.FlagsOffOutsideShow)
    ∧ (s.LoadsInLoading → t.LoadsInLoading)

/-- R20, R29, R40, R53, R63, R65: every step keeps the pending queue at 16 entries or fewer in non-increasing priority,
keeps every claim on a player that runs, and keeps the start orders of the running players distinct and within their
count, with at most four open loops each. In a part whose loads are in LOADING it keeps every player FREE, the queue empty
and every claim NONE or DIRECT outside SHOW; and it keeps the scenes' states in step with the queue and the players: a
scene is PENDING exactly while the queue holds its one entry, and RUNNING exactly while one player holds it. -/
def Obligations.StepKeepsEngineSound : Prop :=
  ∀ s t : State, step s = .next t →
    (s.QueueOrdered → t.QueueOrdered) ∧ (s.ClaimsNamePlayers → t.ClaimsNamePlayers)
    ∧ (s.PlayersOrdered → t.PlayersOrdered)
    ∧ (s.LoadsInLoading → s.ClaimsNamePlayers → s.IdleOutsideShow → t.IdleOutsideShow)
    ∧ (s.LoadsInLoading → s.IdleOutsideShow → s.ScenesAgree → t.ScenesAgree)

/-- R84, R87, R88, R90, R91, R109, R111, R116: every step keeps each fade and master fade between its start and its
target, with no more steps taken than its length; the flicker register never becomes 0; and, in a part whose loads are in
LOADING, the attract slot and hold stay 0 while the attract cycle does not run. -/
def Obligations.StepKeepsFadesBetween : Prop :=
  ∀ s t : State, step s = .next t → (s.FadesBetween → t.FadesBetween) ∧ (s.FlickerRuns → t.FlickerRuns)
    ∧ (s.LoadsInLoading → s.AttractRests → t.AttractRests)

/-- R124, R125, R130, R131, R136: every step keeps each buffer fill at 320 bytes or fewer, and each fade stage, stall
count and duck stage within its bounds. -/
def Obligations.StepKeepsSoundBounded : Prop :=
  ∀ s t : State, step s = .next t → s.SoundBounded → t.SoundBounded

/-- R154, R156 to R161: every step keeps each homed axis within the soft limits of its record; keeps every axis whose
guard zone is not CLEAR, or that HOUSE holds, from moving and homing; and keeps an axis in FAULT with cause ESTOP exactly
while ESTOP is asserted, at rest and not homed. -/
def Obligations.StepKeepsAxesSafe : Prop :=
  ∀ s t : State, step s = .next t →
    (s.WithinSoftLimits → t.WithinSoftLimits) ∧ (s.HeldAxesStill → t.HeldAxesStill)
    ∧ (s.EstopFaultsAxes → t.EstopFaultsAxes)

/-- R3, R170, R171, R177: every step keeps each zone's current language a member of the zone's language set. -/
def Obligations.StepKeepsLanguagesOffered : Prop :=
  ∀ s t : State, step s = .next t → s.LanguagesOffered → t.LanguagesOffered
end

