-- ==== Sys2Proof/Laws/State.lean ====
section
/-! SUPPORT. What each update of the state leaves and sets, field by field: later proofs never unfold an update. -/

namespace Sys2Proof.Machine

/-! `State.raise` -/

@[simp] theorem State.raise_pending (s : State) (r : Report) : (s.raise r).pending = s.pending := rfl
@[simp] theorem State.raise_inReset (s : State) (r : Report) : (s.raise r).inReset = s.inReset := rfl
@[simp] theorem State.raise_frame (s : State) (r : Report) : (s.raise r).frame = s.frame := rfl
@[simp] theorem State.raise_link (s : State) (r : Report) :
    (s.raise r).link = s.link.raise r := rfl
@[simp] theorem State.raise_store (s : State) (r : Report) : (s.raise r).store = s.store := rfl
@[simp] theorem State.raise_engine (s : State) (r : Report) : (s.raise r).engine = s.engine := rfl
@[simp] theorem State.raise_light (s : State) (r : Report) : (s.raise r).light = s.light := rfl
@[simp] theorem State.raise_sound (s : State) (r : Report) : (s.raise r).sound = s.sound := rfl
@[simp] theorem State.raise_motion (s : State) (r : Report) : (s.raise r).motion = s.motion := rfl
@[simp] theorem State.raise_monitor (s : State) (r : Report) : (s.raise r).monitor = s.monitor := rfl

/-! `State.finishLink` -/

@[simp] theorem State.finishLink_pending (s : State) : (State.finishLink s).pending = s.pending := rfl
@[simp] theorem State.finishLink_inReset (s : State) : (State.finishLink s).inReset = s.inReset := rfl
@[simp] theorem State.finishLink_frame (s : State) : (State.finishLink s).frame = s.frame := rfl
@[simp] theorem State.finishLink_link (s : State) :
    (State.finishLink s).link = s.link.transmit := rfl
@[simp] theorem State.finishLink_store (s : State) : (State.finishLink s).store = s.store := rfl
@[simp] theorem State.finishLink_engine (s : State) : (State.finishLink s).engine = s.engine := rfl
@[simp] theorem State.finishLink_light (s : State) : (State.finishLink s).light = s.light := rfl
@[simp] theorem State.finishLink_sound (s : State) : (State.finishLink s).sound = s.sound := rfl
@[simp] theorem State.finishLink_motion (s : State) : (State.finishLink s).motion = s.motion := rfl
@[simp] theorem State.finishLink_monitor (s : State) : (State.finishLink s).monitor = s.monitor := rfl

/-! `State.finish` -/

@[simp] theorem State.finish_pending (s : State) : (State.finish s).pending = s.pending := rfl
@[simp] theorem State.finish_inReset (s : State) : (State.finish s).inReset = s.inReset := rfl
@[simp] theorem State.finish_frame (s : State) : (State.finish s).frame = s.frame := rfl
@[simp] theorem State.finish_link (s : State) :
    (State.finish s).link = s.link.transmit := rfl
@[simp] theorem State.finish_store (s : State) : (State.finish s).store = s.store := rfl
@[simp] theorem State.finish_engine (s : State) : (State.finish s).engine = s.engine := rfl
@[simp] theorem State.finish_light (s : State) : (State.finish s).light = s.light := rfl
@[simp] theorem State.finish_sound (s : State) :
    (State.finish s).sound = s.sound.grant s.store.load.isSome := rfl
@[simp] theorem State.finish_motion (s : State) : (State.finish s).motion = s.motion := rfl
@[simp] theorem State.finish_monitor (s : State) : (State.finish s).monitor = s.monitor := rfl

/-! `State.atFrame` -/

@[simp] theorem State.atFrame_pending (s : State) (f : Nat) : (s.atFrame f).pending = s.pending := rfl
@[simp] theorem State.atFrame_inReset (s : State) (f : Nat) : (s.atFrame f).inReset = s.inReset := rfl
@[simp] theorem State.atFrame_frame (s : State) (f : Nat) :
    (s.atFrame f).frame = some f := rfl
@[simp] theorem State.atFrame_link (s : State) (f : Nat) : (s.atFrame f).link = s.link := rfl
@[simp] theorem State.atFrame_store (s : State) (f : Nat) : (s.atFrame f).store = s.store := rfl
@[simp] theorem State.atFrame_engine (s : State) (f : Nat) : (s.atFrame f).engine = s.engine := rfl
@[simp] theorem State.atFrame_light (s : State) (f : Nat) : (s.atFrame f).light = s.light := rfl
@[simp] theorem State.atFrame_sound (s : State) (f : Nat) : (s.atFrame f).sound = s.sound := rfl
@[simp] theorem State.atFrame_motion (s : State) (f : Nat) : (s.atFrame f).motion = s.motion := rfl
@[simp] theorem State.atFrame_monitor (s : State) (f : Nat) : (s.atFrame f).monitor = s.monitor := rfl

/-! `State.setAxis` -/

@[simp] theorem State.setAxis_pending (s : State) (a : Fin 8) (x : Axis) : (s.setAxis a x).pending = s.pending := rfl
@[simp] theorem State.setAxis_inReset (s : State) (a : Fin 8) (x : Axis) : (s.setAxis a x).inReset = s.inReset := rfl
@[simp] theorem State.setAxis_frame (s : State) (a : Fin 8) (x : Axis) : (s.setAxis a x).frame = s.frame := rfl
@[simp] theorem State.setAxis_link (s : State) (a : Fin 8) (x : Axis) : (s.setAxis a x).link = s.link := rfl
@[simp] theorem State.setAxis_store (s : State) (a : Fin 8) (x : Axis) : (s.setAxis a x).store = s.store := rfl
@[simp] theorem State.setAxis_engine (s : State) (a : Fin 8) (x : Axis) : (s.setAxis a x).engine = s.engine := rfl
@[simp] theorem State.setAxis_light (s : State) (a : Fin 8) (x : Axis) : (s.setAxis a x).light = s.light := rfl
@[simp] theorem State.setAxis_sound (s : State) (a : Fin 8) (x : Axis) : (s.setAxis a x).sound = s.sound := rfl
@[simp] theorem State.setAxis_motion (s : State) (a : Fin 8) (x : Axis) :
    (s.setAxis a x).motion = { s.motion with axes := s.motion.axes.set a x } := rfl
@[simp] theorem State.setAxis_monitor (s : State) (a : Fin 8) (x : Axis) : (s.setAxis a x).monitor = s.monitor := rfl

/-! `State.mapAxes` -/

@[simp] theorem State.mapAxes_pending (s : State) (k : Fin 8 → Axis → Axis) : (s.mapAxes k).pending = s.pending := rfl
@[simp] theorem State.mapAxes_inReset (s : State) (k : Fin 8 → Axis → Axis) : (s.mapAxes k).inReset = s.inReset := rfl
@[simp] theorem State.mapAxes_frame (s : State) (k : Fin 8 → Axis → Axis) : (s.mapAxes k).frame = s.frame := rfl
@[simp] theorem State.mapAxes_link (s : State) (k : Fin 8 → Axis → Axis) : (s.mapAxes k).link = s.link := rfl
@[simp] theorem State.mapAxes_store (s : State) (k : Fin 8 → Axis → Axis) : (s.mapAxes k).store = s.store := rfl
@[simp] theorem State.mapAxes_engine (s : State) (k : Fin 8 → Axis → Axis) : (s.mapAxes k).engine = s.engine := rfl
@[simp] theorem State.mapAxes_light (s : State) (k : Fin 8 → Axis → Axis) : (s.mapAxes k).light = s.light := rfl
@[simp] theorem State.mapAxes_sound (s : State) (k : Fin 8 → Axis → Axis) : (s.mapAxes k).sound = s.sound := rfl
@[simp] theorem State.mapAxes_motion (s : State) (k : Fin 8 → Axis → Axis) :
    (s.mapAxes k).motion = { s.motion with axes := Vector.ofFn fun a => k a s.motion.axes[a] } := rfl
@[simp] theorem State.mapAxes_monitor (s : State) (k : Fin 8 → Axis → Axis) : (s.mapAxes k).monitor = s.monitor := rfl

/-! `State.holdsChanged` -/

@[simp] theorem State.holdsChanged_pending (s : State) (b : State) : (s.holdsChanged b).pending = s.pending := rfl
@[simp] theorem State.holdsChanged_inReset (s : State) (b : State) : (s.holdsChanged b).inReset = s.inReset := rfl
@[simp] theorem State.holdsChanged_frame (s : State) (b : State) : (s.holdsChanged b).frame = s.frame := rfl
@[simp] theorem State.holdsChanged_link (s : State) (b : State) : (s.holdsChanged b).link = s.link := rfl
@[simp] theorem State.holdsChanged_store (s : State) (b : State) : (s.holdsChanged b).store = s.store := rfl
@[simp] theorem State.holdsChanged_engine (s : State) (b : State) : (s.holdsChanged b).engine = s.engine := rfl
@[simp] theorem State.holdsChanged_light (s : State) (b : State) : (s.holdsChanged b).light = s.light := rfl
@[simp] theorem State.holdsChanged_sound (s : State) (b : State) : (s.holdsChanged b).sound = s.sound := rfl
@[simp] theorem State.holdsChanged_monitor (s : State) (b : State) : (s.holdsChanged b).monitor = s.monitor := rfl

/-! `State.setScene` -/

@[simp] theorem State.setScene_pending (s : State) (sc : Fin 64) (x : SceneRun) : (s.setScene sc x).pending = s.pending := rfl
@[simp] theorem State.setScene_inReset (s : State) (sc : Fin 64) (x : SceneRun) : (s.setScene sc x).inReset = s.inReset := rfl
@[simp] theorem State.setScene_frame (s : State) (sc : Fin 64) (x : SceneRun) : (s.setScene sc x).frame = s.frame := rfl
@[simp] theorem State.setScene_link (s : State) (sc : Fin 64) (x : SceneRun) : (s.setScene sc x).link = s.link := rfl
@[simp] theorem State.setScene_store (s : State) (sc : Fin 64) (x : SceneRun) : (s.setScene sc x).store = s.store := rfl
@[simp] theorem State.setScene_engine (s : State) (sc : Fin 64) (x : SceneRun) :
    (s.setScene sc x).engine = { s.engine with scenes := s.engine.scenes.set sc x } := rfl
@[simp] theorem State.setScene_light (s : State) (sc : Fin 64) (x : SceneRun) : (s.setScene sc x).light = s.light := rfl
@[simp] theorem State.setScene_sound (s : State) (sc : Fin 64) (x : SceneRun) : (s.setScene sc x).sound = s.sound := rfl
@[simp] theorem State.setScene_motion (s : State) (sc : Fin 64) (x : SceneRun) : (s.setScene sc x).motion = s.motion := rfl
@[simp] theorem State.setScene_monitor (s : State) (sc : Fin 64) (x : SceneRun) : (s.setScene sc x).monitor = s.monitor := rfl

/-! `State.sceneTo` -/

@[simp] theorem State.sceneTo_pending (s : State) (sc : Fin 64) (x : SceneState) : (s.sceneTo sc x).pending = s.pending := rfl
@[simp] theorem State.sceneTo_inReset (s : State) (sc : Fin 64) (x : SceneState) : (s.sceneTo sc x).inReset = s.inReset := rfl
@[simp] theorem State.sceneTo_frame (s : State) (sc : Fin 64) (x : SceneState) : (s.sceneTo sc x).frame = s.frame := rfl
@[simp] theorem State.sceneTo_link (s : State) (sc : Fin 64) (x : SceneState) : (s.sceneTo sc x).link = s.link := rfl
@[simp] theorem State.sceneTo_store (s : State) (sc : Fin 64) (x : SceneState) : (s.sceneTo sc x).store = s.store := rfl
@[simp] theorem State.sceneTo_engine (s : State) (sc : Fin 64) (x : SceneState) :
    (s.sceneTo sc x).engine = { s.engine with scenes := s.engine.scenes.set sc ⟨x, 0, false, none⟩ } := rfl
@[simp] theorem State.sceneTo_light (s : State) (sc : Fin 64) (x : SceneState) : (s.sceneTo sc x).light = s.light := rfl
@[simp] theorem State.sceneTo_sound (s : State) (sc : Fin 64) (x : SceneState) : (s.sceneTo sc x).sound = s.sound := rfl
@[simp] theorem State.sceneTo_motion (s : State) (sc : Fin 64) (x : SceneState) : (s.sceneTo sc x).motion = s.motion := rfl
@[simp] theorem State.sceneTo_monitor (s : State) (sc : Fin 64) (x : SceneState) : (s.sceneTo sc x).monitor = s.monitor := rfl

/-! `State.setPlayer` -/

@[simp] theorem State.setPlayer_pending (s : State) (p : Fin 8) (r : Option Run) : (s.setPlayer p r).pending = s.pending := rfl
@[simp] theorem State.setPlayer_inReset (s : State) (p : Fin 8) (r : Option Run) : (s.setPlayer p r).inReset = s.inReset := rfl
@[simp] theorem State.setPlayer_frame (s : State) (p : Fin 8) (r : Option Run) : (s.setPlayer p r).frame = s.frame := rfl
@[simp] theorem State.setPlayer_link (s : State) (p : Fin 8) (r : Option Run) : (s.setPlayer p r).link = s.link := rfl
@[simp] theorem State.setPlayer_store (s : State) (p : Fin 8) (r : Option Run) : (s.setPlayer p r).store = s.store := rfl
@[simp] theorem State.setPlayer_engine (s : State) (p : Fin 8) (r : Option Run) :
    (s.setPlayer p r).engine = { s.engine with players := s.engine.players.set p r } := rfl
@[simp] theorem State.setPlayer_light (s : State) (p : Fin 8) (r : Option Run) : (s.setPlayer p r).light = s.light := rfl
@[simp] theorem State.setPlayer_sound (s : State) (p : Fin 8) (r : Option Run) : (s.setPlayer p r).sound = s.sound := rfl
@[simp] theorem State.setPlayer_motion (s : State) (p : Fin 8) (r : Option Run) : (s.setPlayer p r).motion = s.motion := rfl
@[simp] theorem State.setPlayer_monitor (s : State) (p : Fin 8) (r : Option Run) : (s.setPlayer p r).monitor = s.monitor := rfl

/-! `State.setQueue` -/

@[simp] theorem State.setQueue_pending (s : State) (q : List Entry) : (s.setQueue q).pending = s.pending := rfl
@[simp] theorem State.setQueue_inReset (s : State) (q : List Entry) : (s.setQueue q).inReset = s.inReset := rfl
@[simp] theorem State.setQueue_frame (s : State) (q : List Entry) : (s.setQueue q).frame = s.frame := rfl
@[simp] theorem State.setQueue_link (s : State) (q : List Entry) : (s.setQueue q).link = s.link := rfl
@[simp] theorem State.setQueue_store (s : State) (q : List Entry) : (s.setQueue q).store = s.store := rfl
@[simp] theorem State.setQueue_engine (s : State) (q : List Entry) :
    (s.setQueue q).engine = { s.engine with queue := q } := rfl
@[simp] theorem State.setQueue_light (s : State) (q : List Entry) : (s.setQueue q).light = s.light := rfl
@[simp] theorem State.setQueue_sound (s : State) (q : List Entry) : (s.setQueue q).sound = s.sound := rfl
@[simp] theorem State.setQueue_motion (s : State) (q : List Entry) : (s.setQueue q).motion = s.motion := rfl
@[simp] theorem State.setQueue_monitor (s : State) (q : List Entry) : (s.setQueue q).monitor = s.monitor := rfl

/-! `State.setGroupOwner` -/

@[simp] theorem State.setGroupOwner_pending (s : State) (g : Fin 16) (o : GroupOwner) : (s.setGroupOwner g o).pending = s.pending := rfl
@[simp] theorem State.setGroupOwner_inReset (s : State) (g : Fin 16) (o : GroupOwner) : (s.setGroupOwner g o).inReset = s.inReset := rfl
@[simp] theorem State.setGroupOwner_frame (s : State) (g : Fin 16) (o : GroupOwner) : (s.setGroupOwner g o).frame = s.frame := rfl
@[simp] theorem State.setGroupOwner_link (s : State) (g : Fin 16) (o : GroupOwner) : (s.setGroupOwner g o).link = s.link := rfl
@[simp] theorem State.setGroupOwner_store (s : State) (g : Fin 16) (o : GroupOwner) : (s.setGroupOwner g o).store = s.store := rfl
@[simp] theorem State.setGroupOwner_engine (s : State) (g : Fin 16) (o : GroupOwner) :
    (s.setGroupOwner g o).engine = { s.engine with claims := { s.engine.claims with groups := s.engine.claims.groups.set g o } } := rfl
@[simp] theorem State.setGroupOwner_light (s : State) (g : Fin 16) (o : GroupOwner) : (s.setGroupOwner g o).light = s.light := rfl
@[simp] theorem State.setGroupOwner_sound (s : State) (g : Fin 16) (o : GroupOwner) : (s.setGroupOwner g o).sound = s.sound := rfl
@[simp] theorem State.setGroupOwner_motion (s : State) (g : Fin 16) (o : GroupOwner) : (s.setGroupOwner g o).motion = s.motion := rfl
@[simp] theorem State.setGroupOwner_monitor (s : State) (g : Fin 16) (o : GroupOwner) : (s.setGroupOwner g o).monitor = s.monitor := rfl

/-! `State.enqueue` -/

@[simp] theorem State.enqueue_pending (s : State) (sc : Fin 64) (src : Source) : (s.enqueue sc src).pending = s.pending := rfl
@[simp] theorem State.enqueue_inReset (s : State) (sc : Fin 64) (src : Source) : (s.enqueue sc src).inReset = s.inReset := rfl
@[simp] theorem State.enqueue_frame (s : State) (sc : Fin 64) (src : Source) : (s.enqueue sc src).frame = s.frame := rfl
@[simp] theorem State.enqueue_link (s : State) (sc : Fin 64) (src : Source) : (s.enqueue sc src).link = s.link := rfl
@[simp] theorem State.enqueue_store (s : State) (sc : Fin 64) (src : Source) : (s.enqueue sc src).store = s.store := rfl
@[simp] theorem State.enqueue_light (s : State) (sc : Fin 64) (src : Source) : (s.enqueue sc src).light = s.light := rfl
@[simp] theorem State.enqueue_sound (s : State) (sc : Fin 64) (src : Source) : (s.enqueue sc src).sound = s.sound := rfl
@[simp] theorem State.enqueue_motion (s : State) (sc : Fin 64) (src : Source) : (s.enqueue sc src).motion = s.motion := rfl
@[simp] theorem State.enqueue_monitor (s : State) (sc : Fin 64) (src : Source) : (s.enqueue sc src).monitor = s.monitor := rfl

/-! `State.startOn` -/

@[simp] theorem State.startOn_pending (s : State) (sc : Fin 64) (src : Source) (v : Option (Fin 4)) (p : Fin 8) : (s.startOn sc src v p).pending = s.pending := rfl
@[simp] theorem State.startOn_inReset (s : State) (sc : Fin 64) (src : Source) (v : Option (Fin 4)) (p : Fin 8) : (s.startOn sc src v p).inReset = s.inReset := rfl
@[simp] theorem State.startOn_frame (s : State) (sc : Fin 64) (src : Source) (v : Option (Fin 4)) (p : Fin 8) : (s.startOn sc src v p).frame = s.frame := rfl
@[simp] theorem State.startOn_link (s : State) (sc : Fin 64) (src : Source) (v : Option (Fin 4)) (p : Fin 8) :
    (s.startOn sc src v p).link = s.link.raise (.sceneStarted sc p (s.store.tables.scene sc).priority src) := rfl
@[simp] theorem State.startOn_store (s : State) (sc : Fin 64) (src : Source) (v : Option (Fin 4)) (p : Fin 8) : (s.startOn sc src v p).store = s.store := rfl
@[simp] theorem State.startOn_light (s : State) (sc : Fin 64) (src : Source) (v : Option (Fin 4)) (p : Fin 8) : (s.startOn sc src v p).light = s.light := rfl
@[simp] theorem State.startOn_sound (s : State) (sc : Fin 64) (src : Source) (v : Option (Fin 4)) (p : Fin 8) : (s.startOn sc src v p).sound = s.sound := rfl
@[simp] theorem State.startOn_motion (s : State) (sc : Fin 64) (src : Source) (v : Option (Fin 4)) (p : Fin 8) : (s.startOn sc src v p).motion = s.motion := rfl
@[simp] theorem State.startOn_monitor (s : State) (sc : Fin 64) (src : Source) (v : Option (Fin 4)) (p : Fin 8) : (s.startOn sc src v p).monitor = s.monitor := rfl

/-! `State.setTables` -/

@[simp] theorem State.setTables_pending (s : State) (t : Tables) : (s.setTables t).pending = s.pending := rfl
@[simp] theorem State.setTables_inReset (s : State) (t : Tables) : (s.setTables t).inReset = s.inReset := rfl
@[simp] theorem State.setTables_frame (s : State) (t : Tables) : (s.setTables t).frame = s.frame := rfl
@[simp] theorem State.setTables_link (s : State) (t : Tables) : (s.setTables t).link = s.link := rfl
@[simp] theorem State.setTables_store (s : State) (t : Tables) :
    (s.setTables t).store = { s.store with tables := t } := rfl
@[simp] theorem State.setTables_engine (s : State) (t : Tables) : (s.setTables t).engine = s.engine := rfl
@[simp] theorem State.setTables_light (s : State) (t : Tables) : (s.setTables t).light = s.light := rfl
@[simp] theorem State.setTables_sound (s : State) (t : Tables) : (s.setTables t).sound = s.sound := rfl
@[simp] theorem State.setTables_motion (s : State) (t : Tables) : (s.setTables t).motion = s.motion := rfl
@[simp] theorem State.setTables_monitor (s : State) (t : Tables) : (s.setTables t).monitor = s.monitor := rfl

/-! `State.setMode` -/

@[simp] theorem State.setMode_pending (s : State) (m : ShowState) (g a : Bool) : (s.setMode m g a).pending = s.pending := rfl
@[simp] theorem State.setMode_inReset (s : State) (m : ShowState) (g a : Bool) : (s.setMode m g a).inReset = s.inReset := rfl
@[simp] theorem State.setMode_frame (s : State) (m : ShowState) (g a : Bool) : (s.setMode m g a).frame = s.frame := rfl
@[simp] theorem State.setMode_link (s : State) (m : ShowState) (g a : Bool) : (s.setMode m g a).link = s.link := rfl
@[simp] theorem State.setMode_store (s : State) (m : ShowState) (g a : Bool) :
    (s.setMode m g a).store = { s.store with mode := m, triggersOn := g, attractOn := a } := rfl
@[simp] theorem State.setMode_engine (s : State) (m : ShowState) (g a : Bool) : (s.setMode m g a).engine = s.engine := rfl
@[simp] theorem State.setMode_light (s : State) (m : ShowState) (g a : Bool) : (s.setMode m g a).light = s.light := rfl
@[simp] theorem State.setMode_sound (s : State) (m : ShowState) (g a : Bool) : (s.setMode m g a).sound = s.sound := rfl
@[simp] theorem State.setMode_motion (s : State) (m : ShowState) (g a : Bool) : (s.setMode m g a).motion = s.motion := rfl
@[simp] theorem State.setMode_monitor (s : State) (m : ShowState) (g a : Bool) : (s.setMode m g a).monitor = s.monitor := rfl

/-! `State.setLoad` -/

@[simp] theorem State.setLoad_pending (s : State) (x : Load) : (s.setLoad x).pending = s.pending := rfl
@[simp] theorem State.setLoad_inReset (s : State) (x : Load) : (s.setLoad x).inReset = s.inReset := rfl
@[simp] theorem State.setLoad_frame (s : State) (x : Load) : (s.setLoad x).frame = s.frame := rfl
@[simp] theorem State.setLoad_link (s : State) (x : Load) : (s.setLoad x).link = s.link := rfl
@[simp] theorem State.setLoad_store (s : State) (x : Load) :
    (s.setLoad x).store = { s.store with load := some x } := rfl
@[simp] theorem State.setLoad_engine (s : State) (x : Load) : (s.setLoad x).engine = s.engine := rfl
@[simp] theorem State.setLoad_light (s : State) (x : Load) : (s.setLoad x).light = s.light := rfl
@[simp] theorem State.setLoad_sound (s : State) (x : Load) : (s.setLoad x).sound = s.sound := rfl
@[simp] theorem State.setLoad_motion (s : State) (x : Load) : (s.setLoad x).motion = s.motion := rfl
@[simp] theorem State.setLoad_monitor (s : State) (x : Load) : (s.setLoad x).monitor = s.monitor := rfl

/-! `State.endLoad` -/

@[simp] theorem State.endLoad_pending (s : State) (x : LoadStatus) : (s.endLoad x).pending = s.pending := rfl
@[simp] theorem State.endLoad_inReset (s : State) (x : LoadStatus) : (s.endLoad x).inReset = s.inReset := rfl
@[simp] theorem State.endLoad_frame (s : State) (x : LoadStatus) : (s.endLoad x).frame = s.frame := rfl
@[simp] theorem State.endLoad_link (s : State) (x : LoadStatus) : (s.endLoad x).link = s.link := rfl
@[simp] theorem State.endLoad_store (s : State) (x : LoadStatus) :
    (s.endLoad x).store = { s.store with status := x, load := none } := rfl
@[simp] theorem State.endLoad_engine (s : State) (x : LoadStatus) : (s.endLoad x).engine = s.engine := rfl
@[simp] theorem State.endLoad_light (s : State) (x : LoadStatus) : (s.endLoad x).light = s.light := rfl
@[simp] theorem State.endLoad_sound (s : State) (x : LoadStatus) : (s.endLoad x).sound = s.sound := rfl
@[simp] theorem State.endLoad_motion (s : State) (x : LoadStatus) : (s.endLoad x).motion = s.motion := rfl
@[simp] theorem State.endLoad_monitor (s : State) (x : LoadStatus) : (s.endLoad x).monitor = s.monitor := rfl

/-! `State.attractFollows` -/

@[simp] theorem State.attractFollows_pending (s : State) (was : Bool) : (s.attractFollows was).pending = s.pending := rfl
@[simp] theorem State.attractFollows_inReset (s : State) (was : Bool) : (s.attractFollows was).inReset = s.inReset := rfl
@[simp] theorem State.attractFollows_frame (s : State) (was : Bool) : (s.attractFollows was).frame = s.frame := rfl
@[simp] theorem State.attractFollows_link (s : State) (was : Bool) : (s.attractFollows was).link = s.link := rfl
@[simp] theorem State.attractFollows_store (s : State) (was : Bool) : (s.attractFollows was).store = s.store := rfl
@[simp] theorem State.attractFollows_engine (s : State) (was : Bool) : (s.attractFollows was).engine = s.engine := rfl
@[simp] theorem State.attractFollows_light (s : State) (was : Bool) :
    (s.attractFollows was).light = s.light.attractChange s.store.tables s.engine.claims was s.store.attractRunning := rfl
@[simp] theorem State.attractFollows_sound (s : State) (was : Bool) : (s.attractFollows was).sound = s.sound := rfl
@[simp] theorem State.attractFollows_motion (s : State) (was : Bool) : (s.attractFollows was).motion = s.motion := rfl
@[simp] theorem State.attractFollows_monitor (s : State) (was : Bool) : (s.attractFollows was).monitor = s.monitor := rfl

/-! `State.setCursor` -/

@[simp] theorem State.setCursor_pending (s : State) (c : Cursor) : (s.setCursor c).pending = s.pending := rfl
@[simp] theorem State.setCursor_inReset (s : State) (c : Cursor) : (s.setCursor c).inReset = s.inReset := rfl
@[simp] theorem State.setCursor_frame (s : State) (c : Cursor) : (s.setCursor c).frame = s.frame := rfl
@[simp] theorem State.setCursor_link (s : State) (c : Cursor) :
    (s.setCursor c).link = { s.link with cursor := c } := rfl
@[simp] theorem State.setCursor_store (s : State) (c : Cursor) : (s.setCursor c).store = s.store := rfl
@[simp] theorem State.setCursor_engine (s : State) (c : Cursor) : (s.setCursor c).engine = s.engine := rfl
@[simp] theorem State.setCursor_light (s : State) (c : Cursor) : (s.setCursor c).light = s.light := rfl
@[simp] theorem State.setCursor_sound (s : State) (c : Cursor) : (s.setCursor c).sound = s.sound := rfl
@[simp] theorem State.setCursor_motion (s : State) (c : Cursor) : (s.setCursor c).motion = s.motion := rfl
@[simp] theorem State.setCursor_monitor (s : State) (c : Cursor) : (s.setCursor c).monitor = s.monitor := rfl

/-! `State.setLamp` -/

@[simp] theorem State.setLamp_pending (s : State) (b : Fin 16) (m : LampMode) : (s.setLamp b m).pending = s.pending := rfl
@[simp] theorem State.setLamp_inReset (s : State) (b : Fin 16) (m : LampMode) : (s.setLamp b m).inReset = s.inReset := rfl
@[simp] theorem State.setLamp_frame (s : State) (b : Fin 16) (m : LampMode) : (s.setLamp b m).frame = s.frame := rfl
@[simp] theorem State.setLamp_link (s : State) (b : Fin 16) (m : LampMode) : (s.setLamp b m).link = s.link := rfl
@[simp] theorem State.setLamp_store (s : State) (b : Fin 16) (m : LampMode) : (s.setLamp b m).store = s.store := rfl
@[simp] theorem State.setLamp_engine (s : State) (b : Fin 16) (m : LampMode) : (s.setLamp b m).engine = s.engine := rfl
@[simp] theorem State.setLamp_light (s : State) (b : Fin 16) (m : LampMode) : (s.setLamp b m).light = s.light := rfl
@[simp] theorem State.setLamp_sound (s : State) (b : Fin 16) (m : LampMode) : (s.setLamp b m).sound = s.sound := rfl
@[simp] theorem State.setLamp_motion (s : State) (b : Fin 16) (m : LampMode) : (s.setLamp b m).motion = s.motion := rfl

/-! `State.initialLamp` -/

@[simp] theorem State.initialLamp_pending (s : State) (b : Fin 16) : (s.initialLamp b).pending = s.pending := rfl
@[simp] theorem State.initialLamp_inReset (s : State) (b : Fin 16) : (s.initialLamp b).inReset = s.inReset := rfl
@[simp] theorem State.initialLamp_frame (s : State) (b : Fin 16) : (s.initialLamp b).frame = s.frame := rfl
@[simp] theorem State.initialLamp_link (s : State) (b : Fin 16) : (s.initialLamp b).link = s.link := rfl
@[simp] theorem State.initialLamp_store (s : State) (b : Fin 16) : (s.initialLamp b).store = s.store := rfl
@[simp] theorem State.initialLamp_engine (s : State) (b : Fin 16) : (s.initialLamp b).engine = s.engine := rfl
@[simp] theorem State.initialLamp_light (s : State) (b : Fin 16) : (s.initialLamp b).light = s.light := rfl
@[simp] theorem State.initialLamp_sound (s : State) (b : Fin 16) : (s.initialLamp b).sound = s.sound := rfl
@[simp] theorem State.initialLamp_motion (s : State) (b : Fin 16) : (s.initialLamp b).motion = s.motion := rfl

end Sys2Proof.Machine
end

