-- ==== Sys2Proof/Laws/Requests.lean ====
section
/-! SUPPORT. What the frames that every command is written in can do, said once: a command under reset, a frame event,
and a request. -/

namespace Sys2Proof.Machine

variable {s : State}

@[simp] theorem State.live_running (k : State → State) (h : s.inReset = false) : s.live k = k s := by
  simp [State.live, h]

@[simp] theorem State.live_held (k : State → State) (h : s.inReset = true) : s.live k = s := by
  simp [State.live, h]

/-- A frame event that is due is its step, in its show frame. -/
theorem State.frameStep_due {f : Nat} {last : Option Nat} {brink : Bool} (k : State → State) (h : s.inReset = false)
    (hb : brink = true) (hl : last ≠ some f) : s.frameStep f last brink k = k (s.atFrame f) := by
  simp [State.frameStep, h, hb, hl]

/-- A frame event that has been taken in its show frame, or whose condition does not hold, is no event. -/
theorem State.frameStep_idle {f : Nat} {last : Option Nat} {brink : Bool} (k : State → State)
    (h : s.inReset = true ∨ brink = false ∨ last = some f) : s.frameStep f last brink k = s := by
  unfold State.frameStep State.live
  rcases h with h | h | h <;> simp [h]

/-! ### Requests -/

/-- R184: the request that is next leaves the queue when it is executed. -/
theorem Link.ready?_of_next {kind : Byte} {payload : List Byte} {rest : List Request}
    (h : s.RequestNext kind payload rest) :
    s.link.ready? = some (⟨kind, payload⟩, { s.link with requests := rest }) := by
  simp [Link.ready?, h.2.1, h.2.2]

/-- R184: the command of the next request takes it, answers it and adds its reply. -/
theorem State.serve_next {kind : Byte} {payload : List Byte} {rest : List Request}
    (h : s.RequestNext kind payload rest) (fin : State → State) (inLoading : Bool)
    (lengthOk : State → List Byte → Bool) (body : List Byte → State → State × List Byte) :
    State.serve fin kind inLoading lengthOk body s =
      fin (((s.took rest).answer inLoading lengthOk body payload).1.replied kind
        ((s.took rest).answer inLoading lengthOk body payload).2) := by
  rw [State.serve, State.live_running _ h.1, Link.ready?_of_next h]
  simp only [if_true]
  rfl

/-- R12: while the part is held in reset, no request is executed. -/
theorem State.serve_held (h : s.inReset = true) (fin : State → State) (kind : Byte) (inLoading : Bool)
    (lengthOk : State → List Byte → Bool) (body : List Byte → State → State × List Byte) :
    State.serve fin kind inLoading lengthOk body s = s := State.live_held _ h

/-- R184: while the reply list holds the reply of an executed request, no request is executed. -/
theorem State.serve_waits (h : s.link.replies.any (!·.busy) = true) (fin : State → State) (kind : Byte)
    (inLoading : Bool) (lengthOk : State → List Byte → Bool) (body : List Byte → State → State × List Byte) :
    State.serve fin kind inLoading lengthOk body s = s := by
  have none : s.link.ready? = none := by
    unfold Link.ready?
    split
    · rw [if_neg]
      intro all
      obtain ⟨r, hr, hb⟩ := List.any_eq_true.1 h
      have := List.all_eq_true.1 all r hr
      simp [this] at hb
    · rfl
  unfold State.serve State.live
  split
  · rfl
  · dsimp only
    rw [none]

/-- R11: a request refused in LOADING. -/
theorem State.answer_inLoading (hm : s.store.mode = .loading) (lengthOk : State → List Byte → Bool)
    (body : List Byte → State → State × List Byte) (payload : List Byte) :
    s.answer false lengthOk body payload = (s, [4]) := by
  simp [State.answer, hm, Status.alone, Status.code]

/-- R184: a request of the wrong length. -/
theorem State.answer_badLength {inLoading : Bool} (hm : inLoading = true ∨ s.store.mode ≠ .loading)
    {lengthOk : State → List Byte → Bool} {payload : List Byte} (hl : lengthOk s payload = false)
    (body : List Byte → State → State × List Byte) :
    s.answer inLoading lengthOk body payload = (s, [2]) := by
  rcases hm with hm | hm <;> simp [State.answer, hm, hl, Status.alone, Status.code]

/-- R184: a request that passes the first checks is answered by its own rule. -/
theorem State.answer_own {inLoading : Bool} (hm : inLoading = true ∨ s.store.mode ≠ .loading)
    {lengthOk : State → List Byte → Bool} {payload : List Byte} (hl : lengthOk s payload = true)
    (body : List Byte → State → State × List Byte) :
    s.answer inLoading lengthOk body payload = body payload s := by
  rcases hm with hm | hm <;> simp [State.answer, hm, hl]

end Sys2Proof.Machine
end

