-- ==== Sys2Proof/Laws/Axes.lean ====
section
/-! SUPPORT. What the profile interval event of an axis can do, said once: its steps in each state (R150 to R156), how an
axis comes to rest, and the event as a command, by what it has to report. -/

namespace Sys2Proof.Machine

/-! ### The named operations -/

theorem Direction.move_eq (d : Direction) (position : Int) (n : Nat) :
    d.move position n = if d = .positive then position + n else position - n := by cases d <;> rfl

theorem AxisRec.room_eq (r : AxisRec) (d : Direction) (position : Int) :
    r.room d position = if d = .positive then (r.maxPos - position).toNat else (position - r.minPos).toNat := by
  cases d <;> rfl

theorem Axis.switchFault_iff (x : Axis) :
    x.switchFault = true ↔
      x.dir = .positive ∧ x.limitSwitch = true ∨ x.dir = .negative ∧ x.homeSwitch = true ∧ 0 < x.position := by
  unfold Axis.switchFault; cases x.dir <;> simp

theorem AxisRec.searchedOut_iff (r : AxisRec) (position : Int) :
    r.searchedOut position = true ↔ position + (r.maxPos - r.minPos) + 1000 < 0 := by
  unfold AxisRec.searchedOut; rw [decide_eq_true_iff]; omega

theorem Direction.toward_of_ne (d : Direction) {position target : Int} (h : position ≠ target) :
    d.toward position target = if position < target then .positive else .negative := by
  unfold Direction.toward; split
  · rfl
  · rw [if_pos (by omega)]

/-! ### A MOVING axis -/

/-- R150, R151, R156: a MOVING axis stops at the soft limit that comes before its steps, is IDLE at its target, or takes
its steps. -/
theorem Axis.moveInterval_cases (x : Axis) (r : AxisRec) (p : ProfileRec) {target : Int} (h : x.position ≠ target) :
    let left := (target - x.position).natAbs
    let dir : Direction := if x.position < target then .positive else .negative
    let rate := p.nextRate x.rate left
    let acc := x.acc + rate
    let steps := min (acc / 1000) left
    let room := r.room dir x.position
    (room < steps → x.moveInterval r p target = Axis.idle { x.advance dir room with dir := dir })
    ∧ (steps ≤ room → left ≤ acc / 1000 →
        x.moveInterval r p target = { Axis.idle { x.advance dir left with dir := dir } with position := target })
    ∧ (steps ≤ room → acc / 1000 < left →
        x.moveInterval r p target =
          { x.advance dir (acc / 1000) with dir := dir, rate := rate, acc := acc % 1000 }) := by
  intro left dir rate acc steps room
  have arrives : dir.move x.position left = target := by
    rw [Direction.move_eq]; rcases Int.lt_or_gt_of_ne h with up | down
    · rw [if_pos (show dir = .positive from if_pos up)]; omega
    · rw [if_neg (show ¬ dir = .positive from by simp only [dir]; rw [if_neg (by omega)]; nofun)]; omega
  unfold Axis.moveInterval
  simp only [Direction.toward_of_ne x.dir h]
  refine ⟨fun short => if_pos short, fun fits whole => ?_, fun fits part => ?_⟩
  · refine (if_neg (Nat.not_lt.2 fits)).trans ((if_pos (Nat.min_eq_right whole)).trans ?_)
    show Axis.idle { x.advance dir (min (acc / 1000) left) with dir := dir } = _
    rw [Nat.min_eq_right whole]
    simp only [Axis.advance, Axis.idle, Axis.atRest, arrives]
  · refine (if_neg (Nat.not_lt.2 fits)).trans ((if_neg (show ¬ min (acc / 1000) left = left by omega)).trans ?_)
    show ({ x.advance dir (min (acc / 1000) left) with dir := dir, rate := rate, acc := acc % 1000 } : Axis) = _
    rw [Nat.min_eq_left (Nat.le_of_lt part)]

/-! ### A STOPPING axis -/

/-- R153, R156: a homed STOPPING axis comes to rest at the creep rate, at a soft limit or at its target, and else slows
down. -/
theorem Axis.stopInterval_cases (x : Axis) (r : AxisRec) (p : ProfileRec) (target : Int) (hold : Bool) :
    let left := (target - x.position).natAbs
    let rate := x.rate - p.accel
    let acc := x.acc + rate
    let steps := min (acc / 1000) left
    let room := r.room x.dir x.position
    (x.rate ≤ p.creep → x.stopInterval r p target hold = x.comeToRest r hold)
    ∧ (p.creep < x.rate → room < steps →
        x.stopInterval r p target hold = (x.advance x.dir room).comeToRest r hold)
    ∧ (p.creep < x.rate → steps ≤ room → left ≤ acc / 1000 →
        x.stopInterval r p target hold = (x.advance x.dir left).comeToRest r hold)
    ∧ (p.creep < x.rate → steps ≤ room → acc / 1000 < left →
        x.stopInterval r p target hold = { x.advance x.dir (acc / 1000) with rate := rate, acc := acc % 1000 }) := by
  intro left rate acc steps room
  unfold Axis.stopInterval
  refine ⟨fun slow => if_pos slow, fun fast short => ?_, fun fast fits whole => ?_, fun fast fits part => ?_⟩ <;>
    refine (if_neg (Nat.not_le.2 fast)).trans ?_
  · exact if_pos short
  · refine (if_neg (Nat.not_lt.2 fits)).trans ((if_pos (Nat.min_eq_right whole)).trans ?_)
    show Axis.comeToRest (x.advance x.dir (min (acc / 1000) left)) r hold = _
    rw [Nat.min_eq_right whole]
  · refine (if_neg (Nat.not_lt.2 fits)).trans ((if_neg (show ¬ min (acc / 1000) left = left by omega)).trans ?_)
    show ({ x.advance x.dir (min (acc / 1000) left) with rate := rate, acc := acc % 1000 } : Axis) = _
    rw [Nat.min_eq_left (Nat.le_of_lt part)]

/-- R153, R160: an axis at rest whose hold condition is present, or whose resume delay is not 0, is HELD with its
activity. -/
theorem Axis.hold_eq (x : Axis) (r : AxisRec) (hold : Bool) (act : Activity) (h : hold = true ∨ r.resume ≠ 0) :
    x.hold r hold act =
      { x.atRest with state := .held, ending := none, follow := some act, cause := none,
                      wait := if hold then none else some r.resume } := by
  cases hold <;> simp_all [Axis.hold, Axis.startWait]

/-- R153: ending IDLE. -/
theorem Axis.comeToRest_idle {x : Axis} (r : AxisRec) (hold : Bool) (h : x.ending = some .idle) :
    x.comeToRest r hold = x.idle := by simp [Axis.comeToRest, h]

/-- R153: ending HELD with what is to follow. -/
theorem Axis.comeToRest_held {x : Axis} {act : Activity} (r : AxisRec) (hold : Bool) (h : x.ending = some .held)
    (hf : x.follow = some act) : x.comeToRest r hold = x.hold r hold act := by simp [Axis.comeToRest, h, hf]

/-- R153: ending NEXT with what is to follow. -/
theorem Axis.comeToRest_next {x : Axis} {act : Activity} (r : AxisRec) (hold : Bool) (h : x.ending = some .next)
    (hf : x.follow = some act) :
    x.comeToRest r hold = if hold then x.hold r hold act else x.atRest.undertake r r.homeRate act := by
  simp [Axis.comeToRest, h, hf]

/-! ### Homing -/

/-- R154, R155: one interval's steps of a homing, and the search limit. -/
theorem Axis.homingSteps_cases (x : Axis) (r : AxisRec) (rate : Nat) :
    let acc := x.acc + rate
    let y : Axis := { x.advance .negative (acc / 1000) with rate := rate, acc := acc % 1000 }
    (0 ≤ y.position + (r.maxPos - r.minPos) + 1000 → x.homingSteps r rate = (y, .quiet))
    ∧ (y.position + (r.maxPos - r.minPos) + 1000 < 0 →
        x.homingSteps r rate = (y.faulted .homeNotFound, .fault .homeNotFound)) := by
  intro acc y
  exact ⟨fun h => if_neg (show ¬ r.searchedOut y.position = true by rw [AxisRec.searchedOut_iff]; omega),
    fun h => if_pos ((AxisRec.searchedOut_iff r y.position).2 h)⟩

/-- R155: a home found under a stop whose ending is not HELD comes to rest. -/
theorem Axis.homeFoundStopping_rests {x : Axis} (r : AxisRec) (hold : Bool) (h : x.ending ≠ some .held) :
    x.homeFoundStopping r hold = Axis.comeToRest { x.atRest with homed := true, position := 0 } r hold := by
  unfold Axis.homeFoundStopping; rcases hx : x.ending with _ | _ | _ | _ <;> simp_all

/-- R155: a home found under a stop with ending HELD holds the pending move, and without one the axis is IDLE. -/
theorem Axis.homeFoundStopping_held {x : Axis} (r : AxisRec) (hold : Bool) (h : x.ending = some .held) :
    x.homeFoundStopping r hold = match x.pendingMove with
      | some m => Axis.hold { x.atRest with homed := true, position := 0, pendingMove := none } r hold (.move m)
      | none => Axis.idle { x.atRest with homed := true, position := 0 } := by
  cases hp : x.pendingMove <;> simp [Axis.homeFoundStopping, h, hp]

/-! ### The event as a command -/

section Event

variable {s : State} {a : Fin 8} {home limit : Bool} {y : Axis}

/-- R146: PROFILE_INTERVAL_EVENT, as the interval of the axis and its news. -/
theorem exec_profileIntervalEvent (h : s.inReset = false) :
    exec (.profileIntervalEvent a home limit) s = .next (s.axisInterval a home limit).finishLink :=
  congrArg Host.Outcome.next (State.live_running _ h)

/-- The interval of the axis after its switches have been sampled. -/
def State.intervalOf (s : State) (a : Fin 8) (home limit : Bool) : Axis × AxisNews :=
  Axis.interval { s.motion.axes[a] with homeSwitch := home, limitSwitch := limit, pulses := 0 } s.store.tables
    (s.store.tables.axis a) (s.holdPresent a)

theorem State.axisInterval_eq (s : State) (a : Fin 8) (home limit : Bool) :
    s.axisInterval a home limit =
      (s.setAxis a (s.intervalOf a home limit).1).axisNews a (s.intervalOf a home limit).2 := rfl

/-- An interval with nothing to report changes its axis alone. -/
theorem exec_profileIntervalEvent_quiet (h : s.inReset = false) (hi : s.intervalOf a home limit = (y, .quiet)) :
    exec (.profileIntervalEvent a home limit) s = .next (s.setAxis a y).finishLink := by
  rw [exec_profileIntervalEvent h, State.axisInterval_eq, hi]; rfl

/-- R154, R155: an interval that finds the home reports it. -/
theorem exec_profileIntervalEvent_homed (h : s.inReset = false) (hi : s.intervalOf a home limit = (y, .homed)) :
    exec (.profileIntervalEvent a home limit) s =
      .next (State.finishLink
        { s.setAxis a y with link := s.link.raise (.axisHomed a s.engine.claims.axes[a]) }) := by
  rw [exec_profileIntervalEvent h, State.axisInterval_eq, hi]; rfl

/-- R155, R158, R164: the fault of an axis that nobody claims is reported. -/
theorem exec_profileIntervalEvent_fault {cause : AxisCause} (h : s.inReset = false)
    (ho : s.engine.claims.axes[a] = none) (hi : s.intervalOf a home limit = (y, .fault cause)) :
    exec (.profileIntervalEvent a home limit) s =
      .next (State.finishLink
        { s.setAxis a y with link := s.link.raise (.axisFault a cause y.position none none) }) := by
  rw [exec_profileIntervalEvent h, State.axisInterval_eq, hi]
  have free : (s.setAxis a y).engine.claims.axes[a] = none := ho
  simp only [State.axisNews, free]
  simp [State.setAxis, State.raise, State.sceneOf]

end Event

end Sys2Proof.Machine
end

