-- ==== Sys2Proof/Laws/Moves.lean ====
section
/-! SUPPORT. Everything that one step of the part can do, said once: the small acts of the blocks (`Act`), the moves
of the link and of the resets (`PartMove`), and the runs of them (`Acts`, `PartRun`). `Laws/Runs.lean` shows that every
command is such a run, so an invariant is proved by looking at each act and move once. -/

namespace Sys2Proof.Machine

/-- What happens to the lighting of a part with tables `t` in show state `mode`. -/
inductive LightMove (t : Tables) (mode : ShowState) : Lighting → Lighting → Prop
  | fade (l : Lighting) (c : Fin 48) (level length : Nat) (curve : FadeCurve) :
      LightMove t mode l (l.startFade c level length curve)
  | master (l : Lighting) (g : Fin 16) (level length : Nat) : LightMove t mode l (l.startMaster g level length)
  | grand (l : Lighting) (level : Nat) : LightMove t mode l { l with grand := level }
  | round (l : Lighting) (slot : Fin 16) (hold : Nat) : LightMove t mode l { l with slot := slot, hold := hold }
  | tick (l : Lighting) (f : Nat) :
      LightMove t mode l { (l.stepFades.formDuties t mode).advanceCarriers t mode with frame := some f }
  | house (l : Lighting) (asserted : Bool) : LightMove t mode l (l.houseEvent t asserted)
  | period (l : Lighting) (c : Fin 48) : LightMove t mode l (l.periodStart t c)
  | loading (l : Lighting) : LightMove t mode l l.enterLoading
  | reset (l : Lighting) : LightMove t mode l (l.softReset t)

/-- What happens to the sound of a part with tables `t`. -/
inductive SoundMove (t : Tables) : Sound → Sound → Prop
  | say (x : Sound) (v : Fin 4) (clip : Fin 256) (language output : Fin 4) (h : x.voices[v].state = .idle) :
      SoundMove t x (x.say t v clip language output)
  | hush (x : Sound) (v : Fin 4) : SoundMove t x (x.fadeOut v)
  | sample (x : Sound) : SoundMove t x x.sampleEvent
  | voiceFrame (x : Sound) (v : Fin 4) (f : Nat) : SoundMove t x (x.voiceFrame v f)
  | bedFrame (x : Sound) (running : Bool) (b : Fin 4) (f : Nat) : SoundMove t x (x.bedFrame t running b f)
  | startBeds (x : Sound) : SoundMove t x (x.startBeds t)
  | stopBeds (x : Sound) : SoundMove t x x.stopBeds
  | setBed (x : Sound) (o : Fin 4) (clip : Option (Fin 256)) (gain : Nat) (running : Bool) :
      SoundMove t x (x.setBed t o clip gain running)
  | loadBed (x : Sound) (b : Fin 4) : SoundMove t x { x with beds := x.beds.set b (x.beds[b].load (t.bed b)) }
  | loadBeds (x : Sound) : SoundMove t x (x.loadBeds t)
  | loading (x : Sound) : SoundMove t x x.enterLoading
  | reset (x : Sound) : SoundMove t x (x.softReset t)
  | complete (x : Sound) (data : List Byte) : SoundMove t x (x.complete data)
  | imageRead (x : Sound) (h : x.flight = some .image) : SoundMove t x { x with flight := none }
  | grant (x : Sound) (imageWaits : Bool) : SoundMove t x (x.grant imageWaits)

/-- What happens to one axis of record `r`, whose hold condition is `hold`, in a part with tables `t`. -/
inductive AxisMove (t : Tables) (r : AxisRec) (hold : Bool) : Axis → Axis → Prop
  | move (a b : Axis) (m : Move) (h : a.takeMove? t r hold m = some b) : AxisMove t r hold a b
  | home (a b : Axis) (h : a.takeHome? r hold = some b) : AxisMove t r hold a b
  | interval (a : Axis) (home limit : Bool) : AxisMove t r hold a ((a.sampled home limit).interval t r hold).1
  | frame (a : Axis) (f : Nat) : AxisMove t r hold a (a.frameEvent r f)

/-- A zone has taken its frame event, and the axes have not yet. -/
def State.zoneStepped (s : State) (z : Fin 12) (raw : Bool) (f : Nat) : State :=
  let y := s.monitor.zones[z].step (s.store.tables.zone z) raw
  { s with monitor := { s.monitor with zones := s.monitor.zones.set z { y with frame := some f } } }

/-- Every block has its copy of HOUSE, and the axes have not yet followed it. -/
def State.houseTaken (s : State) (asserted : Bool) : State :=
  { s with
    light := s.light.houseEvent s.store.tables asserted
    sound := { s.sound with house := asserted }
    motion := { s.motion with house := asserted }
    engine := { s.engine with house := asserted } }

/-- The Motion and Scene Engines have their copies of ESTOP, and the axes have followed it. -/
def State.estopTaken (s : State) (asserted : Bool) : State :=
  State.mapAxes
    { s with motion := { s.motion with estop := asserted }, engine := { s.engine with estop := asserted } }
    fun _ x => if asserted then x.estopAsserted else x.estopReleased

/-- The part at its reset values, with the pins and the start cause given and the waiting commands kept. -/
def State.restarted (s : State) (inReset mode1 mode0 fastBaud : Bool) (cause : StartCause) : State :=
  let link := { Link.reset with fastBaud := fastBaud, mode1 := mode1, mode0 := mode0, cause := cause }
  { State.reset with pending := s.pending, inReset := inReset, link := link }

/-- The small acts of the blocks that a command is made of. No act touches the queue of waiting commands, the
receiver, the request queue, the reply list or the transmitter. -/
inductive Act : State → State → Prop
  -- the link
  | raise (s : State) (r : Report) : Act s (s.raise r)
  | cursor (s : State) (c : Cursor) (h : s.link.cursor.index ≤ tableEntries s.link.cursor.table →
      c.index ≤ tableEntries c.table) : Act s (s.setCursor c)
  | threshold (s : State) (n : Nat) (h : n ≤ 3) : Act s { s with link := { s.link with threshold := n } }
  | cause (s : State) : Act s { s with link := { s.link with cause := .softReset } }
  -- the clock
  | frame (s : State) (f : Nat) : Act s (s.atFrame f)
  | counted (s : State) (f : Nat) : Act s { s with engine := { s.engine with frame := some f } }
  -- the show store
  | mode (s : State) (m : ShowState) (triggers attract : Bool)
      (h : m ≠ .running → triggers = false ∧ attract = false) : Act s (s.setMode m triggers attract)
  | load (s : State) (status : LoadStatus) (x : Option Load) :
      Act s { s with store := { s.store with status := status, load := x } }
  | emptied (s : State) : Act s s.emptyTables
  | stored (s t : State) (table : Fin 14) (i : Nat) (bs : List Byte) (h : s.storeRecord? table i bs = some t) : Act s t
  -- the scene engine
  | scene (s : State) (sc : Fin 64) (x : SceneRun) : Act s (s.setScene sc x)
  | scenes (s : State) (x : Vector SceneRun 64) : Act s { s with engine := { s.engine with scenes := x } }
  | halt (s : State) (p : Fin 8) (reason : StopReason) : Act s (s.halt p reason)
  | startOn (s : State) (sc : Fin 64) (src : Source) (voice : Option (Fin 4)) (p : Fin 8)
      (h : s.engine.players[p] = none) : Act s (s.startOn sc src voice p)
  | offer (s : State) (sc : Fin 64) (src : Source) : Act s (s.offer sc src).1
  | queue (s : State) (q : List Entry) (h : q.Sublist s.engine.queue) : Act s (s.setQueue q)
  | patience (s : State) (k : Entry → Entry) (h : ∀ e, (k e).priority = e.priority) :
      Act s (s.setQueue (s.engine.queue.map k))
  | owner (s : State) (g : Fin 16) (o : GroupOwner) (h : ∀ p, o ≠ .player p) : Act s (s.setGroupOwner g o)
  | player (s : State) (p : Fin 8) (r q : Run) (h : s.engine.players[p] = some r) (hs : q.scene = r.scene)
      (ho : q.order = r.order) (hl : r.loops.length ≤ 4 → q.loops.length ≤ 4) : Act s (s.setPlayer p (some q))
  | press (s : State) (b : Fin 16) : Act s { s with engine := s.engine.press b }
  | engineReset (s : State) : Act s { s with engine := s.engine.softReset s.store.tables }
  -- lighting, sound, motion
  | light (s : State) (l : Lighting) (h : LightMove s.store.tables s.store.mode s.light l) : Act s { s with light := l }
  | sound (s : State) (x : Sound) (h : SoundMove s.store.tables s.sound x) : Act s { s with sound := x }
  | axis (s : State) (a : Fin 8) (x : Axis)
      (h : AxisMove s.store.tables (s.store.tables.axis a) (s.holdPresent a) s.motion.axes[a] x) : Act s (s.setAxis a x)
  | axesFrame (s : State) (f : Nat) : Act s (s.mapAxes fun a x => x.frameEvent (s.store.tables.axis a) f)
  | axesStop (s : State) : Act s { s with motion := s.motion.stopAll }
  | axesReset (s : State) : Act s (s.mapAxes fun _ x => x.softReset s.motion.estop)
  -- the zone monitor and what it publishes
  | sampled (s : State) (active : BitVec 16) (f : Nat) :
      Act s { s with monitor := { s.monitor with sensors := active, frame := some f } }
  | seeded (s : State) : Act s { s with monitor := { s.monitor with seeded := true } }
  | zone (s : State) (z : Fin 12) (raw : Bool) (f : Nat) : Act s (State.holdsChanged (s.zoneStepped z raw f) s)
  | button (s : State) (b : Fin 16) (x : Button) :
      Act s { s with monitor := { s.monitor with buttons := s.monitor.buttons.set b x } }
  | lamp (s : State) (b : Fin 16) (x : Lamp) :
      Act s { s with monitor := { s.monitor with lamps := s.monitor.lamps.set b x } }
  | language (s : State) (z : Fin 12) (l : Fin 4) (h : (s.store.tables.zone z).languages.getLsbD l = true) :
      Act s { s with monitor := s.monitor.setLanguage z l }
  | languages (s : State) : Act s { s with monitor := s.monitor.defaultLanguages s.store.tables }
  | houseSeen (s : State) (x : Safety) : Act s { s with monitor := { s.monitor with house := x } }
  | estopSeen (s : State) (x : Safety) : Act s { s with monitor := { s.monitor with estop := x } }
  | house (s : State) (asserted : Bool) : Act s (State.holdsChanged (s.houseTaken asserted) s)
  | estop (s : State) (asserted : Bool) : Act s (s.estopTaken asserted)

/-- A run of acts. -/
inductive Acts : State → State → Prop
  | refl (s : State) : Acts s s
  | tail {s t u : State} (h : Acts s t) (m : Act t u) : Acts s u

/-- The moves of one command: acts, and what the link and the resets do beside them. -/
inductive PartMove : State → State → Prop
  | act {s t : State} (h : Act s t) : PartMove s t
  | received (s : State) (b : Byte) (stopOk : Bool) :
      PartMove s { s with link := { s.link with receiver := (s.link.receiver.receive b stopOk).1 } }
  | hunt (s : State) : PartMove s { s with link := { s.link with receiver := Receiver.reset } }
  | arrive (s : State) (kind : Byte) (payload : List Byte) : PartMove s { s with link := s.link.arrive kind payload }
  | sent (s : State) : PartMove s { s with link := { s.link with sending := none } }
  | take (s : State) (r : Request) (l : Link) (h : s.link.ready? = some (r, l)) : PartMove s { s with link := l }
  | reply (s : State) (kind : Byte) (payload : List Byte) (h : s.link.replies.all (·.busy) = true) :
      PartMove s { s with link := s.link.reply kind payload }
  | transmit (s : State) : PartMove s { s with link := s.link.transmit }
  | restart (s : State) (inReset mode1 mode0 fastBaud : Bool) (cause : StartCause) :
      PartMove s (s.restarted inReset mode1 mode0 fastBaud cause)

/-- A run of moves. -/
inductive PartRun : State → State → Prop
  | refl (s : State) : PartRun s s
  | tail {s t u : State} (h : PartRun s t) (m : PartMove t u) : PartRun s u

end Sys2Proof.Machine
end

