-- ==== Sys2Proof/Laws/SceneRuns.lean ====
section
/-! SUPPORT. The shared operations of the Scene Engine are runs of acts. -/

namespace Sys2Proof.Machine

/-! ### Runs -/

theorem Acts.one {s t : State} (h : Act s t) : Acts s t := .tail (.refl s) h

theorem Acts.trans {s t u : State} (h : Acts s t) (k : Acts t u) : Acts s u := by
  induction k with
  | refl => exact h
  | tail _ m ih => exact .tail ih m

theorem Acts.foldl {β : Type} (f : State → β → State) (hf : ∀ s x, Acts s (f s x)) (xs : List β) (s : State) :
    Acts s (xs.foldl f s) := by
  induction xs generalizing s with
  | nil => exact .refl s
  | cons x xs ih => exact (hf s x).trans (ih _)

theorem Acts.foldlFst {β γ : Type} (f : State × γ → β → State × γ) (hf : ∀ x b, Acts x.1 (f x b).1) (xs : List β)
    (x : State × γ) : Acts x.1 (xs.foldl f x).1 := by
  induction xs generalizing x with
  | nil => exact .refl _
  | cons b xs ih => exact (hf x b).trans (ih _)

theorem Acts.iteSelf {c : Prop} [Decidable c] {s t : State} (h : c → Acts s t) : Acts s (if c then t else s) := by
  split
  · exact h ‹_›
  · exact .refl s

/-! ### Lighting -/

/-- A run of lighting moves. -/
inductive LightRun (t : Tables) (mode : ShowState) : Lighting → Lighting → Prop
  | refl (l : Lighting) : LightRun t mode l l
  | tail {l m n : Lighting} (h : LightRun t mode l m) (k : LightMove t mode m n) : LightRun t mode l n

variable {t : Tables} {mode : ShowState}

theorem LightRun.trans {l m n : Lighting} (h : LightRun t mode l m) (k : LightRun t mode m n) : LightRun t mode l n := by
  induction k with
  | refl => exact h
  | tail _ k ih => exact .tail ih k

theorem LightRun.foldl {β : Type} (f : Lighting → β → Lighting) (hf : ∀ l x, LightRun t mode l (f l x)) (xs : List β)
    (l : Lighting) : LightRun t mode l (xs.foldl f l) := by
  induction xs generalizing l with
  | nil => exact .refl l
  | cons x xs ih => exact (hf l x).trans (ih _)

theorem LightRun.applyLook (l : Lighting) (look : Fin 128) (el : Fin 16 → Bool) (n : Nat) (curve : FadeCurve) :
    LightRun t mode l (l.applyLook t look el n curve) := by
  refine LightRun.foldl _ (fun l x => ?_) _ _
  split
  · exact .tail (.refl l) (.fade ..)
  · exact .refl l

theorem LightRun.returnGroup (l : Lighting) (claims : Claims) (g : Fin 16) :
    LightRun t mode l (l.returnGroup t claims g) := by
  unfold Lighting.returnGroup
  split
  · exact LightRun.applyLook ..
  · exact .refl l

theorem LightRun.enterSlot (l : Lighting) (claims : Claims) (slot : Fin 16) :
    LightRun t mode l (l.enterSlot t claims slot) :=
  .tail (LightRun.applyLook l _ _ _ _) (.round ..)

theorem LightRun.attractChange (l : Lighting) (claims : Claims) (was now : Bool) :
    LightRun t mode l (l.attractChange t claims was now) := by
  unfold Lighting.attractChange
  split
  · exact .refl l
  · split
    · exact LightRun.enterSlot ..
    · exact .tail (.refl l) (.round l 0 0)

theorem LightRun.frameEvent (l : Lighting) (st : Store) (claims : Claims) (f : Nat) :
    LightRun st.tables st.mode l (l.frameEvent st claims f) := by
  unfold Lighting.frameEvent
  split
  · exact .refl l
  · refine .tail (m := if st.attractRunning then l.countHold st.tables claims else l) ?_ (.tick _ f)
    split
    · unfold Lighting.countHold
      split
      · exact LightRun.enterSlot ..
      · exact .tail (.refl l) (.round l l.slot (l.hold - 1))
    · exact .refl l

theorem Acts.light {s : State} {l : Lighting} (h : LightRun s.store.tables s.store.mode s.light l) :
    Acts s { s with light := l } := by
  induction h with
  | refl => exact .refl s
  | tail _ k ih => exact .tail ih (.light _ _ k)

/-! ### Starts and stops -/

theorem Acts.returnGroups (s : State) (released : List (Fin 16)) : Acts s (s.returnGroups released) := by
  unfold State.returnGroups
  split
  · refine Acts.light (LightRun.foldl _ (fun l g => ?_) _ _)
    split
    · exact LightRun.returnGroup ..
    · exact .refl l
  · exact .refl s

theorem Acts.sceneTo (s : State) (sc : Fin 64) (x : SceneState) : Acts s (s.sceneTo sc x) := .one (.scene ..)

theorem Acts.sceneRests (s : State) (sc : Fin 64) : Acts s (s.sceneRests sc) := by
  unfold State.sceneRests
  dsimp only
  split
  · exact Acts.sceneTo ..
  · exact .one (.scene ..)

theorem Acts.haltNoting (s : State) (n : Released) (p : Fin 8) (reason : StopReason) :
    Acts s (s.haltNoting n p reason).1 := by
  unfold State.haltNoting
  split
  · exact .refl s
  · exact .one (.halt ..)

theorem Engine.firstFree_free {e : Engine} {p : Fin 8} (h : e.firstFree = some p) : e.players[p] = none := by
  have := List.find?_some h
  simpa using this

theorem Acts.start (s : State) (sc : Fin 64) (src : Source) : Acts s (s.start sc src).1 := by
  unfold State.start
  dsimp only
  generalize (if (s.store.tables.scene sc).narration = true then s.chooseVoice (s.store.tables.scene sc).priority
    else none) = voice
  have h := Acts.foldlFst (fun (x : State × Released) p => x.1.haltNoting x.2 p .preempted)
    (fun x p => Acts.haltNoting x.1 x.2 p _) (s.preempted sc voice) (s, ⟨[], []⟩)
  split
  · exact h
  · next p hp =>
    have k := h.tail (.startOn _ sc src voice p (Engine.firstFree_free hp))
    split
    · exact k.trans (Acts.haltNoting ..)
    · exact k

theorem Acts.endScene (again : State → Fin 64 → State × TriggerOutcome) (h : ∀ s sc, Acts s (again s sc).1) (s : State)
    (sc : Fin 64) (reason : StopReason) : Acts s (s.endScene again sc reason) := by
  unfold State.endScene
  dsimp only
  have k := (Acts.sceneTo s sc .ready).trans (h (s.sceneTo sc .ready) sc)
  split
  · split
    · next e => rw [e] at k; exact k
    · next e => rw [e] at k; exact k
    · next e => rw [e] at k; exact k.trans (Acts.sceneRests ..)
  · exact (Acts.sceneTo ..).trans (Acts.sceneRests ..)

theorem Acts.admission (fuel : Nat) (s : State) (sc : Fin 64) (src : Source) (released : List (Fin 16)) :
    Acts s (s.admission fuel sc src released).1 := by
  induction fuel generalizing s sc src released with
  | zero =>
    rw [State.admission]
    split
    · refine Acts.trans (Acts.trans (Acts.start s sc src) ?_) (Acts.returnGroups _ _)
      exact Acts.foldl _ (fun t (e : Fin 64 × StopReason) => Acts.sceneRests t e.1) _ _
    · exact (Acts.one (.offer s sc src)).trans (Acts.returnGroups _ _)
  | succ n ih =>
    rw [State.admission]
    split
    · refine Acts.trans (Acts.trans (Acts.start s sc src) ?_) (Acts.returnGroups _ _)
      exact Acts.foldl _ (fun t (e : Fin 64 × StopReason) =>
        Acts.endScene (fun u c => let x := State.admission n u c .again []; (x.1, x.2.1))
          (fun u c => ih u c .again []) t e.1 e.2) _ _
    · exact (Acts.one (.offer s sc src)).trans (Acts.returnGroups _ _)

theorem Acts.stopPlayer (s : State) (p : Fin 8) (reason : StopReason) : Acts s (s.stopPlayer p reason) := by
  unfold State.stopPlayer
  split
  · exact .refl s
  · exact ((Acts.one (.halt ..)).trans
      (Acts.endScene _ (fun u c => Acts.admission _ u c .again []) _ _ _)).trans (Acts.returnGroups ..)

theorem Acts.rescanFrom (n : Nat) (s : State) (i : Nat) (any : Bool) : Acts s (s.rescanFrom n i any) := by
  induction n generalizing s i any with
  | zero => exact .refl s
  | succ n ih =>
    unfold State.rescanFrom
    split
    · split
      · exact ih ..
      · exact .refl s
    · split
      · exact (((Acts.one (.queue _ _ (List.eraseIdx_sublist _ _))).trans (Acts.sceneTo ..)).trans
          (Acts.admission ..)).trans (ih ..)
      · exact ih ..

theorem Acts.rescan (s : State) : Acts s s.rescan := by
  unfold State.rescan
  split
  · exact Acts.rescanFrom ..
  · exact .refl s

theorem Acts.stopAndRescan (s : State) (p : Fin 8) (reason : StopReason) : Acts s (s.stopAndRescan p reason) := by
  unfold State.stopAndRescan
  split
  · exact .refl s
  · exact (Acts.stopPlayer ..).trans (Acts.rescan _)

theorem Acts.restart (s : State) (sc : Fin 64) (src : Source) (p : Fin 8) : Acts s (s.restart sc src p) := by
  unfold State.restart
  dsimp only
  refine Acts.trans ?_ (Acts.rescan _)
  have h := ((Acts.one (.halt s p .restarted)).trans (Acts.sceneTo _ sc .ready)).trans
    (Acts.admission admissionFuel _ sc src (s.engine.groupsOf p))
  split
  · exact h.trans (Acts.sceneRests ..)
  · exact h

theorem Acts.trigger (s : State) (sc : Fin 64) (src : Source) : Acts s (s.trigger sc src).1 := by
  unfold State.trigger
  dsimp only
  split
  · exact .refl s
  · split
    · exact .refl s
    · split
      · split
        · exact .refl s
        · split
          · exact .refl s
          · exact .one (.scene ..)
        · split
          · exact Acts.restart ..
          · exact .refl s
      · exact .refl s
      · exact .refl s
      · exact .refl s
      · split
        · exact (Acts.admission ..).trans (Acts.rescan _)
        · exact Acts.admission ..

theorem Acts.raiseTriggers (s : State) (src : Source) : Acts s (s.raiseTriggers src).1 := by
  unfold State.raiseTriggers
  split
  · refine Acts.foldlFst (β := Fin 64) _ (fun x sc => ?_) _ (s, [])
    dsimp only
    split
    · exact Acts.trigger ..
    · exact .refl _
  · exact .refl s

theorem Acts.dropEntry (s : State) (e : Entry) (reason : DropReason) : Acts s (s.dropEntry e reason) :=
  ((Acts.one (.queue _ _ List.filter_sublist)).trans (Acts.sceneTo ..)).tail (.raise ..)

theorem Acts.countPatience (s : State) (f : Nat) : Acts s (s.countPatience f) := by
  unfold State.countPatience
  split
  · have h := Acts.foldl (fun (t : State) e => t.dropEntry e .patience) (fun t e => Acts.dropEntry t e _)
      (s.engine.queue.filter (·.expires f)) s
    refine h.tail (.patience _ _ fun e => ?_)
    split <;> rfl
  · exact .refl s

theorem Acts.countScenes (s : State) (f : Nat) : Acts s (s.countScenes f) := by
  refine .tail ((Acts.countPatience s f).trans ?_) (.counted _ f)
  unfold State.countCooldowns
  split
  · exact .refl _
  · exact .one (.scenes ..)

theorem Acts.leaveShow (s : State) : Acts s s.leaveShow := by
  unfold State.leaveShow
  dsimp only
  refine ((Acts.foldl _ (fun t p => Acts.stopPlayer t p .standby) _ s).trans
    (Acts.foldl _ (fun t (e : Entry) => Acts.sceneTo t e.scene .ready) _ _)).tail (.queue _ _ (List.nil_sublist _))

end Sys2Proof.Machine
end

