-- ==== Sys2Proof/Laws/PlayerRuns.lean ====
section
/-! SUPPORT. The execution of cues and the frame event of a player are runs of acts (chapter 3). -/

namespace Sys2Proof.Machine

/-- What the execution of a cue of player `p`, whose record is `r`, may lead to: nothing but acts, after which the
player still holds its run. -/
def CueEffect.Acted (s : State) (p : Fin 8) (r : Run) : CueEffect → Prop
  | .goes t _ => Acts s t ∧ ∃ q, t.engine.players[p] = some q ∧ q.scene = r.scene ∧ q.order = r.order ∧
      (r.loops.length ≤ 4 → q.loops.length ≤ 4)
  | .awaits t _ => t = s
  | .blocks => True
  | .stops _ => True

variable {s : State} {p : Fin 8} {r : Run}

/-- A cue whose effects leave the players alone. -/
theorem CueEffect.Acted.mk (hp : s.engine.players[p] = some r) {t : State} (h : Acts s t)
    (e : t.engine.players = s.engine.players) (n : Nat) : CueEffect.Acted s p r (.goes t n) :=
  ⟨h, r, by rw [← hp]; simp [e], rfl, rfl, id⟩

theorem CueEffect.acted_setLoops (hp : s.engine.players[p] = some r) (loops : List LoopEntry)
    (hl : r.loops.length ≤ 4 → loops.length ≤ 4) (n : Nat) :
    CueEffect.Acted s p r (.goes (s.setLoops p r loops) n) :=
  ⟨.one (.player s p r _ hp rfl rfl hl), { r with loops := loops }, by simp [State.setLoops], rfl, rfl, hl⟩

theorem State.cueMove_acted (hp : s.engine.players[p] = some r) (a : Fin 8) (position : Int)
    (profile : Option (Fin 16)) : CueEffect.Acted s p r (s.cueMove r a position profile) := by
  unfold State.cueMove
  dsimp only
  split
  · trivial
  · trivial
  all_goals
    split
    · next x hx => exact .mk hp (.one (.axis s a x (.move _ _ _ hx))) rfl _
    · trivial

theorem State.cueHome_acted (hp : s.engine.players[p] = some r) (a : Fin 8) :
    CueEffect.Acted s p r (s.cueHome r a) := by
  unfold State.cueHome
  split
  · trivial
  all_goals
    split
    · next x hx => exact .mk hp (.one (.axis s a x (.home _ _ hx))) rfl _
    · trivial

theorem State.cueAwait_acted (hp : s.engine.players[p] = some r) (cond : AwaitCond) (operand : Byte) (timeout : Nat)
    (target : Fin 2048) : CueEffect.Acted s p r (s.cueAwait p r cond operand timeout target) := by
  unfold State.cueAwait
  cases cond <;> dsimp only <;> split <;> (try trivial) <;> split <;>
    first
      | exact .mk hp (.refl s) rfl _
      | trivial

theorem State.cueNext_acted (hp : s.engine.players[p] = some r) : CueEffect.Acted s p r (s.cueNext p r) := by
  unfold State.cueNext
  split
  · trivial
  · next e he =>
    split
    · refine CueEffect.acted_setLoops hp _ (fun h => ?_) _
      rw [List.length_dropLast]; omega
    · split
      · exact .mk hp (.refl s) rfl _
      · refine CueEffect.acted_setLoops hp _ (fun h => ?_) _
        have : r.loops ≠ [] := by rintro h; simp [h] at he
        have := List.length_pos_iff.2 this
        simp only [List.length_append, List.length_dropLast, List.length_singleton]
        omega

/-- R45 to R56: what the execution of a cue does. -/
theorem State.execCue_acted (hp : s.engine.players[p] = some r) : CueEffect.Acted s p r (s.execCue p r) := by
  unfold State.execCue
  dsimp only
  split
  · exact .mk hp (Acts.light (LightRun.applyLook ..)) rfl _
  · refine .mk hp ?_ (by split <;> rfl) _
    split
    · exact .one (.light _ _ (.fade ..))
    · exact .refl s
  · refine .mk hp ?_ (by split <;> rfl) _
    split
    · exact .one (.light _ _ (.master ..))
    · exact .refl s
  · split
    · exact .mk hp (.refl s) rfl _
    · split
      · next h => exact .mk hp (.one (.sound _ _ (.say _ _ _ _ _ h))) rfl _
      · trivial
  · split
    · exact .mk hp (.refl s) rfl _
    · exact .mk hp (.one (.sound _ _ (.hush ..))) rfl _
  · split
    · exact State.cueMove_acted hp ..
    · trivial
  · split
    · exact State.cueHome_acted hp ..
    · trivial
  · exact State.cueAwait_acted hp ..
  · split
    · next h =>
      refine CueEffect.acted_setLoops hp _ (fun _ => ?_) _
      rw [List.length_append]
      simp only [Config.loopMax] at h
      simp only [List.length_singleton]
      omega
    · trivial
  · exact State.cueNext_acted hp
  · exact .mk hp (.one (.lamp ..)) rfl _
  · exact .mk hp (.one (.raise ..)) rfl _
  · exact .mk hp (.refl s) rfl _
  · trivial

/-- R43, R44: the cue run of a player. -/
theorem Acts.runCues (n : Nat) (s : State) (p : Fin 8) : Acts s (s.runCues n p).1 := by
  induction n generalizing s with
  | zero => exact .refl s
  | succ n ih =>
    unfold State.runCues
    split
    · exact .refl s
    · next r hp =>
      have k := State.execCue_acted hp
      split
      · exact .refl s
      · exact .one (.player s p r _ hp rfl rfl id)
      · next t a e =>
        rw [e] at k
        have k : t = s := k
        subst k
        exact .one (.player t p r _ hp rfl rfl id)
      · next t target e =>
        rw [e] at k
        obtain ⟨ha, q, hq, -, -, -⟩ := k
        dsimp only
        rw [hq, Option.getD_some]
        split
        · exact ha.tail (.player t p q _ hq rfl rfl id)
        · have k (x : Run) (hs : x.scene = q.scene) (ho : x.order = q.order) (hl : x.loops = q.loops) :=
            ha.tail (.player t p q x hq hs ho (by rw [hl]; exact id))
          split
          · refine Acts.trans ?_ (ih _)
            exact k _ rfl rfl rfl
          · exact k _ rfl rfl rfl

theorem Acts.leaveAwait (s : State) (p : Fin 8) (r : Run) (target : Nat) (hp : s.engine.players[p] = some r) :
    Acts s (s.leaveAwait p r target).1 := by
  unfold State.leaveAwait
  split
  · exact .refl s
  · next c _ =>
    have k := Acts.one (.player s p r (r.arrive s.store.tables c) hp rfl rfl id)
    dsimp only
    split
    · exact k.trans (Acts.runCues ..)
    · exact k

theorem Acts.playerActs (s : State) (p : Fin 8) (r : Run) (hp : s.engine.players[p] = some r) :
    Acts s (s.playerActs p r).1 := by
  unfold State.playerActs
  split
  · split
    · refine Acts.trans ?_ (Acts.runCues ..)
      exact .one (.player s p r _ hp rfl rfl id)
    · exact .one (.player s p r _ hp rfl rfl id)
  · split
    · exact Acts.leaveAwait _ _ _ _ hp
    · exact .refl s
    · split
      · exact .refl s
      · split
        · exact Acts.leaveAwait _ _ _ _ hp
        · exact .one (.player s p r _ hp rfl rfl id)
  · split
    · exact Acts.runCues ..
    · exact .refl s

/-- R43: the frame event of a player. -/
theorem Acts.playerFrame (s : State) (p : Fin 8) (f : Nat) : Acts s (s.playerFrame p f) := by
  unfold State.playerFrame
  split
  · exact .refl s
  · next r hp =>
    dsimp only
    have k := (Acts.one (.player s p r { r with executed := 0, frame := some f } hp rfl rfl id)).trans
      (Acts.playerActs _ p { r with executed := 0, frame := some f } (by simp))
    split
    · exact k
    · exact k.trans (Acts.stopAndRescan ..)

end Sys2Proof.Machine
end

