-- ==== Sys2Proof/Laws/BlockRuns.lean ====
section
/-! SUPPORT. The shared operations of the Show Store and the Zone Monitor, the frame events and the answers of the
requests are runs of acts. -/

namespace Sys2Proof.Machine

/-! ### Show Store (chapter 1) -/

theorem Acts.attractFollows (s : State) (was : Bool) : Acts s (s.attractFollows was) :=
  Acts.light (LightRun.attractChange ..)

theorem Acts.initialLamps (s : State) : Acts s s.initialLamps :=
  Acts.foldl _ (fun t b => .one (.lamp t b _)) _ _

theorem Acts.recordWritten (s : State) (table : Fin 14) (i : Nat) : Acts s (s.recordWritten table i) := by
  unfold State.recordWritten
  split
  · split
    · exact .one (.scene ..)
    · exact .refl s
  · split
    · split
      · exact .one (.sound _ _ (.loadBed ..))
      · exact .refl s
    · split
      · split
        · split
          · exact .one (.lamp ..)
          · exact .refl s
        · exact .refl s
      · exact .refl s

theorem Acts.enterShow (s : State) (triggers attract : Bool) : Acts s (s.enterShow triggers attract) :=
  (((Acts.one (.mode s .running triggers attract (by simp))).tail (.sound _ _ (.startBeds _)))).trans
    (Acts.attractFollows ..)

theorem Acts.showToStandby (s : State) : Acts s s.showToStandby := by
  unfold State.showToStandby
  have k := (Acts.one (.mode s .standby false false (by simp))).trans (Acts.leaveShow (s.setMode .standby false false))
  generalize (s.setMode .standby false false).leaveShow = u at k ⊢
  exact ((k.tail (.sound u _ (.stopBeds _))).tail (.axesStop _)).trans (Acts.attractFollows ..)

theorem Acts.beginLoad (s : State) (address : Nat) (goal : LoadGoal) : Acts s (s.beginLoad address goal) :=
  ((((Acts.one (.mode s .loading false false (by simp))).tail (.load _ .verifying (some _))).tail
    (.light _ _ (.loading _))).tail (.sound _ _ (.loading _))).tail (.axesStop _)

theorem Acts.loadSettles (s : State) : Acts s s.loadSettles :=
  (((Acts.one (.scenes s _)).tail (.sound _ _ (.loadBeds _))).tail (.languages _)).trans (Acts.initialLamps _)

theorem Acts.setLoad (s : State) (ld : Load) : Acts s (s.setLoad ld) := .one (.load s s.store.status (some ld))

theorem Acts.endLoad (s : State) (status : LoadStatus) : Acts s (s.endLoad status) := .one (.load s status none)

theorem Acts.loadFails (s : State) (ld : Load) (cause : LoadCause) (sect entry : Option Nat) :
    Acts s (s.loadFails ld cause sect entry) :=
  ((((Acts.one (.emptied s)).trans (Acts.endLoad _ _)).tail (.raise ..)).tail (.mode _ .standby false false (by simp))).trans
    (Acts.loadSettles _)

theorem Acts.loadSucceeds (s : State) (ld : Load) : Acts s (s.loadSucceeds ld) := by
  unfold State.loadSucceeds
  dsimp only
  have k := (Acts.endLoad s .done).tail (.raise _ (.loadDone ld.address ld.sections))
  split
  · exact (k.tail (.mode _ .standby false false (by simp))).trans (Acts.loadSettles _)
  · next triggers attract _ =>
    exact (((k.tail (.mode _ .running triggers attract (by simp))).trans (Acts.loadSettles _)).tail
      (.sound _ _ (.startBeds _))).trans (Acts.attractFollows ..)

theorem Acts.beginSection (s : State) (ld : Load) : Acts s (s.beginSection ld) := by
  unfold State.beginSection
  split
  · exact Acts.loadFails ..
  · exact Acts.setLoad ..

theorem Acts.beginApply (s : State) (ld : Load) : Acts s (s.beginApply ld) :=
  ((Acts.one (.emptied s)).tail (.load _ .applying s.emptyTables.store.load)).trans (Acts.beginSection ..)

theorem Acts.checkCrc (s : State) (ld : Load) : Acts s (s.checkCrc ld) := by
  unfold State.checkCrc
  split
  · exact Acts.beginApply ..
  · exact Acts.loadFails ..

theorem Acts.verifyByte (s : State) (ld : Load) (b : Byte) : Acts s (s.verifyByte ld b) := by
  unfold State.verifyByte
  dsimp only
  split
  · split
    · exact Acts.loadFails ..
    · split
      · exact Acts.loadFails ..
      · split
        · exact Acts.loadFails ..
        · split
          · exact Acts.checkCrc ..
          · exact Acts.setLoad ..
  · split
    · exact Acts.checkCrc ..
    · exact Acts.setLoad ..

theorem Acts.endSection (s : State) (ld : Load) : Acts s (s.endSection ld) := by
  unfold State.endSection
  dsimp only
  split
  · exact Acts.beginSection ..
  · split
    · exact Acts.loadFails ..
    · exact Acts.loadSucceeds ..

theorem Acts.takeDescriptor (s : State) (ld : Load) : Acts s (s.takeDescriptor ld) := by
  unfold State.takeDescriptor
  dsimp only
  split
  · exact Acts.loadFails ..
  · split
    · exact Acts.loadFails ..
    · split
      · exact Acts.endSection ..
      · exact Acts.setLoad ..

theorem Acts.takeRecord (s : State) (ld : Load) (t : Fin 14) : Acts s (s.takeRecord ld t) := by
  unfold State.takeRecord
  split
  · exact Acts.loadFails ..
  · next u h =>
    have k := Acts.one (.stored s u t _ _ h)
    split
    · exact k.trans (Acts.endSection ..)
    · exact k.trans (Acts.setLoad ..)

theorem Acts.applyByte (s : State) (ld : Load) (b : Byte) : Acts s (s.applyByte ld b) := by
  unfold State.applyByte
  dsimp only
  split
  · split
    · exact Acts.setLoad ..
    · exact Acts.takeDescriptor ..
  · split
    · exact Acts.setLoad ..
    · exact Acts.takeRecord ..

/-- R15, R16: an image read. -/
theorem Acts.feedImage (pass : LoadPass) (bs : List Byte) (s : State) : Acts s (State.feedImage pass bs s) := by
  induction bs generalizing s with
  | nil => exact .refl s
  | cons b rest ih =>
    unfold State.feedImage
    split
    · exact .refl s
    · split
      · refine Acts.trans ?_ (ih _)
        split
        · exact Acts.verifyByte ..
        · exact Acts.applyByte ..
      · exact .refl s

/-- R18: SOFT RESET. -/
theorem Acts.softReset (s : State) : Acts s s.softReset :=
  ((((((((Acts.one (.cursor s Cursor.reset fun _ => Nat.zero_le _)).tail (.cause _)).tail
    (.mode _ .standby false false (by simp))).tail (.engineReset _)).tail (.light _ _ (.reset _))).tail
    (.sound _ _ (.reset _))).tail (.axesReset _)).tail (.languages _)).trans (Acts.initialLamps _)

/-! ### Zone Monitor (chapter 9) -/

theorem Acts.zoneFrame (s : State) (z : Fin 12) (raw : Bool) (f : Nat) : Acts s (s.zoneFrame z raw f) := by
  unfold State.zoneFrame
  dsimp only
  split
  · exact .refl s
  · refine (Acts.one (.zone s z raw f)).trans ?_
    unfold State.zoneNews
    split
    · exact (Acts.one (.raise ..)).trans (Acts.raiseTriggers ..)
    · exact (Acts.one (.raise ..)).trans (Acts.raiseTriggers ..)
    all_goals exact .refl _

/-- R171: a language press stays within the language set. -/
theorem nextLanguage_mem {set : BitVec 4} {current : Fin 4} (h : nextLanguage set current ≠ current) :
    set.getLsbD (nextLanguage set current) = true := by
  unfold nextLanguage at h ⊢
  split
  · next l hl =>
    have := List.find?_some hl
    simp only [Bool.and_eq_true] at this
    exact this.2
  · next hn =>
    rw [hn] at h
    dsimp only at h
    split
    · next l hl => exact List.find?_some (p := fun (l : Fin 4) => set.getLsbD l.val) hl
    · next hm => rw [hm] at h; exact absurd rfl h

theorem Acts.flash (s : State) (b : Fin 16) : Acts s (s.flash b) := .one (.lamp ..)

theorem Acts.languagePress (s : State) (b : Fin 16) (z : Fin 12) : Acts s (s.languagePress b z) := by
  unfold State.languagePress
  dsimp only
  split
  · exact .refl s
  · next h => exact (Acts.one (.language s z _ (nextLanguage_mem h))).trans (Acts.flash ..)

theorem Acts.press (s : State) (b : Fin 16) : Acts s (s.press b) := by
  unfold State.press
  dsimp only
  refine Acts.tail ?_ (.press _ b)
  split
  · split
    · exact (Acts.raiseTriggers ..).trans (Acts.flash ..)
    · exact Acts.raiseTriggers ..
  · exact Acts.languagePress ..

theorem Acts.buttonFrame (s : State) (b : Fin 16) (pressed : Bool) (f : Nat) : Acts s (s.buttonFrame b pressed f) := by
  unfold State.buttonFrame
  dsimp only
  split
  · exact .refl s
  · generalize (if s.monitor.seeded = true then _ else _) = y
    split
    · exact (Acts.one (.button s b { y with frame := some f })).trans (Acts.press ..)
    · exact .one (.button s b { y with frame := some f })

theorem Acts.lampFrame (s : State) (b : Fin 16) (f : Nat) : Acts s (s.lampFrame b f) := by
  unfold State.lampFrame
  dsimp only
  split
  · exact .refl s
  · exact .one (.lamp s b _)

theorem Acts.publishHouse (s : State) (asserted : Bool) : Acts s (s.publishHouse asserted) := by
  unfold State.publishHouse
  dsimp only
  split
  · exact .one (.house s asserted)
  · exact (Acts.one (.house s asserted)).trans (Acts.rescan _)

theorem Acts.publishEstop (s : State) (asserted : Bool) : Acts s (s.publishEstop asserted) := by
  have k := Acts.one (.estop s asserted)
  change Acts s (if asserted && (s.estopTaken asserted).engine.anyAxisClaimed then
    State.rescan (s.estopTaken asserted).estopPlayers else s.estopTaken asserted)
  split
  · refine (k.trans (Acts.foldl _ (fun t p => ?_) _ _)).trans (Acts.rescan _)
    split
    · exact .refl t
    · exact Acts.stopPlayer ..
  · exact k

theorem Acts.houseFrame (s : State) (sample : Bool) (f : Nat) : Acts s (s.houseFrame sample f) := by
  unfold State.houseFrame
  dsimp only
  split
  · exact .refl s
  · have k := Acts.one (.houseSeen s { s.monitor.house.stepHouse sample with frame := some f })
    split
    · split
      · exact (k.trans (Acts.publishHouse ..)).tail (.raise ..)
      · exact k.trans (Acts.publishHouse ..)
    · exact k

theorem Acts.estopFrame (s : State) (sample : Bool) (f : Nat) : Acts s (s.estopFrame sample f) := by
  unfold State.estopFrame
  dsimp only
  split
  · exact .refl s
  · have k := Acts.one (.estopSeen s { s.monitor.estop.stepEstop sample with frame := some f })
    split
    · split
      · exact (k.trans (Acts.publishEstop ..)).tail (.raise ..)
      · exact k.trans (Acts.publishEstop ..)
    · exact k

/-- R165: the input sample. -/
theorem Acts.takeSample (s : State) (levels : InputLevels) (f : Nat) : Acts s (s.takeSample levels f) := by
  unfold State.takeSample
  dsimp only
  refine Acts.trans (Acts.trans (Acts.tail ?_ (.seeded _)) (Acts.houseFrame ..)) (Acts.estopFrame ..)
  exact (((Acts.one (.sampled s (activeSensors s.store.tables levels.sensors) f)).trans
    (Acts.foldl _ (fun t b => Acts.lampFrame t b f) _ _)).trans
    (Acts.foldl _ (fun t z => Acts.zoneFrame t z _ f) _ _)).trans
    (Acts.foldl _ (fun t (b : Fin 16) => Acts.buttonFrame t b _ f) _ _)

/-! ### Sound and motion -/

theorem Acts.voiceFrame (s : State) (v : Fin 4) (f : Nat) : Acts s (s.voiceFrame v f) := by
  unfold State.voiceFrame
  dsimp only
  have k := Acts.one (.sound s _ (.voiceFrame s.sound v f))
  split
  · exact k.tail (.raise ..)
  · exact k

theorem Acts.bedFrame (s : State) (b : Fin 4) (f : Nat) : Acts s (s.bedFrame b f) := .one (.sound _ _ (.bedFrame ..))

theorem Acts.soundFrame (s : State) (f : Nat) : Acts s (s.soundFrame f) :=
  (Acts.foldl _ (fun t v => Acts.voiceFrame t v f) _ _).trans (Acts.foldl _ (fun t b => Acts.bedFrame t b f) _ _)

theorem Acts.axisInterval (s : State) (a : Fin 8) (home limit : Bool) : Acts s (s.axisInterval a home limit) := by
  unfold State.axisInterval
  dsimp only
  refine (Acts.one (.axis s a _ (.interval _ home limit))).trans ?_
  unfold State.axisNews
  split
  · exact .refl _
  · exact .one (.raise ..)
  · dsimp only
    split
    · split
      · exact (Acts.one (.raise ..)).trans (Acts.stopAndRescan ..)
      · exact .one (.raise ..)
    · exact .one (.raise ..)

end Sys2Proof.Machine
end

