-- ==== Sys2Proof/Laws/Runs.lean ====
section
/-! SUPPORT. Every command is a run of moves: `exec_runs`. An invariant of the part is therefore proved by showing
that each act and each move keeps it. -/

namespace Sys2Proof.Machine

/-! ### What no act touches -/

/-- What the acts of the blocks leave alone: the waiting commands, the hold of a reset, and the link's receiver,
request queue, reply list and transmitter. -/
structure Quiet (s t : State) : Prop where
  pending : t.pending = s.pending
  inReset : t.inReset = s.inReset
  receiver : t.link.receiver = s.link.receiver
  requests : t.link.requests = s.link.requests
  replies : t.link.replies = s.link.replies
  sending : t.link.sending = s.link.sending

theorem Quiet.rfl {s : State} : Quiet s s := ⟨Eq.refl _, Eq.refl _, Eq.refl _, Eq.refl _, Eq.refl _, Eq.refl _⟩

theorem Quiet.trans {s t u : State} (h : Quiet s t) (k : Quiet t u) : Quiet s u :=
  ⟨k.1.trans h.1, k.2.trans h.2, k.3.trans h.3, k.4.trans h.4, k.5.trans h.5, k.6.trans h.6⟩

/-- R186: a report touches nothing of the link but the report queue and the lost mark. -/
theorem Quiet.raise (s : State) (r : Report) : Quiet s (s.raise r) := by
  unfold State.raise Link.raise
  split
  · exact ⟨Eq.refl _, Eq.refl _, Eq.refl _, Eq.refl _, Eq.refl _, Eq.refl _⟩
  · split <;> exact ⟨Eq.refl _, Eq.refl _, Eq.refl _, Eq.refl _, Eq.refl _, Eq.refl _⟩

/-- An update that leaves the link and the two fields of the model alone. -/
theorem Quiet.of {s t : State} (h1 : t.pending = s.pending) (h2 : t.inReset = s.inReset) (h3 : t.link = s.link) :
    Quiet s t := by
  refine ⟨h1, h2, ?_, ?_, ?_, ?_⟩ <;> rw [h3]

/-- An update that leaves the two fields of the model alone and raises one report. -/
theorem Quiet.ofRaise {s t : State} (r : Report) (h1 : t.pending = s.pending) (h2 : t.inReset = s.inReset)
    (h3 : t.link = s.link.raise r) : Quiet s t := by
  have k := Quiet.raise s r
  refine ⟨h1, h2, ?_, ?_, ?_, ?_⟩ <;> rw [h3]
  · exact k.receiver
  · exact k.requests
  · exact k.replies
  · exact k.sending

theorem State.storeRecord?_quiet {s t : State} {table : Fin 14} {i : Nat} {bs : List Byte}
    (h : s.storeRecord? table i bs = some t) : Quiet s t := by
  unfold State.storeRecord? at h
  rw [Option.map_eq_some_iff] at h
  obtain ⟨u, -, rfl⟩ := h
  dsimp only
  split
  · split <;> exact .of rfl rfl rfl
  · split <;> exact .of rfl rfl rfl

theorem State.offer_quiet (s : State) (sc : Fin 64) (src : Source) : Quiet s (s.offer sc src).1 := by
  unfold State.offer
  dsimp only
  split
  · exact .raise ..
  · split
    · exact .of rfl rfl rfl
    · split
      · split
        · exact (Quiet.of (s := s) rfl rfl rfl).trans ((Quiet.raise _ _).trans (.of rfl rfl rfl))
        · exact .raise ..
      · exact .raise ..

theorem State.halt_quiet (s : State) (p : Fin 8) (reason : StopReason) : Quiet s (s.halt p reason) := by
  unfold State.halt
  split
  · exact .rfl
  · exact .ofRaise _ rfl rfl rfl

theorem Act.quiet {s t : State} (h : Act s t) : Quiet s t := by
  cases h with
  | raise r => exact .raise ..
  | cursor c h => exact ⟨rfl, rfl, rfl, rfl, rfl, rfl⟩
  | threshold n h => exact ⟨rfl, rfl, rfl, rfl, rfl, rfl⟩
  | cause => exact ⟨rfl, rfl, rfl, rfl, rfl, rfl⟩
  | halt p reason => exact State.halt_quiet ..
  | startOn sc src voice p h => exact .ofRaise _ rfl rfl rfl
  | offer sc src => exact State.offer_quiet ..
  | stored => exact State.storeRecord?_quiet ‹_›
  | _ => exact .of rfl rfl rfl

theorem Acts.quiet {s t : State} (h : Acts s t) : Quiet s t := by
  induction h with
  | refl => exact .rfl
  | tail _ m ih => exact ih.trans m.quiet

/-! ### Runs of moves -/

theorem PartRun.trans {s t u : State} (h : PartRun s t) (k : PartRun t u) : PartRun s u := by
  induction k with
  | refl => exact h
  | tail _ m ih => exact .tail ih m

theorem PartRun.one {s t : State} (h : PartMove s t) : PartRun s t := .tail (.refl s) h

theorem Acts.run {s t : State} (h : Acts s t) : PartRun s t := by
  induction h with
  | refl => exact .refl _
  | tail _ m ih => exact .tail ih (.act m)

theorem PartRun.finishLink (s : State) : PartRun s s.finishLink := .one (.transmit s)

theorem PartRun.finish (s : State) : PartRun s s.finish :=
  (PartRun.one (.transmit s)).tail (.act (.sound _ _ (.grant s.sound s.store.load.isSome)))

theorem PartRun.live (s : State) (k : State → State) (h : PartRun s (k s)) : PartRun s (s.live k) := by
  unfold State.live
  split
  · exact .refl s
  · exact h

theorem PartRun.frameStep (s : State) (f : Nat) (last : Option Nat) (brink : Bool) (k : State → State)
    (h : ∀ s, PartRun s (k s)) : PartRun s (s.frameStep f last brink k) := by
  refine PartRun.live _ _ ?_
  split
  · exact (PartRun.one (.act (.frame s f))).trans (h _)
  · exact .refl s

theorem Acts.answer (s : State) (inLoading : Bool) (lengthOk : State → List Byte → Bool)
    (body : List Byte → State → State × List Byte) (hbody : ∀ bs s, Acts s (body bs s).1) (payload : List Byte) :
    Acts s (s.answer inLoading lengthOk body payload).1 := by
  unfold State.answer
  split
  · exact .refl s
  · split
    · exact .refl s
    · exact hbody ..

theorem Link.ready?_busy {l m : Link} {r : Request} (h : l.ready? = some (r, m)) :
    m.replies.all (·.busy) = true := by
  unfold Link.ready? at h
  split at h
  · split at h
    · next hb => cases h; exact hb
    · cases h
  · cases h

/-- R184: the execution of a request. -/
theorem PartRun.serve (fin : State → State) (hfin : ∀ s, PartRun s (fin s)) (kind : Byte) (inLoading : Bool)
    (lengthOk : State → List Byte → Bool) (body : List Byte → State → State × List Byte)
    (hbody : ∀ bs s, Acts s (body bs s).1) (s : State) :
    PartRun s (State.serve fin kind inLoading lengthOk body s) := by
  refine PartRun.live _ _ ?_
  dsimp only
  split
  · exact .refl s
  · next r l hr =>
    split
    · have k := Acts.answer { s with link := l } inLoading lengthOk body hbody r.payload
      refine PartRun.trans ?_ (hfin _)
      refine ((PartRun.one (.take s r l hr)).trans k.run).tail (.reply _ _ _ ?_)
      rw [k.quiet.replies]
      exact Link.ready?_busy hr
    · exact .refl s

/-! ### The answers of the requests -/

theorem Acts.answerShowMode (bs : List Byte) (s : State) : Acts s (s.answerShowMode bs).1 := by
  unfold State.answerShowMode
  dsimp only
  split
  · exact .refl s
  · split
    · exact Acts.enterShow ..
    · exact (Acts.one (.mode s .running _ _ (by simp))).trans (Acts.attractFollows ..)
    · exact Acts.showToStandby s
    all_goals exact .refl s

theorem Acts.answerLoadImage (bs : List Byte) (s : State) : Acts s (s.answerLoadImage bs).1 := by
  unfold State.answerLoadImage
  split
  · exact .refl s
  · split
    · exact .refl s
    · exact Acts.beginLoad ..

theorem Acts.answerTableOpen (bs : List Byte) (s : State) : Acts s (s.answerTableOpen bs).1 := by
  unfold State.answerTableOpen
  split
  · exact .refl s
  · next t i auto h =>
    refine .one (.cursor _ _ fun _ => ?_)
    unfold openOperands? at h
    cases ht : index? 14 (byteAt bs 0) with
    | none => rw [ht] at h; cases h
    | some t' =>
      rw [ht] at h
      change (if _ then _ else _) = _ at h
      split at h
      · cases h; exact Nat.le_of_lt ‹_›
      · cases h

theorem Acts.writeRecords (table : Fin 14) (n : Nat) (s : State) (i : Nat) (bs : List Byte) (stored : Nat) :
    Acts s (State.writeRecords table n s i bs stored).1 := by
  induction n generalizing s i bs stored with
  | zero => exact .refl s
  | succ n ih =>
    unfold State.writeRecords
    split
    · exact .refl s
    · split
      · exact .refl s
      · next t h => exact ((Acts.one (.stored s t table i _ h)).trans (Acts.recordWritten ..)).trans (ih ..)

/-- R6: the records are stored one after another within the table. -/
theorem State.writeRecords_count (table : Fin 14) (n : Nat) (s : State) (i : Nat) (bs : List Byte) (stored : Nat)
    (h : i ≤ tableEntries table) :
    i + (State.writeRecords table n s i bs stored).2.1 ≤ tableEntries table + stored := by
  induction n generalizing s i bs stored with
  | zero => simp only [State.writeRecords]; omega
  | succ n ih =>
    unfold State.writeRecords
    split
    · dsimp only; omega
    · split
      · dsimp only; omega
      · next hi _ _ =>
        have := ih (State.recordWritten ‹State› table i) (i + 1) (bs.drop (recordSize table)) (stored + 1) (by omega)
        omega

theorem Acts.advanceCursor (s : State) (n : Nat)
    (h : s.link.cursor.index ≤ tableEntries s.link.cursor.table →
      s.link.cursor.index + n ≤ tableEntries s.link.cursor.table) : Acts s (s.advanceCursor n) := by
  unfold State.advanceCursor
  dsimp only
  split
  · exact .one (.cursor _ _ h)
  · exact .refl s

/-- No act but those of the cursor moves the cursor; the records of a TABLE WRITE do not. -/
theorem State.writeRecords_cursor (table : Fin 14) (n : Nat) (s : State) (i : Nat) (bs : List Byte) (stored : Nat) :
    (State.writeRecords table n s i bs stored).1.link.cursor = s.link.cursor := by
  induction n generalizing s i bs stored with
  | zero => rfl
  | succ n ih =>
    unfold State.writeRecords
    split
    · rfl
    · split
      · rfl
      · next t h =>
        rw [ih]
        have hw : (State.recordWritten t table i).link = t.link := by
          unfold State.recordWritten
          repeat' split
          all_goals rfl
        rw [hw]
        unfold State.storeRecord? at h
        rw [Option.map_eq_some_iff] at h
        obtain ⟨u, -, rfl⟩ := h
        dsimp only
        repeat' split
        all_goals rfl

theorem Acts.answerTableWrite (bs : List Byte) (s : State) : Acts s (s.answerTableWrite bs).1 := by
  unfold State.answerTableWrite
  split
  · exact .refl s
  · dsimp only
    refine (Acts.writeRecords ..).trans (Acts.advanceCursor _ _ fun h => ?_)
    rw [State.writeRecords_cursor] at h ⊢
    exact Nat.le_of_add_le_add_right (b := 0) (State.writeRecords_count _ _ _ _ _ _ h)

theorem Acts.answerTableRead (bs : List Byte) (s : State) : Acts s (s.answerTableRead bs).1 := by
  unfold State.answerTableRead
  split
  · exact .refl s
  · refine Acts.advanceCursor _ _ fun h => ?_
    unfold State.readCount
    dsimp only
    omega

theorem Acts.answerTrigger (bs : List Byte) (s : State) : Acts s (s.answerTrigger bs).1 := by
  unfold State.answerTrigger
  split
  · exact .refl s
  · split
    · exact .refl s
    · exact Acts.trigger ..

theorem Acts.answerCancel (bs : List Byte) (s : State) : Acts s (s.answerCancel bs).1 := by
  unfold State.answerCancel
  split
  · exact .refl s
  · dsimp only
    unfold State.cancel
    split
    · split
      · exact Acts.dropEntry ..
      · exact .refl s
    · split
      · exact Acts.stopAndRescan ..
      · exact .refl s
    all_goals exact .refl s

theorem Acts.stopEverything (s : State) : Acts s s.stopEverything := by
  unfold State.stopEverything
  exact (Acts.foldl (fun (t : State) (e : Entry) => t.dropEntry e .cancelled) (fun t e => Acts.dropEntry t e _) _ s).trans
    (Acts.foldl (fun (t : State) p => t.stopPlayer p .cancelled) (fun t p => Acts.stopPlayer t p _) _ _)

theorem Acts.answerStopAll (bs : List Byte) (s : State) : Acts s (s.answerStopAll bs).1 := by
  unfold State.answerStopAll
  dsimp only
  exact Acts.stopEverything s

theorem Acts.answerHoldGroup (bs : List Byte) (s : State) : Acts s (s.answerHoldGroup bs).1 := by
  unfold State.answerHoldGroup
  split
  · exact .refl s
  · dsimp only
    split
    · exact .one (.owner _ _ _ (by simp))
    · exact .one (.owner _ _ _ (by simp))
    · exact .refl s

theorem Acts.answerFreeGroup (bs : List Byte) (s : State) : Acts s (s.answerFreeGroup bs).1 := by
  unfold State.answerFreeGroup
  split
  · exact .refl s
  · split
    · exact ((Acts.one (.owner _ _ _ (by simp))).trans (Acts.returnGroups ..)).trans (Acts.rescan _)
    · exact .refl s

theorem Acts.answerSetLevel (bs : List Byte) (s : State) : Acts s (s.answerSetLevel bs).1 := by
  unfold State.answerSetLevel
  split
  · exact .refl s
  · split
    · exact .one (.light _ _ (.fade ..))
    · exact .refl s

theorem Acts.answerSetMaster (bs : List Byte) (s : State) : Acts s (s.answerSetMaster bs).1 := by
  unfold State.answerSetMaster
  split
  · exact .refl s
  · split
    · exact .one (.light _ _ (.master ..))
    · exact .refl s

theorem Acts.answerSetBed (bs : List Byte) (s : State) : Acts s (s.answerSetBed bs).1 := by
  unfold State.answerSetBed
  split
  · exact .refl s
  · exact .one (.sound _ _ (.setBed ..))

theorem Acts.answerSetLanguage (bs : List Byte) (s : State) : Acts s (s.answerSetLanguage bs).1 := by
  unfold State.answerSetLanguage
  split
  · exact .refl s
  · split
    · next h => exact .one (.language _ _ _ h)
    · exact .refl s

theorem Acts.answerSetLamp (bs : List Byte) (s : State) : Acts s (s.answerSetLamp bs).1 := by
  unfold State.answerSetLamp
  split
  · exact .refl s
  · exact .one (.lamp ..)

theorem Acts.answerMoveAxis (bs : List Byte) (s : State) : Acts s (s.answerMoveAxis bs).1 := by
  unfold State.answerMoveAxis
  split
  · exact .refl s
  · split
    · exact .refl s
    · unfold State.tookAxis
      split
      · next h => exact .one (.axis _ _ _ (.move _ _ _ h))
      · exact .refl s

theorem Acts.answerHomeAxis (bs : List Byte) (s : State) : Acts s (s.answerHomeAxis bs).1 := by
  unfold State.answerHomeAxis
  split
  · exact .refl s
  · split
    · exact .refl s
    · unfold State.tookAxis
      split
      · next h => exact .one (.axis _ _ _ (.home _ _ h))
      · exact .refl s

theorem Acts.answerQuery (bs : List Byte) (s : State) : Acts s (s.answerQuery bs).1 := by
  unfold State.answerQuery
  split <;> exact .refl s

theorem thresholdOperand?_le {bs : List Byte} {n : Nat} (h : thresholdOperand? bs = some n) : n ≤ 3 := by
  unfold thresholdOperand? inRange? at h
  split at h
  · cases h; omega
  · cases h

theorem Acts.answerReportLevel (bs : List Byte) (s : State) : Acts s (s.answerReportLevel bs).1 := by
  unfold State.answerReportLevel
  split
  · exact .refl s
  · next h => exact .one (.threshold _ _ (thresholdOperand?_le h))

/-! ### Every command -/

theorem PartRun.afterReset (s : State) (cause : StartCause) (m1 m0 fast : Bool) :
    PartRun s (s.afterReset cause m1 m0 fast) := by
  have k := PartRun.one (.restart s false m1 m0 fast cause)
  unfold State.afterReset
  dsimp only
  split
  · exact k
  · exact (k.trans (Acts.beginLoad _ 0 _).run).trans (PartRun.finish _)

/-- Every command answers a next state that a run of moves leads to. -/
theorem exec_runs (c : Instr) (s : State) : ∃ t, exec c s = .next t ∧ PartRun s t := by
  have fl := PartRun.finishLink
  have fi := PartRun.finish
  have request (fin : State → State) (hf : ∀ s, PartRun s (fin s)) (kind : Byte) (il : Bool)
      (len : State → List Byte → Bool) (body : List Byte → State → State × List Byte)
      (h : ∀ bs s, Acts s (body bs s).1) := PartRun.serve fin hf kind il len body h s
  cases c <;> refine ⟨_, rfl, ?_⟩
  case powerOnReset => exact PartRun.afterReset ..
  case resetN => exact PartRun.afterReset ..
  case arrival kind payload =>
    refine PartRun.live _ _ ?_
    dsimp only
    split
    · exact ((PartRun.one (.hunt s)).tail (.arrive _ kind payload)).trans (fl _)
    · exact .refl s
  case gapTimeout =>
    refine PartRun.live _ _ ?_
    dsimp only
    split
    · exact .refl s
    · exact .one (.hunt s)
  case transmitEnd =>
    refine PartRun.live _ _ ?_
    dsimp only
    split
    · exact .refl s
    · exact (PartRun.one (.sent s)).trans (fl _)
  case unknownRequest =>
    refine PartRun.live _ _ ?_
    split
    · exact .refl s
    · next r l h =>
      split
      · exact .refl s
      · exact ((PartRun.one (.take s r l h)).tail (.reply _ r.kind _ (Link.ready?_busy h))).trans (fl _)
  case ident => exact request _ fl _ _ _ _ fun _ s => .refl s
  case status => exact request _ fl _ _ _ _ fun _ s => .refl s
  case query => exact request _ fl _ _ _ _ Acts.answerQuery
  case reportLevel => exact request _ fl _ _ _ _ Acts.answerReportLevel
  case softReset => exact request _ fi _ _ _ _ fun _ s => Acts.softReset s
  case showMode => exact request _ fi _ _ _ _ Acts.answerShowMode
  case loadImage => exact request _ fi _ _ _ _ Acts.answerLoadImage
  case tableOpen => exact request _ fl _ _ _ _ Acts.answerTableOpen
  case tableWrite => exact request _ fl _ _ _ _ Acts.answerTableWrite
  case tableRead => exact request _ fl _ _ _ _ Acts.answerTableRead
  case trigger => exact request _ fl _ _ _ _ Acts.answerTrigger
  case cancel => exact request _ fl _ _ _ _ Acts.answerCancel
  case stopAll => exact request _ fl _ _ _ _ Acts.answerStopAll
  case holdGroup => exact request _ fl _ _ _ _ Acts.answerHoldGroup
  case freeGroup => exact request _ fl _ _ _ _ Acts.answerFreeGroup
  case setLevel => exact request _ fl _ _ _ _ Acts.answerSetLevel
  case setMaster => exact request _ fl _ _ _ _ Acts.answerSetMaster
  case setGrand => exact request _ fl _ _ _ _ fun bs s => .one (.light _ _ (.grand ..))
  case setBed => exact request _ fi _ _ _ _ Acts.answerSetBed
  case setLanguage => exact request _ fl _ _ _ _ Acts.answerSetLanguage
  case setLamp => exact request _ fl _ _ _ _ Acts.answerSetLamp
  case moveAxis => exact request _ fl _ _ _ _ Acts.answerMoveAxis
  case homeAxis => exact request _ fl _ _ _ _ Acts.answerHomeAxis
  case imageReadComplete data =>
    refine PartRun.live _ _ ?_
    dsimp only
    split
    · next h _ =>
      exact ((Acts.one (.sound s _ (.imageRead _ h))).trans (Acts.feedImage ..)).run.trans (fi _)
    · exact .refl s
  case patienceExpiry sc f =>
    refine PartRun.frameStep _ _ _ _ _ fun s => ?_
    split
    · exact (Acts.dropEntry ..).run.trans (fl _)
    · exact .refl s
  case cooldownEnd => exact PartRun.frameStep _ _ _ _ _ fun s => (Acts.sceneTo ..).run
  case playerFrameEvent => exact PartRun.frameStep _ _ _ _ _ fun s => (Acts.playerFrame ..).run.trans (fi _)
  case cueDelayExpiry => exact PartRun.frameStep _ _ _ _ _ fun s => (Acts.playerFrame ..).run.trans (fi _)
  case awaitTimeout => exact PartRun.frameStep _ _ _ _ _ fun s => (Acts.playerFrame ..).run.trans (fi _)
  case lightingFrameEvent => exact PartRun.frameStep _ _ _ _ _ fun s => (Acts.light (LightRun.frameEvent ..)).run
  case attractHoldExpiry => exact PartRun.frameStep _ _ _ _ _ fun s => (Acts.light (LightRun.frameEvent ..)).run
  case pwmPeriodStart => exact PartRun.live _ _ (.one (.act (.light _ _ (.period ..))))
  case houseEvent => exact PartRun.frameStep _ _ _ _ _ fun s => (Acts.houseFrame ..).run.trans (fl _)
  case estopEvent => exact PartRun.frameStep _ _ _ _ _ fun s => (Acts.estopFrame ..).run.trans (fl _)
  case burstComplete data =>
    refine PartRun.live _ _ ?_
    split
    · exact (PartRun.one (.act (.sound s _ (.complete ..)))).trans (fi _)
    all_goals exact .refl s
  case sampleEvent => exact PartRun.live _ _ ((PartRun.one (.act (.sound s _ (.sample _)))).trans (fi _))
  case soundFrameEvent => exact PartRun.frameStep _ _ _ _ _ fun s => (Acts.soundFrame ..).run.trans (fl _)
  case fadeOutEnd => exact PartRun.frameStep _ _ _ _ _ fun s => (Acts.voiceFrame ..).run
  case stallTimeout => exact PartRun.frameStep _ _ _ _ _ fun s => (Acts.voiceFrame ..).run.trans (fl _)
  case duckStep => exact PartRun.frameStep _ _ _ _ _ fun s => (Acts.bedFrame ..).run
  case profileIntervalEvent => exact PartRun.live _ _ ((Acts.axisInterval ..).run.trans (fl _))
  case motionFrameEvent => exact PartRun.frameStep _ _ _ _ _ fun s => .one (.act (.axesFrame ..))
  case resumeWaitExpiry => exact PartRun.frameStep _ _ _ _ _ fun s => .one (.act (.axis _ _ _ (.frame ..)))
  case inputSample => exact PartRun.frameStep _ _ _ _ _ fun s => (Acts.takeSample ..).run.trans (fl _)
  case zoneBecomesOccupied => exact PartRun.frameStep _ _ _ _ _ fun s => (Acts.zoneFrame ..).run.trans (fl _)
  case zoneBecomesClear => exact PartRun.frameStep _ _ _ _ _ fun s => (Acts.zoneFrame ..).run.trans (fl _)
  case press => exact PartRun.frameStep _ _ _ _ _ fun s => (Acts.buttonFrame ..).run.trans (fl _)
  case buttonRelease => exact PartRun.frameStep _ _ _ _ _ fun s => (Acts.buttonFrame ..).run
  case flashEnd => exact PartRun.frameStep _ _ _ _ _ fun s => (Acts.lampFrame ..).run
  case byteReceived b stopOk =>
    refine PartRun.live _ _ ?_
    dsimp only
    have k := PartRun.one (.received s b stopOk)
    split
    · exact k
    · exact (k.tail (.arrive ..)).trans (fl _)
  case resetBegins => exact .one (.restart s true _ _ _ _)
  case patienceAndCooldownCount => exact PartRun.frameStep _ _ _ _ _ fun s => (Acts.countScenes ..).run.trans (fl _)

/-! ### Invariants -/

/-- What every move keeps, a run of moves keeps. -/
theorem PartRun.keeps {P : State → Prop} (move : ∀ s t, PartMove s t → P s → P t) {s t : State} (h : PartRun s t)
    (hs : P s) : P t := by
  induction h with
  | refl => exact hs
  | tail _ m ih => exact move _ _ m ih

/-- What every move keeps, and what does not depend on the waiting commands, every step keeps. -/
theorem step_keeps {P : State → Prop} (queue : ∀ s q, P s → P { s with pending := q })
    (move : ∀ s t, PartMove s t → P s → P t) {s t : State} (h : step s = .next t) (hs : P s) : P t := by
  unfold step at h
  split at h
  · cases h; exact hs
  · next c rest _ =>
    obtain ⟨u, hu, run⟩ := exec_runs c { s with pending := rest }
    rw [hu] at h
    cases h
    exact run.keeps move (queue s rest hs)

end Sys2Proof.Machine
end

