-- ==== Sys2Proof/Laws/AxisKept.lean ====
section
/-! SUPPORT. What the operations on one axis keep: its place within the soft limits (R154, R156), its rest while its hold
condition is present (R159), and its agreement with ESTOP (R161). -/

namespace Sys2Proof.Machine

/-- R156: a homed axis lies within the soft limits of its record. -/
def HomedWithin (r : AxisRec) (a : Axis) : Prop := a.homed = true → r.minPos ≤ a.position ∧ a.position ≤ r.maxPos
/-- R4: the soft limits enclose 0. -/
def LimitsEnclose0 (r : AxisRec) : Prop := r.minPos ≤ 0 ∧ 0 ≤ r.maxPos

/-- What an activity may do to an axis's place: it stays where it is, or the axis is not homed, and only an axis that is
not homed comes to be HOMING. -/
structure KeepsPlace (a b : Axis) : Prop where
  h : b.homed = true → a.homed = true ∧ b.position = a.position
  k : b.state = .homing → b.homed = false ∨ a.state = .homing
/-- R154, R156: the axis lies within its soft limits if it is homed, and an axis in HOMING is not homed. -/
structure WithinLimits (r : AxisRec) (a : Axis) : Prop where
  h : HomedWithin r a
  k : a.state = .homing → a.homed = false
theorem KeepsPlace.withinLimits {r : AxisRec} {a b : Axis} (h : KeepsPlace a b) (p : WithinLimits r a) :
    WithinLimits r b := by
  refine ⟨?_, ?_⟩
  · intro hb; have := h.h hb; have k := p.h this.1; rw [this.2]; exact k
  · intro hb; rcases h.k hb with e | e
    · exact e
    · cases hh : b.homed with
      | false => rfl
      | true => have := (h.h hh).1; rw [p.k e] at this; cases this
theorem KeepsPlace.trans {a b c : Axis} (h : KeepsPlace a b) (k : KeepsPlace b c) : KeepsPlace a c := by
  refine ⟨?_, ?_⟩
  · intro hc; have e := k.h hc; have f := h.h e.1; exact ⟨f.1, by rw [e.2, f.2]⟩
  · intro hc; rcases k.k hc with e | e
    · exact .inl e
    · rcases h.k e with f | f
      · cases hh : c.homed with
        | false => exact .inl rfl
        | true => have := (k.h hh).1; rw [f] at this; cases this
      · exact .inr f
theorem KeepsPlace.refl (a : Axis) : KeepsPlace a a := ⟨fun h => ⟨h, rfl⟩, .inr⟩
theorem KeepsPlace.of_same {a b : Axis} (h : b.homed = a.homed) (k : b.position = a.position) (st : b.state = a.state) :
    KeepsPlace a b :=
  ⟨fun e => ⟨by rw [← h]; exact e, k⟩, fun e => .inr (by rw [← st]; exact e)⟩
theorem KeepsPlace.of_not_homing {a b : Axis} (h : b.homed = a.homed) (k : b.position = a.position)
    (st : b.state ≠ .homing) :
    KeepsPlace a b :=
  ⟨fun e => ⟨by rw [← h]; exact e, k⟩, fun e => absurd e st⟩
theorem KeepsPlace.of_unhomed {a b : Axis} (h : b.homed = false) : KeepsPlace a b :=
  ⟨fun e => (by rw [h] at e; cases e), fun _ => .inl h⟩

theorem keepsPlace_beginMove (a : Axis) (t p) : KeepsPlace a (a.beginMove t p) := by
  unfold Axis.beginMove; exact .of_not_homing rfl rfl nofun
theorem keepsPlace_setOff (a : Axis) (r m) : KeepsPlace a (a.setOff r m) := by
  unfold Axis.setOff; split <;> exact .of_not_homing rfl rfl nofun
theorem keepsPlace_undertake (a : Axis) (r rate act) : KeepsPlace a (a.undertake r rate act) := by
  unfold Axis.undertake; split
  · split
    · exact keepsPlace_setOff ..
    · exact .of_unhomed rfl
  · exact .of_unhomed rfl
theorem keepsPlace_resume (a : Axis) (r) : KeepsPlace a (a.resume r) := by
  unfold Axis.resume; split
  · exact keepsPlace_undertake ..
  · exact .of_not_homing rfl rfl nofun
theorem keepsPlace_startWait (a : Axis) (r) : KeepsPlace a (a.startWait r) := by
  unfold Axis.startWait; split
  · exact keepsPlace_resume ..
  · exact .of_same rfl rfl rfl
theorem keepsPlace_hold (a : Axis) (r h act) : KeepsPlace a (a.hold r h act) := by
  unfold Axis.hold; dsimp only; split
  · exact .of_not_homing rfl rfl nofun
  · exact .trans (b := { a.atRest with state := .held, ending := none, follow := some act, wait := none, cause := none })
      (.of_not_homing rfl rfl nofun) (keepsPlace_startWait _ _)
theorem keepsPlace_rest (a : Axis) (r h) : KeepsPlace a (a.comeToRest r h) := by
  unfold Axis.comeToRest; split
  · exact keepsPlace_hold ..
  · split
    · exact keepsPlace_hold ..
    · exact KeepsPlace.trans (b := a.atRest) (by exact .of_same rfl rfl rfl) (keepsPlace_undertake _ _ _ _)
  · exact .of_not_homing rfl rfl nofun
theorem keepsPlace_homeAtRest (a : Axis) (r h) : KeepsPlace a (a.homeAtRest r h) := by
  unfold Axis.homeAtRest; split
  · exact keepsPlace_hold ..
  · exact .of_unhomed rfl
theorem keepsPlace_takeMove {a b : Axis} {t r h m} (e : a.takeMove? t r h m = some b) : KeepsPlace a b := by
  unfold Axis.takeMove? at e
  dsimp only at e
  split at e
  · split at e
    · cases e; split
      · exact keepsPlace_hold ..
      · exact keepsPlace_setOff ..
    · cases e; exact .trans (b := { a with pendingMove := some _ })
        (.of_same rfl rfl rfl) (keepsPlace_homeAtRest _ _ _)
  · cases e; exact .trans (b := { a with pendingMove := some _ })
      (.of_same rfl rfl rfl) (keepsPlace_homeAtRest _ _ _)
  · cases e; unfold Axis.retarget; dsimp only; split
    · exact .of_same rfl rfl rfl
    · split <;> (split <;> first | exact .of_same rfl rfl rfl | exact .of_unhomed rfl | exact .of_not_homing rfl rfl nofun)
  · cases e; exact .of_same rfl rfl rfl
  · split at e
    · split at e <;> cases e <;> exact .of_same rfl rfl rfl
    · cases e; exact .of_same rfl rfl rfl
  · split at e <;> cases e <;> exact .of_same rfl rfl rfl
  · cases e
theorem keepsPlace_takeHome {a b : Axis} {r h} (e : a.takeHome? r h = some b) : KeepsPlace a b := by
  unfold Axis.takeHome? at e
  split at e
  · cases e; exact .trans (b := { a with pendingMove := none })
      (.of_same rfl rfl rfl) (keepsPlace_homeAtRest _ _ _)
  · cases e; exact .trans (b := { a with pendingMove := none })
      (.of_same rfl rfl rfl) (keepsPlace_homeAtRest _ _ _)
  · split at e
    · cases e
    · cases e; exact .trans (b := { a with cause := none, pendingMove := none })
        (.of_same rfl rfl rfl) (keepsPlace_homeAtRest _ _ _)
  · cases e; split
    · exact .of_not_homing rfl rfl nofun
    · exact .of_same rfl rfl rfl
  · cases e; exact .of_not_homing rfl rfl nofun
  · split at e <;> cases e
    · exact .of_same rfl rfl rfl
    · exact .of_not_homing rfl rfl nofun
  · cases e; exact .of_same rfl rfl rfl
theorem keepsPlace_stop (a : Axis) : KeepsPlace a a.stopRequest := by
  unfold Axis.stopRequest; split <;> first | exact .of_same rfl rfl rfl | exact .of_unhomed rfl | exact .of_not_homing rfl rfl nofun
theorem keepsPlace_frame (a : Axis) (r f) : KeepsPlace a (a.frameEvent r f) := by
  unfold Axis.frameEvent; split
  · exact .of_same rfl rfl rfl
  · refine KeepsPlace.trans (b := { a with frame := some f }) (by exact .of_same rfl rfl rfl) ?_
    unfold Axis.countWait
    split
    · split
      · exact keepsPlace_resume ..
      · exact .of_same rfl rfl rfl
    · exact .of_same rfl rfl rfl
theorem keepsPlace_holdChange (a : Axis) (r x y) : KeepsPlace a (a.holdChange r x y) := by
  unfold Axis.holdChange
  split
  · exact .of_same rfl rfl rfl
  · split
    · unfold Axis.holdBegins; split
      · exact .of_not_homing rfl rfl nofun
      · exact .of_not_homing rfl rfl nofun
      · split <;> exact .of_same rfl rfl rfl
      all_goals exact .of_same rfl rfl rfl
    · unfold Axis.holdEnds; split
      · exact keepsPlace_startWait ..
      · exact .of_same rfl rfl rfl
theorem keepsPlace_estop (a : Axis) : KeepsPlace a a.estopAsserted := by
  unfold Axis.estopAsserted Axis.faulted; exact .of_unhomed rfl
theorem keepsPlace_release (a : Axis) : KeepsPlace a a.estopReleased := by
  unfold Axis.estopReleased; split <;> first | exact .of_same rfl rfl rfl | exact .of_unhomed rfl | exact .of_not_homing rfl rfl nofun
theorem keepsPlace_soft (a : Axis) (e) : KeepsPlace a (a.softReset e) := by
  unfold Axis.softReset; split <;> exact .of_unhomed rfl

theorem withinLimits_limitsRewritten (a : Axis) (r : AxisRec) (h : a.state = .homing → a.homed = false) :
    WithinLimits r (a.limitsRewritten r) := by
  unfold Axis.limitsRewritten
  split
  · exact ⟨nofun, nofun⟩
  · next hn => exact ⟨fun h => by simp [h] at hn; omega, h⟩

theorem move_within_room (r : AxisRec) (d : Direction) (p : Int) (k : Nat) (h : r.minPos ≤ p ∧ p ≤ r.maxPos) (hk : k ≤ r.room d p) :
  r.minPos ≤ d.move p k ∧ d.move p k ≤ r.maxPos := by
  unfold AxisRec.room at hk; unfold Direction.move
  cases d <;> dsimp only at hk ⊢ <;> omega

theorem withinLimits_homingSteps (a : Axis) (r : AxisRec) (rate : Nat) (h : a.homed = false) :
    WithinLimits r (a.homingSteps r rate).1 := by
  unfold Axis.homingSteps; dsimp only; split
  · exact ⟨nofun, nofun⟩
  · refine ⟨fun e => ?_, fun _ => h⟩
    change a.homed = true at e; rw [h] at e; cases e

theorem withinLimits_moveInterval (a : Axis) (r : AxisRec) (p : ProfileRec) (t : Int) (h : WithinLimits r a)
    (hs : a.state = .moving) :
    WithinLimits r (a.moveInterval r p t) := by
  unfold Axis.moveInterval
  dsimp only
  generalize hst : min ((a.acc + p.nextRate a.rate (t - a.position).natAbs) / 1000) (t - a.position).natAbs = steps
  generalize a.dir.toward a.position t = dir
  split
  · refine ⟨?_, nofun⟩
    intro e
    exact move_within_room r dir a.position _ (h.h e) (Nat.le_refl _)
  · next hr =>
    split
    · refine ⟨?_, nofun⟩
      intro e
      exact move_within_room r dir a.position _ (h.h e) (by omega)
    · refine ⟨?_, ?_⟩
      · intro e
        exact move_within_room r dir a.position _ (h.h e) (by omega)
      · intro e; change a.state = .homing at e; rw [hs] at e; cases e

theorem withinLimits_stopInterval (a : Axis) (r : AxisRec) (p : ProfileRec) (t : Int) (hold) (h : WithinLimits r a)
    (hs : a.state = .stopping) :
    WithinLimits r (a.stopInterval r p t hold) := by
  unfold Axis.stopInterval
  split
  · exact (keepsPlace_rest a r hold).withinLimits h
  · dsimp only
    generalize hst : min ((a.acc + (a.rate - p.accel)) / 1000) (t - a.position).natAbs = steps
    have key : ∀ k, k ≤ r.room a.dir a.position → WithinLimits r (a.advance a.dir k) := by
      intro k hk
      refine ⟨fun e => move_within_room r a.dir a.position _ (h.h e) hk, ?_⟩
      intro e; change a.state = .homing at e; rw [hs] at e; cases e
    split
    · exact (keepsPlace_rest _ r hold).withinLimits (key _ (Nat.le_refl _))
    · next hr =>
      split
      · exact (keepsPlace_rest _ r hold).withinLimits (key _ (by omega))
      · have := key steps (by omega)
        exact ⟨this.h, this.k⟩

theorem withinLimits_interval (a : Axis) (t : Tables) (r : AxisRec) (hold : Bool) (hr : LimitsEnclose0 r) (h : WithinLimits r a) :
    WithinLimits r (a.interval t r hold).1 := by
  unfold Axis.interval
  dsimp only
  have h0 : WithinLimits r { a with pulses := 0 } := ⟨h.h, h.k⟩
  split
  · next hs =>
    split
    · unfold Axis.homeFound
      dsimp only
      split
      · exact ⟨fun _ => hr, fun e => by (unfold Axis.beginMove at e; cases e)⟩
      · exact ⟨fun _ => hr, nofun⟩
    · exact withinLimits_homingSteps _ _ _ (h.k hs)
  · next hs =>
    split
    · exact ⟨nofun, nofun⟩
    · exact withinLimits_moveInterval _ _ _ _ h0 hs
  · next hs =>
    split
    · split
      · exact ⟨nofun, nofun⟩
      · exact withinLimits_stopInterval _ _ _ _ _ h0 hs
    · next hh =>
      have hh : a.homed = false := by cases e : a.homed <;> simp_all
      split
      · unfold Axis.homeFoundStopping
        dsimp only
        have f : WithinLimits r { Axis.atRest { a with pulses := 0 } with homed := true, position := 0 } :=
          ⟨fun _ => hr, fun e => by (change a.state = .homing at e; rw [hs] at e; cases e)⟩
        split
        · split
          · exact (keepsPlace_hold _ _ _ _).withinLimits ((KeepsPlace.of_same
              (a := { Axis.atRest { a with pulses := 0 } with homed := true, position := 0 })
              (b := { Axis.atRest { a with pulses := 0 } with homed := true, position := 0, pendingMove := none })
              rfl rfl rfl).withinLimits f)
          · exact ⟨f.h, nofun⟩
        all_goals exact (keepsPlace_rest _ _ _).withinLimits f
      · split
        · exact (keepsPlace_rest _ _ _).withinLimits h0
        · exact withinLimits_homingSteps _ _ _ hh
  all_goals exact h0

theorem withinLimits_axisMove {t : Tables} {r : AxisRec} {hold : Bool} {a b : Axis} (m : AxisMove t r hold a b)
    (hr : LimitsEnclose0 r) (h : WithinLimits r a) :
    WithinLimits r b := by
  cases m with
  | move _ m e => exact (keepsPlace_takeMove e).withinLimits h
  | home _ e => exact (keepsPlace_takeHome e).withinLimits h
  | interval home limit => exact withinLimits_interval _ _ _ _ hr ⟨h.h, h.k⟩
  | frame f => exact (keepsPlace_frame a r f).withinLimits h


/-- R159: what holds of an axis whose hold condition is present. -/
structure StillUnderHold (a : Axis) : Prop where
  m : a.state ≠ .moving
  h : a.state ≠ .homing
  w : a.state = .held → a.wait = none

theorem StillUnderHold.of {a : Axis} (h : a.state = .stopping ∨ a.state = .idle ∨ a.state = .unhomed ∨ a.state = .fault) :
    StillUnderHold a := by
  rcases h with h | h | h | h <;> exact ⟨by rw [h]; exact nofun, by rw [h]; exact nofun, by rw [h]; exact nofun⟩
theorem StillUnderHold.same {a b : Axis} (h : StillUnderHold a) (e : b.state = a.state) (w : b.wait = a.wait) : StillUnderHold b :=
  ⟨by rw [e]; exact h.m, by rw [e]; exact h.h, fun k => by rw [w]; exact h.w (by rw [← e]; exact k)⟩
theorem stillUnderHold_hold (a : Axis) (r act) : StillUnderHold (a.hold r true act) := by
  unfold Axis.hold; dsimp only; exact ⟨nofun, nofun, fun _ => rfl⟩
theorem stillUnderHold_rest (a : Axis) (r) : StillUnderHold (a.comeToRest r true) := by
  unfold Axis.comeToRest; split
  · exact stillUnderHold_hold _ r _
  · exact stillUnderHold_hold _ r _
  · exact .of (.inr (.inl rfl))
theorem stillUnderHold_home (a : Axis) (r) : StillUnderHold (a.homeAtRest r true) := by
  unfold Axis.homeAtRest; rw [if_pos rfl]; exact stillUnderHold_hold _ r _
theorem stillUnderHold_takeMove {a b : Axis} {t r m} (h : StillUnderHold a) (e : a.takeMove? t r true m = some b) :
    StillUnderHold b := by
  unfold Axis.takeMove? at e
  dsimp only at e
  split at e
  · split at e
    · cases e; exact stillUnderHold_hold _ r _
    · cases e; exact stillUnderHold_home ..
  · cases e; exact stillUnderHold_home ..
  · next hs => exact absurd hs h.m
  · next hs => exact absurd hs h.h
  · next hs => split at e
               · split at e <;> cases e <;> exact .of (.inl hs)
               · cases e; exact .of (.inl hs)
  · next hs => split at e <;> cases e <;> exact h.same rfl rfl
  · cases e
theorem stillUnderHold_takeHome {a b : Axis} {r} (h : StillUnderHold a) (e : a.takeHome? r true = some b) :
    StillUnderHold b := by
  unfold Axis.takeHome? at e
  split at e
  · cases e; exact stillUnderHold_home ..
  · cases e; exact stillUnderHold_home ..
  · split at e
    · cases e
    · cases e; exact stillUnderHold_home ..
  · next hs => exact absurd hs h.h
  · next hs => exact absurd hs h.m
  · next hs => split at e <;> cases e
               · exact .of (.inl hs)
               · exact .of (.inl rfl)
  · cases e; exact h.same rfl rfl
theorem stillUnderHold_stop (a : Axis) (h : StillUnderHold a) : StillUnderHold a.stopRequest := by
  unfold Axis.stopRequest; split
  · exact .of (.inl rfl)
  · exact .of (.inl rfl)
  · next hs => exact .of (.inl hs)
  · exact .of (.inr (.inl rfl))
  all_goals exact h
theorem stillUnderHold_steps (a : Axis) (r : AxisRec) (rate) (h : a.state = .stopping) :
    StillUnderHold (a.homingSteps r rate).1 := by
  unfold Axis.homingSteps; dsimp only; split
  · exact .of (.inr (.inr (.inr rfl)))
  · exact .of (.inl h)
theorem stillUnderHold_interval (a : Axis) (t r) (h : StillUnderHold a) :
    StillUnderHold (a.interval t r true).1 := by
  unfold Axis.interval
  dsimp only
  split
  · next hs => exact absurd hs h.h
  · next hs => exact absurd hs h.m
  · next hs =>
    split
    · split
      · exact .of (.inr (.inr (.inr rfl)))
      · unfold Axis.stopInterval; split
        · exact stillUnderHold_rest ..
        · dsimp only
          split
          · exact stillUnderHold_rest ..
          · split
            · exact stillUnderHold_rest ..
            · exact .of (.inl hs)
    · split
      · unfold Axis.homeFoundStopping; dsimp only; split
        · split
          · exact stillUnderHold_hold _ r _
          · exact .of (.inr (.inl rfl))
        all_goals exact stillUnderHold_rest ..
      · split
        · exact stillUnderHold_rest ..
        · exact stillUnderHold_steps _ _ _ hs
  all_goals exact h.same rfl rfl
theorem stillUnderHold_frame (a : Axis) (r f) (h : StillUnderHold a) : StillUnderHold (a.frameEvent r f) := by
  unfold Axis.frameEvent; split
  · exact h
  · unfold Axis.countWait
    split
    · next hs hw => have := h.w hs; rw [show a.wait = _ from hw] at this; cases this
    · exact h.same rfl rfl
theorem stillUnderHold_begins (a : Axis) : StillUnderHold a.holdBegins := by
  unfold Axis.holdBegins; split
  · exact .of (.inl rfl)
  · exact .of (.inl rfl)
  · next hs => split <;> exact .of (.inl hs)
  · next hs =>
      have same : ({ a with wait := none } : Axis).state = .held := hs
      exact ⟨by rw [same]; exact nofun, by rw [same]; exact nofun, fun _ => rfl⟩
  · next hs => exact .of (.inr (.inl hs))
  · next hs => exact .of (.inr (.inr (.inl hs)))
  · next hs => exact .of (.inr (.inr (.inr hs)))
theorem stillUnderHold_change (a : Axis) (r b) (h : b = true → StillUnderHold a) :
    StillUnderHold (a.holdChange r b true) := by
  unfold Axis.holdChange; split
  · next e => exact h e
  · exact stillUnderHold_begins _
theorem stillUnderHold_limits (a : Axis) (r) (h : StillUnderHold a) : StillUnderHold (a.limitsRewritten r) := by
  unfold Axis.limitsRewritten; split
  · exact .of (.inr (.inr (.inl rfl)))
  · exact h

/-- R161: an axis is in FAULT with cause ESTOP exactly while ESTOP is asserted, and an axis in FAULT is at rest and not
homed. -/
structure EstopAgrees (e : Bool) (a : Axis) : Prop where
  i : (a.state = .fault ∧ a.cause = some .estop) ↔ e = true
  f : a.state = .fault → a.homed = false ∧ a.rate = 0

theorem EstopAgrees.nf {e : Bool} {a b : Axis} (h : EstopAgrees e a) (ha : a.state ≠ .fault) (hb : b.state ≠ .fault) :
    EstopAgrees e b := by
  refine ⟨⟨fun k => absurd k.1 hb, fun k => absurd (h.i.2 k).1 ha⟩, fun k => absurd k hb⟩
theorem EstopAgrees.same {e : Bool} {a b : Axis} (h : EstopAgrees e a) (h1 : b.state = a.state) (h2 : b.cause = a.cause)
    (h3 : b.homed = a.homed) (h4 : b.rate = a.rate) : EstopAgrees e b :=
  ⟨by rw [h1, h2]; exact h.i, by rw [h1, h3, h4]; exact h.f⟩
theorem EstopAgrees.faulted (a : Axis) : EstopAgrees true (a.faulted .estop) :=
  ⟨⟨fun _ => rfl, fun _ => ⟨rfl, rfl⟩⟩, fun _ => ⟨rfl, rfl⟩⟩
theorem EstopAgrees.lim {e : Bool} {a : Axis} {c : AxisCause} (h : EstopAgrees e a) (ha : a.state ≠ .fault) (hc : c ≠ .estop) (x : Axis) :
    EstopAgrees e (x.faulted c) := by
  refine ⟨⟨fun k => ?_, fun k => absurd (h.i.2 k).1 ha⟩, fun k => ⟨rfl, rfl⟩⟩
  have := k.2; simp [Axis.faulted] at this; exact absurd this hc

theorem notFault_setOff (a : Axis) (r m) : (a.setOff r m).state ≠ .fault := by
  unfold Axis.setOff; split <;> exact nofun
theorem notFault_undertake (a : Axis) (r rate act) : (a.undertake r rate act).state ≠ .fault := by
  unfold Axis.undertake; split
  · split
    · exact notFault_setOff _ _ _
    · exact nofun
  · exact nofun
theorem notFault_resume (a : Axis) (r) : (a.resume r).state ≠ .fault := by
  unfold Axis.resume; split
  · exact notFault_undertake _ _ _ _
  · exact nofun
theorem notFault_startWait (a : Axis) (r) (h : a.state = .held) : (a.startWait r).state ≠ .fault := by
  unfold Axis.startWait; split
  · exact notFault_resume _ _
  · change a.state ≠ .fault; rw [h]; exact nofun
theorem notFault_hold (a : Axis) (r h act) : (a.hold r h act).state ≠ .fault := by
  unfold Axis.hold; dsimp only; split
  · exact nofun
  · exact notFault_startWait _ _ rfl
theorem notFault_rest (a : Axis) (r h) : (a.comeToRest r h).state ≠ .fault := by
  unfold Axis.comeToRest; split
  · exact notFault_hold _ _ _ _
  · split
    · exact notFault_hold _ _ _ _
    · exact notFault_undertake _ _ _ _
  · exact nofun
theorem notFault_homeAtRest (a : Axis) (r h) : (a.homeAtRest r h).state ≠ .fault := by
  unfold Axis.homeAtRest; split
  · exact notFault_hold _ _ _ _
  · exact nofun

theorem notFault_of {a : Axis} {x : AxisState} (h : a.state = x) (hx : x ≠ .fault) : a.state ≠ .fault := by
  rw [h]; exact hx

theorem estopAgrees_move {e : Bool} {a b : Axis} {t : Tables} {r : AxisRec} {hold : Bool} (m : AxisMove t r hold a b)
    (h : EstopAgrees e a) :
    EstopAgrees e b := by
  cases m with
  | move _ m k =>
    unfold Axis.takeMove? at k
    dsimp only at k
    split at k
    · next hs =>
      refine h.nf (notFault_of hs nofun) ?_
      split at k
      · cases k; split
        · exact notFault_hold _ _ _ _
        · exact notFault_setOff _ _ _
      · cases k; exact notFault_homeAtRest _ _ _
    · next hs => cases k; exact h.nf (notFault_of hs nofun) (notFault_homeAtRest _ _ _)
    · next hs =>
      cases k; refine h.nf (notFault_of hs nofun) ?_
      unfold Axis.retarget; dsimp only; split
      · exact notFault_of hs nofun
      · split <;> (split <;> first | exact notFault_of hs nofun | exact nofun)
    · next hs => cases k; exact h.same rfl rfl rfl rfl
    · next hs => split at k
                 · split at k <;> cases k <;> exact h.same rfl rfl rfl rfl
                 · cases k; exact h.same rfl rfl rfl rfl
    · next hs => split at k <;> cases k <;> exact h.same rfl rfl rfl rfl
    · cases k
  | home _ k =>
    unfold Axis.takeHome? at k
    split at k
    · next hs => cases k; exact h.nf (notFault_of hs nofun) (notFault_homeAtRest _ _ _)
    · next hs => cases k; exact h.nf (notFault_of hs nofun) (notFault_homeAtRest _ _ _)
    · next hs =>
      split at k
      · cases k
      · next hc =>
        cases k
        refine ⟨⟨fun k => absurd k.1 (notFault_homeAtRest _ _ _), fun k => absurd (h.i.2 k).2 hc⟩,
          fun k => absurd k (notFault_homeAtRest _ _ _)⟩
    · next hs =>
      cases k; split
      · exact h.nf (notFault_of hs nofun) nofun
      · exact h.same rfl rfl rfl rfl
    · next hs => cases k; exact h.nf (notFault_of hs nofun) nofun
    · next hs =>
      split at k <;> cases k
      · exact h.same rfl rfl rfl rfl
      · exact h.nf (notFault_of hs nofun) nofun
    · next hs => cases k; exact h.same rfl rfl rfl rfl
  | interval home limit =>
    have h : EstopAgrees e (a.sampled home limit) := h.same rfl rfl rfl rfl
    generalize a.sampled home limit = a at h
    have steps : ∀ rate, (a.state ≠ .fault) → EstopAgrees e (Axis.homingSteps { a with pulses := 0 } r rate).1 := by
      intro rate hs
      unfold Axis.homingSteps; dsimp only; split
      · exact h.lim hs (by decide) _
      · exact h.nf hs hs
    unfold Axis.interval
    dsimp only
    split
    · next hs =>
      split
      · unfold Axis.homeFound; dsimp only; split
        · exact h.nf (notFault_of hs nofun) nofun
        · exact h.nf (notFault_of hs nofun) nofun
      · exact steps _ (notFault_of hs nofun)
    · next hs =>
      split
      · exact h.lim (notFault_of hs nofun) (by decide) _
      · refine h.nf (notFault_of hs nofun) ?_
        unfold Axis.moveInterval; dsimp only
        split
        · exact nofun
        · split
          · exact nofun
          · exact notFault_of hs nofun
    · next hs =>
      have hs' : a.state ≠ .fault := notFault_of hs nofun
      split
      · split
        · exact h.lim hs' (by decide) _
        · refine h.nf hs' ?_
          unfold Axis.stopInterval; split
          · exact notFault_rest _ _ _
          · dsimp only
            split
            · exact notFault_rest _ _ _
            · split
              · exact notFault_rest _ _ _
              · exact hs'
      · split
        · refine h.nf hs' ?_
          unfold Axis.homeFoundStopping; dsimp only; split
          · split
            · exact notFault_hold _ _ _ _
            · exact nofun
          all_goals exact notFault_rest _ _ _
        · split
          · exact h.nf hs' (notFault_rest _ _ _)
          · exact steps _ hs'
    all_goals exact h.same rfl rfl rfl rfl
  | frame f =>
    unfold Axis.frameEvent; split
    · exact h
    · unfold Axis.countWait
      split
      · next hs _ =>
        have hs : a.state = .held := hs
        split
        · exact h.nf (notFault_of hs nofun) (notFault_resume _ _)
        · exact h.same rfl rfl rfl rfl
      · exact h.same rfl rfl rfl rfl

theorem estopAgrees_frame {e : Bool} {a : Axis} (r : AxisRec) (f) (h : EstopAgrees e a) :
    EstopAgrees e (a.frameEvent r f) :=
  estopAgrees_move (t := Tables.empty) (hold := false) (.frame a f) h
theorem estopAgrees_stop {e : Bool} {a : Axis} (h : EstopAgrees e a) : EstopAgrees e a.stopRequest := by
  unfold Axis.stopRequest; split
  · next hs => exact h.nf (notFault_of hs nofun) nofun
  · next hs => exact h.nf (notFault_of hs nofun) nofun
  · next hs => exact h.same rfl rfl rfl rfl
  · next hs => exact h.nf (notFault_of hs nofun) nofun
  all_goals exact h
theorem estopAgrees_change {e : Bool} {a : Axis} (r x y) (h : EstopAgrees e a) :
    EstopAgrees e (a.holdChange r x y) := by
  unfold Axis.holdChange; split
  · exact h
  · split
    · unfold Axis.holdBegins; split
      · next hs => exact h.nf (notFault_of hs nofun) nofun
      · next hs => exact h.nf (notFault_of hs nofun) nofun
      · next hs => split
                   · exact h.same rfl rfl rfl rfl
                   · exact h
      · exact h.same rfl rfl rfl rfl
      all_goals exact h
    · unfold Axis.holdEnds; split
      · next hs => exact h.nf (notFault_of hs nofun) (notFault_startWait _ _ hs)
      · exact h
theorem estopAgrees_limits {e : Bool} {a : Axis} (r) (h : EstopAgrees e a) :
    EstopAgrees e (a.limitsRewritten r) := by
  unfold Axis.limitsRewritten; split
  · next hh =>
    refine h.nf ?_ nofun
    intro k; rw [(h.f k).1] at hh; simp at hh
  · exact h

end Sys2Proof.Machine
end

