-- ==== Sys2Proof/Laws/Lighting.lean ====
section
/-! SUPPORT. What each operation of the Lighting Engine leaves alone, field by field, and what it makes of one channel
or one master. -/

namespace Sys2Proof.Machine

variable (l : Lighting)

/-! ### stepFades -/

@[simp] theorem Lighting.stepFades_grand : l.stepFades.grand = l.grand := by
  simp only [Lighting.stepFades]

@[simp] theorem Lighting.stepFades_counts : l.stepFades.counts = l.counts := by
  simp only [Lighting.stepFades]

@[simp] theorem Lighting.stepFades_flicker : l.stepFades.flicker = l.flicker := by
  simp only [Lighting.stepFades]

@[simp] theorem Lighting.stepFades_slot : l.stepFades.slot = l.slot := by
  simp only [Lighting.stepFades]

@[simp] theorem Lighting.stepFades_hold : l.stepFades.hold = l.hold := by
  simp only [Lighting.stepFades]

@[simp] theorem Lighting.stepFades_house : l.stepFades.house = l.house := by
  simp only [Lighting.stepFades]

@[simp] theorem Lighting.stepFades_period : l.stepFades.period = l.period := by
  simp only [Lighting.stepFades]

@[simp] theorem Lighting.stepFades_frame : l.stepFades.frame = l.frame := by
  simp only [Lighting.stepFades]

/-! ### decidePhases -/

@[simp] theorem Lighting.decidePhases_channels (t : Tables) (mode : ShowState) : (l.decidePhases t mode).channels = l.channels := by
  simp only [Lighting.decidePhases]
  split <;> simp only []

@[simp] theorem Lighting.decidePhases_masters (t : Tables) (mode : ShowState) : (l.decidePhases t mode).masters = l.masters := by
  simp only [Lighting.decidePhases]
  split <;> simp only []

@[simp] theorem Lighting.decidePhases_grand (t : Tables) (mode : ShowState) : (l.decidePhases t mode).grand = l.grand := by
  simp only [Lighting.decidePhases]
  split <;> simp only []

@[simp] theorem Lighting.decidePhases_counts (t : Tables) (mode : ShowState) : (l.decidePhases t mode).counts = l.counts := by
  simp only [Lighting.decidePhases]
  split <;> simp only []

@[simp] theorem Lighting.decidePhases_flicker (t : Tables) (mode : ShowState) : (l.decidePhases t mode).flicker = l.flicker := by
  simp only [Lighting.decidePhases]
  split <;> simp only []

@[simp] theorem Lighting.decidePhases_slot (t : Tables) (mode : ShowState) : (l.decidePhases t mode).slot = l.slot := by
  simp only [Lighting.decidePhases]
  split <;> simp only []

@[simp] theorem Lighting.decidePhases_hold (t : Tables) (mode : ShowState) : (l.decidePhases t mode).hold = l.hold := by
  simp only [Lighting.decidePhases]
  split <;> simp only []

@[simp] theorem Lighting.decidePhases_house (t : Tables) (mode : ShowState) : (l.decidePhases t mode).house = l.house := by
  simp only [Lighting.decidePhases]
  split <;> simp only []

@[simp] theorem Lighting.decidePhases_period (t : Tables) (mode : ShowState) : (l.decidePhases t mode).period = l.period := by
  simp only [Lighting.decidePhases]
  split <;> simp only []

@[simp] theorem Lighting.decidePhases_frame (t : Tables) (mode : ShowState) : (l.decidePhases t mode).frame = l.frame := by
  simp only [Lighting.decidePhases]
  split <;> simp only []

/-! ### formDuties -/

@[simp] theorem Lighting.formDuties_masters (t : Tables) (mode : ShowState) : (l.formDuties t mode).masters = l.masters := by
  simp only [Lighting.formDuties, Lighting.decidePhases_masters]

@[simp] theorem Lighting.formDuties_grand (t : Tables) (mode : ShowState) : (l.formDuties t mode).grand = l.grand := by
  simp only [Lighting.formDuties, Lighting.decidePhases_grand]

@[simp] theorem Lighting.formDuties_counts (t : Tables) (mode : ShowState) : (l.formDuties t mode).counts = l.counts := by
  simp only [Lighting.formDuties, Lighting.decidePhases_counts]

@[simp] theorem Lighting.formDuties_flicker (t : Tables) (mode : ShowState) : (l.formDuties t mode).flicker = l.flicker := by
  simp only [Lighting.formDuties, Lighting.decidePhases_flicker]

@[simp] theorem Lighting.formDuties_slot (t : Tables) (mode : ShowState) : (l.formDuties t mode).slot = l.slot := by
  simp only [Lighting.formDuties, Lighting.decidePhases_slot]

@[simp] theorem Lighting.formDuties_hold (t : Tables) (mode : ShowState) : (l.formDuties t mode).hold = l.hold := by
  simp only [Lighting.formDuties, Lighting.decidePhases_hold]

@[simp] theorem Lighting.formDuties_house (t : Tables) (mode : ShowState) : (l.formDuties t mode).house = l.house := by
  simp only [Lighting.formDuties, Lighting.decidePhases_house]

@[simp] theorem Lighting.formDuties_period (t : Tables) (mode : ShowState) : (l.formDuties t mode).period = l.period := by
  simp only [Lighting.formDuties, Lighting.decidePhases_period]

@[simp] theorem Lighting.formDuties_frame (t : Tables) (mode : ShowState) : (l.formDuties t mode).frame = l.frame := by
  simp only [Lighting.formDuties, Lighting.decidePhases_frame]

/-! ### startFade -/

@[simp] theorem Lighting.startFade_masters (c : Fin 48) (level length : Nat) (curve : FadeCurve) : (l.startFade c level length curve).masters = l.masters := by
  simp only [Lighting.startFade]

@[simp] theorem Lighting.startFade_grand (c : Fin 48) (level length : Nat) (curve : FadeCurve) : (l.startFade c level length curve).grand = l.grand := by
  simp only [Lighting.startFade]

@[simp] theorem Lighting.startFade_counts (c : Fin 48) (level length : Nat) (curve : FadeCurve) : (l.startFade c level length curve).counts = l.counts := by
  simp only [Lighting.startFade]

@[simp] theorem Lighting.startFade_flicker (c : Fin 48) (level length : Nat) (curve : FadeCurve) : (l.startFade c level length curve).flicker = l.flicker := by
  simp only [Lighting.startFade]

@[simp] theorem Lighting.startFade_slot (c : Fin 48) (level length : Nat) (curve : FadeCurve) : (l.startFade c level length curve).slot = l.slot := by
  simp only [Lighting.startFade]

@[simp] theorem Lighting.startFade_hold (c : Fin 48) (level length : Nat) (curve : FadeCurve) : (l.startFade c level length curve).hold = l.hold := by
  simp only [Lighting.startFade]

@[simp] theorem Lighting.startFade_house (c : Fin 48) (level length : Nat) (curve : FadeCurve) : (l.startFade c level length curve).house = l.house := by
  simp only [Lighting.startFade]

@[simp] theorem Lighting.startFade_period (c : Fin 48) (level length : Nat) (curve : FadeCurve) : (l.startFade c level length curve).period = l.period := by
  simp only [Lighting.startFade]

@[simp] theorem Lighting.startFade_frame (c : Fin 48) (level length : Nat) (curve : FadeCurve) : (l.startFade c level length curve).frame = l.frame := by
  simp only [Lighting.startFade]

/-! ### startMaster -/

@[simp] theorem Lighting.startMaster_channels (g : Fin 16) (level length : Nat) : (l.startMaster g level length).channels = l.channels := by
  simp only [Lighting.startMaster]

@[simp] theorem Lighting.startMaster_grand (g : Fin 16) (level length : Nat) : (l.startMaster g level length).grand = l.grand := by
  simp only [Lighting.startMaster]

@[simp] theorem Lighting.startMaster_counts (g : Fin 16) (level length : Nat) : (l.startMaster g level length).counts = l.counts := by
  simp only [Lighting.startMaster]

@[simp] theorem Lighting.startMaster_flicker (g : Fin 16) (level length : Nat) : (l.startMaster g level length).flicker = l.flicker := by
  simp only [Lighting.startMaster]

@[simp] theorem Lighting.startMaster_slot (g : Fin 16) (level length : Nat) : (l.startMaster g level length).slot = l.slot := by
  simp only [Lighting.startMaster]

@[simp] theorem Lighting.startMaster_hold (g : Fin 16) (level length : Nat) : (l.startMaster g level length).hold = l.hold := by
  simp only [Lighting.startMaster]

@[simp] theorem Lighting.startMaster_house (g : Fin 16) (level length : Nat) : (l.startMaster g level length).house = l.house := by
  simp only [Lighting.startMaster]

@[simp] theorem Lighting.startMaster_period (g : Fin 16) (level length : Nat) : (l.startMaster g level length).period = l.period := by
  simp only [Lighting.startMaster]

@[simp] theorem Lighting.startMaster_frame (g : Fin 16) (level length : Nat) : (l.startMaster g level length).frame = l.frame := by
  simp only [Lighting.startMaster]

/-! ### houseEvent -/

@[simp] theorem Lighting.houseEvent_masters (t : Tables) (asserted : Bool) : (l.houseEvent t asserted).masters = l.masters := by
  simp only [Lighting.houseEvent]

@[simp] theorem Lighting.houseEvent_grand (t : Tables) (asserted : Bool) : (l.houseEvent t asserted).grand = l.grand := by
  simp only [Lighting.houseEvent]

@[simp] theorem Lighting.houseEvent_counts (t : Tables) (asserted : Bool) : (l.houseEvent t asserted).counts = l.counts := by
  simp only [Lighting.houseEvent]

@[simp] theorem Lighting.houseEvent_flicker (t : Tables) (asserted : Bool) : (l.houseEvent t asserted).flicker = l.flicker := by
  simp only [Lighting.houseEvent]

@[simp] theorem Lighting.houseEvent_slot (t : Tables) (asserted : Bool) : (l.houseEvent t asserted).slot = l.slot := by
  simp only [Lighting.houseEvent]

@[simp] theorem Lighting.houseEvent_hold (t : Tables) (asserted : Bool) : (l.houseEvent t asserted).hold = l.hold := by
  simp only [Lighting.houseEvent]

@[simp] theorem Lighting.houseEvent_period (t : Tables) (asserted : Bool) : (l.houseEvent t asserted).period = l.period := by
  simp only [Lighting.houseEvent]

@[simp] theorem Lighting.houseEvent_frame (t : Tables) (asserted : Bool) : (l.houseEvent t asserted).frame = l.frame := by
  simp only [Lighting.houseEvent]

/-! ### periodStart -/

@[simp] theorem Lighting.periodStart_masters (t : Tables) (c : Fin 48) : (l.periodStart t c).masters = l.masters := by
  simp only [Lighting.periodStart]

@[simp] theorem Lighting.periodStart_grand (t : Tables) (c : Fin 48) : (l.periodStart t c).grand = l.grand := by
  simp only [Lighting.periodStart]

@[simp] theorem Lighting.periodStart_counts (t : Tables) (c : Fin 48) : (l.periodStart t c).counts = l.counts := by
  simp only [Lighting.periodStart]

@[simp] theorem Lighting.periodStart_flicker (t : Tables) (c : Fin 48) : (l.periodStart t c).flicker = l.flicker := by
  simp only [Lighting.periodStart]

@[simp] theorem Lighting.periodStart_slot (t : Tables) (c : Fin 48) : (l.periodStart t c).slot = l.slot := by
  simp only [Lighting.periodStart]

@[simp] theorem Lighting.periodStart_hold (t : Tables) (c : Fin 48) : (l.periodStart t c).hold = l.hold := by
  simp only [Lighting.periodStart]

@[simp] theorem Lighting.periodStart_house (t : Tables) (c : Fin 48) : (l.periodStart t c).house = l.house := by
  simp only [Lighting.periodStart]

@[simp] theorem Lighting.periodStart_frame (t : Tables) (c : Fin 48) : (l.periodStart t c).frame = l.frame := by
  simp only [Lighting.periodStart]

/-! ### attractStop -/

@[simp] theorem Lighting.attractStop_channels : l.attractStop.channels = l.channels := by
  simp only [Lighting.attractStop]

@[simp] theorem Lighting.attractStop_masters : l.attractStop.masters = l.masters := by
  simp only [Lighting.attractStop]

@[simp] theorem Lighting.attractStop_grand : l.attractStop.grand = l.grand := by
  simp only [Lighting.attractStop]

@[simp] theorem Lighting.attractStop_counts : l.attractStop.counts = l.counts := by
  simp only [Lighting.attractStop]

@[simp] theorem Lighting.attractStop_flicker : l.attractStop.flicker = l.flicker := by
  simp only [Lighting.attractStop]

@[simp] theorem Lighting.attractStop_house : l.attractStop.house = l.house := by
  simp only [Lighting.attractStop]

@[simp] theorem Lighting.attractStop_period : l.attractStop.period = l.period := by
  simp only [Lighting.attractStop]

@[simp] theorem Lighting.attractStop_frame : l.attractStop.frame = l.frame := by
  simp only [Lighting.attractStop]

/-! ### advanceCarriers -/

@[simp] theorem Lighting.advanceCarriers_channels (t : Tables) (mode : ShowState) :
    (l.advanceCarriers t mode).channels = l.channels := by
  simp only [Lighting.advanceCarriers]
  split <;> simp only []

@[simp] theorem Lighting.advanceCarriers_masters (t : Tables) (mode : ShowState) :
    (l.advanceCarriers t mode).masters = l.masters := by
  simp only [Lighting.advanceCarriers]
  split <;> simp only []

@[simp] theorem Lighting.advanceCarriers_grand (t : Tables) (mode : ShowState) :
    (l.advanceCarriers t mode).grand = l.grand := by
  simp only [Lighting.advanceCarriers]
  split <;> simp only []

@[simp] theorem Lighting.advanceCarriers_slot (t : Tables) (mode : ShowState) :
    (l.advanceCarriers t mode).slot = l.slot := by
  simp only [Lighting.advanceCarriers]
  split <;> simp only []

@[simp] theorem Lighting.advanceCarriers_hold (t : Tables) (mode : ShowState) :
    (l.advanceCarriers t mode).hold = l.hold := by
  simp only [Lighting.advanceCarriers]
  split <;> simp only []

@[simp] theorem Lighting.advanceCarriers_house (t : Tables) (mode : ShowState) :
    (l.advanceCarriers t mode).house = l.house := by
  simp only [Lighting.advanceCarriers]
  split <;> simp only []

@[simp] theorem Lighting.advanceCarriers_period (t : Tables) (mode : ShowState) :
    (l.advanceCarriers t mode).period = l.period := by
  simp only [Lighting.advanceCarriers]
  split <;> simp only []

@[simp] theorem Lighting.advanceCarriers_frame (t : Tables) (mode : ShowState) :
    (l.advanceCarriers t mode).frame = l.frame := by
  simp only [Lighting.advanceCarriers]
  split <;> simp only []

/-- R107, R110: in LOADING the flicker register stands, and otherwise it takes one step. -/
theorem Lighting.advanceCarriers_flicker (t : Tables) (mode : ShowState) :
    (l.advanceCarriers t mode).flicker = if mode = .loading then l.flicker else flickerStep l.flicker := by
  unfold Lighting.advanceCarriers
  split <;> simp only []

/-! ### One channel and one master -/

/-- R86: every fade takes its step. -/
@[simp] theorem Lighting.stepFades_channel (c : Fin 48) :
    l.stepFades.channels[c] = { l.channels[c] with fade := l.channels[c].fade.step } := by
  simp [Lighting.stepFades]

/-- R91: every master fade takes its step. -/
@[simp] theorem Lighting.stepFades_master (g : Fin 16) : l.stepFades.masters[g] = l.masters[g].step := by
  simp [Lighting.stepFades]

/-- R101: the duties of each channel are formed. -/
@[simp] theorem Lighting.formDuties_channel (t : Tables) (mode : ShowState) (c : Fin 48) :
    (l.formDuties t mode).channels[c] = (l.decidePhases t mode).formChannel t mode c := by
  simp [Lighting.formDuties]

/-- R85: a fade starts on one channel alone. -/
theorem Lighting.startFade_channel (c d : Fin 48) (level length : Nat) (curve : FadeCurve) :
    (l.startFade c level length curve).channels[d] =
      if c = d then { l.channels[c] with fade := l.channels[c].fade.begin level length curve } else l.channels[d] := by
  simp only [Lighting.startFade, Fin.getElem_fin, Vector.getElem_set, Fin.ext_iff]

/-- R107: the phase of a carrier is decided by its record, its frame count and the flicker register. -/
theorem Lighting.formDuties_phase (t : Tables) (mode : ShowState) (k : Fin 4) :
    (l.formDuties t mode).phases[k] =
      if mode = .loading then l.phases[k] else (t.carrier k).onPhase l.counts[k] l.flicker := by
  simp only [Lighting.formDuties, Lighting.decidePhases]
  split <;> simp

/-- R91: a master fade starts on one group alone. -/
theorem Lighting.startMaster_master (g d : Fin 16) (level length : Nat) :
    (l.startMaster g level length).masters[d] = if g = d then l.masters[g].begin level length else l.masters[d] := by
  simp only [Lighting.startMaster, Fin.getElem_fin, Vector.getElem_set, Fin.ext_iff]

/-- R117, R118: a house event restages the participating channels alone. -/
theorem Lighting.houseEvent_channel (t : Tables) (asserted : Bool) (c : Fin 48) :
    (l.houseEvent t asserted).channels[c] =
      if (t.channel c).participates then
        { l.channels[c] with staged := (t.channel c).stage asserted l.channels[c].gated }
      else l.channels[c] := by
  simp [Lighting.houseEvent]

/-- R104: a period starts on one channel alone. -/
theorem Lighting.periodStart_channel (t : Tables) (c d : Fin 48) :
    (l.periodStart t c).channels[d] =
      if c = d then
        { l.channels[c] with
          active := l.channels[c].staged, align := (t.channel c).align, slot := (t.channel c).effectiveSlot c }
      else l.channels[d] := by
  simp only [Lighting.periodStart, Fin.getElem_fin, Vector.getElem_set, Fin.ext_iff]

end Sys2Proof.Machine
end

