-- ==== Sys2Proof/Laws/PerInstr.lean ====
section
/-! SUPPORT. What holds of every command as syntax, shown for each in turn: its operands are well formed exactly when
each list of bytes it carries has a length that the part can meet, and the request that it executes is of a kind of the
request table. -/

namespace Sys2Proof.Laws

/-- The lists of bytes that a command carries are of a length that the part can meet, and its request kind is one of
the request table. -/
def Operands.Statement (i : Instr) : Prop :=
  (i.wellFormed = true ↔
    (∀ kind payload, i = .arrival kind payload → payload.length ≤ 199)
    ∧ (∀ data, i = .burstComplete data → 1 ≤ data.length ∧ data.length ≤ 64)
    ∧ (∀ data, i = .imageReadComplete data → 1 ≤ data.length))
  ∧ (∀ kind, i.requestKind? = some kind → Machine.isRequestKind kind = true)

/-- A command that carries no list of bytes meets the statement when it is well formed and its request kind is one of
the request table. -/
theorem operands_of_no_bytes (i : Instr) (well : i.wellFormed = true) (known : i.requestKind?.all Machine.isRequestKind = true)
    (frame : ∀ kind payload, i ≠ .arrival kind payload) (burst : ∀ data, i ≠ .burstComplete data)
    (image : ∀ data, i ≠ .imageReadComplete data) : Operands.Statement i := by
  refine ⟨⟨fun _ => ⟨fun kind payload e => absurd e (frame kind payload), fun data e => absurd e (burst data),
    fun data e => absurd e (image data)⟩, fun _ => well⟩, fun kind e => ?_⟩
  rw [e] at known
  exact known

theorem Operands.powerOnReset (mode1 mode0 fastBaud : Bool) : Operands.Statement (.powerOnReset mode1 mode0 fastBaud) :=
  operands_of_no_bytes _ rfl rfl nofun nofun nofun

theorem Operands.resetN (mode1 mode0 fastBaud : Bool) : Operands.Statement (.resetN mode1 mode0 fastBaud) :=
  operands_of_no_bytes _ rfl rfl nofun nofun nofun

theorem Operands.arrival (kind : Byte) (payload : List Byte) : Operands.Statement (.arrival kind payload) := by
  simp [Operands.Statement, Instr.wellFormed, Instr.requestKind?, Machine.isRequestKind]

theorem Operands.gapTimeout : Operands.Statement (.gapTimeout) :=
  operands_of_no_bytes _ rfl rfl nofun nofun nofun

theorem Operands.transmitEnd : Operands.Statement (.transmitEnd) :=
  operands_of_no_bytes _ rfl rfl nofun nofun nofun

theorem Operands.unknownRequest : Operands.Statement (.unknownRequest) :=
  operands_of_no_bytes _ rfl rfl nofun nofun nofun

theorem Operands.ident : Operands.Statement (.ident) :=
  operands_of_no_bytes _ rfl rfl nofun nofun nofun

theorem Operands.status : Operands.Statement (.status) :=
  operands_of_no_bytes _ rfl rfl nofun nofun nofun

theorem Operands.query : Operands.Statement (.query) :=
  operands_of_no_bytes _ rfl rfl nofun nofun nofun

theorem Operands.reportLevel : Operands.Statement (.reportLevel) :=
  operands_of_no_bytes _ rfl rfl nofun nofun nofun

theorem Operands.softReset : Operands.Statement (.softReset) :=
  operands_of_no_bytes _ rfl rfl nofun nofun nofun

theorem Operands.showMode : Operands.Statement (.showMode) :=
  operands_of_no_bytes _ rfl rfl nofun nofun nofun

theorem Operands.loadImage : Operands.Statement (.loadImage) :=
  operands_of_no_bytes _ rfl rfl nofun nofun nofun

theorem Operands.tableOpen : Operands.Statement (.tableOpen) :=
  operands_of_no_bytes _ rfl rfl nofun nofun nofun

theorem Operands.tableWrite : Operands.Statement (.tableWrite) :=
  operands_of_no_bytes _ rfl rfl nofun nofun nofun

theorem Operands.tableRead : Operands.Statement (.tableRead) :=
  operands_of_no_bytes _ rfl rfl nofun nofun nofun

theorem Operands.trigger : Operands.Statement (.trigger) :=
  operands_of_no_bytes _ rfl rfl nofun nofun nofun

theorem Operands.cancel : Operands.Statement (.cancel) :=
  operands_of_no_bytes _ rfl rfl nofun nofun nofun

theorem Operands.stopAll : Operands.Statement (.stopAll) :=
  operands_of_no_bytes _ rfl rfl nofun nofun nofun

theorem Operands.holdGroup : Operands.Statement (.holdGroup) :=
  operands_of_no_bytes _ rfl rfl nofun nofun nofun

theorem Operands.freeGroup : Operands.Statement (.freeGroup) :=
  operands_of_no_bytes _ rfl rfl nofun nofun nofun

theorem Operands.setLevel : Operands.Statement (.setLevel) :=
  operands_of_no_bytes _ rfl rfl nofun nofun nofun

theorem Operands.setMaster : Operands.Statement (.setMaster) :=
  operands_of_no_bytes _ rfl rfl nofun nofun nofun

theorem Operands.setGrand : Operands.Statement (.setGrand) :=
  operands_of_no_bytes _ rfl rfl nofun nofun nofun

theorem Operands.setBed : Operands.Statement (.setBed) :=
  operands_of_no_bytes _ rfl rfl nofun nofun nofun

theorem Operands.setLanguage : Operands.Statement (.setLanguage) :=
  operands_of_no_bytes _ rfl rfl nofun nofun nofun

theorem Operands.setLamp : Operands.Statement (.setLamp) :=
  operands_of_no_bytes _ rfl rfl nofun nofun nofun

theorem Operands.moveAxis : Operands.Statement (.moveAxis) :=
  operands_of_no_bytes _ rfl rfl nofun nofun nofun

theorem Operands.homeAxis : Operands.Statement (.homeAxis) :=
  operands_of_no_bytes _ rfl rfl nofun nofun nofun

theorem Operands.imageReadComplete (data : List Byte) : Operands.Statement (.imageReadComplete data) := by
  simp [Operands.Statement, Instr.wellFormed, Instr.requestKind?, Machine.isRequestKind]

theorem Operands.patienceExpiry (scene : Fin 64) (f : Nat) : Operands.Statement (.patienceExpiry scene f) :=
  operands_of_no_bytes _ rfl rfl nofun nofun nofun

theorem Operands.cooldownEnd (scene : Fin 64) (f : Nat) : Operands.Statement (.cooldownEnd scene f) :=
  operands_of_no_bytes _ rfl rfl nofun nofun nofun

theorem Operands.playerFrameEvent (player : Fin 8) (f : Nat) : Operands.Statement (.playerFrameEvent player f) :=
  operands_of_no_bytes _ rfl rfl nofun nofun nofun

theorem Operands.cueDelayExpiry (player : Fin 8) (f : Nat) : Operands.Statement (.cueDelayExpiry player f) :=
  operands_of_no_bytes _ rfl rfl nofun nofun nofun

theorem Operands.awaitTimeout (player : Fin 8) (f : Nat) : Operands.Statement (.awaitTimeout player f) :=
  operands_of_no_bytes _ rfl rfl nofun nofun nofun

theorem Operands.lightingFrameEvent (f : Nat) : Operands.Statement (.lightingFrameEvent f) :=
  operands_of_no_bytes _ rfl rfl nofun nofun nofun

theorem Operands.attractHoldExpiry (f : Nat) : Operands.Statement (.attractHoldExpiry f) :=
  operands_of_no_bytes _ rfl rfl nofun nofun nofun

theorem Operands.pwmPeriodStart (channel : Fin 48) : Operands.Statement (.pwmPeriodStart channel) :=
  operands_of_no_bytes _ rfl rfl nofun nofun nofun

theorem Operands.houseEvent (asserted : Bool) (f : Nat) : Operands.Statement (.houseEvent asserted f) :=
  operands_of_no_bytes _ rfl rfl nofun nofun nofun

theorem Operands.estopEvent (asserted : Bool) (f : Nat) : Operands.Statement (.estopEvent asserted f) :=
  operands_of_no_bytes _ rfl rfl nofun nofun nofun

theorem Operands.burstComplete (data : List Byte) : Operands.Statement (.burstComplete data) := by
  simp [Operands.Statement, Instr.wellFormed, Instr.requestKind?, Machine.isRequestKind]

theorem Operands.sampleEvent : Operands.Statement (.sampleEvent) :=
  operands_of_no_bytes _ rfl rfl nofun nofun nofun

theorem Operands.soundFrameEvent (f : Nat) : Operands.Statement (.soundFrameEvent f) :=
  operands_of_no_bytes _ rfl rfl nofun nofun nofun

theorem Operands.fadeOutEnd (voice : Fin 4) (f : Nat) : Operands.Statement (.fadeOutEnd voice f) :=
  operands_of_no_bytes _ rfl rfl nofun nofun nofun

theorem Operands.stallTimeout (voice : Fin 4) (f : Nat) : Operands.Statement (.stallTimeout voice f) :=
  operands_of_no_bytes _ rfl rfl nofun nofun nofun

theorem Operands.duckStep (bed : Fin 4) (f : Nat) : Operands.Statement (.duckStep bed f) :=
  operands_of_no_bytes _ rfl rfl nofun nofun nofun

theorem Operands.profileIntervalEvent (axis : Fin 8) (home limit : Bool) : Operands.Statement (.profileIntervalEvent axis home limit) :=
  operands_of_no_bytes _ rfl rfl nofun nofun nofun

theorem Operands.motionFrameEvent (f : Nat) : Operands.Statement (.motionFrameEvent f) :=
  operands_of_no_bytes _ rfl rfl nofun nofun nofun

theorem Operands.resumeWaitExpiry (axis : Fin 8) (f : Nat) : Operands.Statement (.resumeWaitExpiry axis f) :=
  operands_of_no_bytes _ rfl rfl nofun nofun nofun

theorem Operands.inputSample (levels : InputLevels) (f : Nat) : Operands.Statement (.inputSample levels f) :=
  operands_of_no_bytes _ rfl rfl nofun nofun nofun

theorem Operands.zoneBecomesOccupied (zone : Fin 12) (f : Nat) : Operands.Statement (.zoneBecomesOccupied zone f) :=
  operands_of_no_bytes _ rfl rfl nofun nofun nofun

theorem Operands.zoneBecomesClear (zone : Fin 12) (f : Nat) : Operands.Statement (.zoneBecomesClear zone f) :=
  operands_of_no_bytes _ rfl rfl nofun nofun nofun

theorem Operands.press (button : Fin 16) (f : Nat) : Operands.Statement (.press button f) :=
  operands_of_no_bytes _ rfl rfl nofun nofun nofun

theorem Operands.buttonRelease (button : Fin 16) (f : Nat) : Operands.Statement (.buttonRelease button f) :=
  operands_of_no_bytes _ rfl rfl nofun nofun nofun

theorem Operands.flashEnd (lamp : Fin 16) (f : Nat) : Operands.Statement (.flashEnd lamp f) :=
  operands_of_no_bytes _ rfl rfl nofun nofun nofun

theorem Operands.byteReceived (b : Byte) (stopOk : Bool) : Operands.Statement (.byteReceived b stopOk) :=
  operands_of_no_bytes _ rfl rfl nofun nofun nofun

theorem Operands.resetBegins : Operands.Statement (.resetBegins) :=
  operands_of_no_bytes _ rfl rfl nofun nofun nofun

theorem Operands.patienceAndCooldownCount (f : Nat) : Operands.Statement (.patienceAndCooldownCount f) :=
  operands_of_no_bytes _ rfl rfl nofun nofun nofun

end Sys2Proof.Laws
end

