-- ==== Sys2Proof/Laws/PlayersKept.lean ====
section
/-! SUPPORT. What the start, the stop and the events of players keep: start orders that are distinct numbers from 1 to
the count of players, and loop stacks within their depth (R40, R53). -/

namespace Sys2Proof.Machine

/-- A choice among the players that takes in one player more chooses one more. -/
theorem filter_length_succ (p : Fin 8) (f g : Fin 8 → Bool) (hp : f p = false) (hg : g p = true)
    (h : ∀ q, q ≠ p → f q = g q) :
    ((List.finRange 8).filter g).length = ((List.finRange 8).filter f).length + 1 := by
  have key : ∀ l : List (Fin 8), l.Nodup → p ∈ l → (l.filter g).length = (l.filter f).length + 1 := by
    intro l
    induction l with
    | nil => intro _ h; cases h
    | cons x xs ih =>
      intro nd hm
      rw [List.nodup_cons] at nd
      by_cases e : x = p
      · subst e
        have : xs.filter g = xs.filter f := List.filter_congr fun y hy => (h y (fun e => nd.1 (e ▸ hy))).symm
        simp [hp, hg, this]
      · have hm : p ∈ xs := by
          rcases List.mem_cons.1 hm with r | r
          · exact absurd r.symm e
          · exact r
        rw [List.filter_cons, List.filter_cons, h x e]
        have := ih nd.2 hm
        split <;> (try simp) <;> omega
  exact key _ (List.nodup_finRange 8) (List.mem_finRange p)

/-- R40, R53: the start orders of the players are distinct numbers from 1 to their count, and no loop stack is deeper than
four. -/
def OrdersWithin (players : Vector (Option Run) 8) : Prop :=
  (∀ (p : Fin 8) (r : Run), players[p] = some r →
    1 ≤ r.order ∧ r.order ≤ ((List.finRange 8).filter fun (p : Fin 8) => players[p].isSome).length ∧ r.loops.length ≤ 4)
  ∧ (∀ (p q : Fin 8) (r x : Run), players[p] = some r → players[q] = some x →
    r.order = x.order → p = q)

/-- A player that stops leaves the others with orders that close up. -/
theorem OrdersWithin.lower {players : Vector (Option Run) 8} (h : OrdersWithin players) {p : Fin 8} {r : Run}
    (hr : players[p] = some r) :
    OrdersWithin (lowerOrders players p r.order) := by
  have cnt : ((List.finRange 8).filter fun (q : Fin 8) => players[q].isSome).length
      = ((List.finRange 8).filter fun (q : Fin 8) => (lowerOrders players p r.order)[q].isSome).length + 1 := by
    refine filter_length_succ p _ _ ?_ ?_ ?_
    · simp [lowerOrders]
    · simp [hr]
    · intro q hq
      have : (⟨q.val, q.isLt⟩ : Fin 8) ≠ p := hq
      simp [lowerOrders, hq]
  obtain ⟨h1, h2⟩ := h
  have get : ∀ (q : Fin 8) (y : Run), (lowerOrders players p r.order)[q] = some y → q ≠ p ∧
      ∃ x, players[q] = some x ∧ y = (if r.order < x.order then { x with order := x.order - 1 } else x) := by
    intro q y hy
    simp only [lowerOrders, Fin.getElem_fin, Vector.getElem_ofFn] at hy
    split at hy
    · cases hy
    · next hne =>
      refine ⟨hne, ?_⟩
      rw [Option.map_eq_some_iff] at hy
      obtain ⟨x, hx, rfl⟩ := hy
      exact ⟨x, hx, rfl⟩
  refine ⟨?_, ?_⟩
  · intro q y hy
    obtain ⟨hne, x, hx, rfl⟩ := get q y hy
    obtain ⟨a, b, c⟩ := h1 q x hx
    have d : r.order ≠ x.order := fun e => hne (h2 p q r x hr hx e).symm
    have e := (h1 p r hr).1
    have e := (h1 p r hr).2.1
    split
    · exact ⟨by dsimp only; omega, by dsimp only; omega, c⟩
    · exact ⟨a, by omega, c⟩
  · intro q q' y y' hy hy' ho
    obtain ⟨hne, x, hx, rfl⟩ := get q y hy
    obtain ⟨hne', x', hx', rfl⟩ := get q' y' hy'
    have d : r.order ≠ x.order := fun e => hne (h2 p q r x hr hx e).symm
    have d' : r.order ≠ x'.order := fun e => hne' (h2 p q' r x' hr hx' e).symm
    refine h2 q q' x x' hx hx' ?_
    split at ho <;> split at ho <;> (try dsimp only at ho) <;> omega

/-- A player that starts takes the next order. -/
theorem OrdersWithin.start {players : Vector (Option Run) 8} (h : OrdersWithin players) {p : Fin 8} {r : Run}
    (hr : players[p] = none)
    (ho : r.order = ((List.finRange 8).filter fun (p : Fin 8) => players[p].isSome).length + 1) (hl : r.loops.length ≤ 4) :
    OrdersWithin (players.set p (some r)) := by
  have cnt : ((List.finRange 8).filter fun (q : Fin 8) => (players.set p (some r))[q].isSome).length =
      ((List.finRange 8).filter fun (q : Fin 8) => players[q].isSome).length + 1 := by
    refine filter_length_succ p _ _ ?_ ?_ ?_
    · simp [hr]
    · simp
    · intro q hq
      have : p.val ≠ q.val := fun e => hq (Fin.ext e.symm)
      simp [this]
  obtain ⟨h1, h2⟩ := h
  have get : ∀ (q : Fin 8) (y : Run), (players.set p (some r))[q] = some y → (q = p ∧ y = r) ∨ players[q] = some y := by
    intro q y hy
    simp only [Fin.getElem_fin, Vector.getElem_set] at hy
    split at hy
    · next e => left; exact ⟨Fin.ext e.symm, by cases hy; rfl⟩
    · exact .inr hy
  refine ⟨?_, ?_⟩
  · intro q y hy
    rw [cnt]
    rcases get q y hy with ⟨-, rfl⟩ | hy
    · exact ⟨by omega, by omega, hl⟩
    · have := h1 q y hy; exact ⟨this.1, by omega, this.2.2⟩
  · intro q q' y y' hy hy' e
    rcases get q y hy with ⟨rfl, rfl⟩ | hy <;> rcases get q' y' hy' with ⟨rfl, rfl⟩ | hy'
    · rfl
    · have := (h1 _ _ hy').2.1; omega
    · have := (h1 _ _ hy).2.1; omega
    · exact h2 _ _ _ _ hy hy' e

/-- The orders stay where no player starts or stops and none changes its own. -/
theorem OrdersWithin.update {a b : Vector (Option Run) 8} (h : OrdersWithin a) 
   (hk : ∀ q y, b[(q : Fin 8)] = some y → ∃ x, a[q] = some x ∧ y.order = x.order ∧ (x.loops.length ≤ 4 → y.loops.length ≤ 4))
   (hs : ∀ q : Fin 8, b[q].isSome = a[q].isSome) : OrdersWithin b := by
  have e : (fun q : Fin 8 => b[q].isSome) = (fun q : Fin 8 => a[q].isSome) := funext hs
  refine ⟨?_, ?_⟩
  · intro q y hy
    obtain ⟨x, hx, ho, hl⟩ := hk q y hy
    have := h.1 q x hx
    rw [e, ho]; exact ⟨this.1, this.2.1, hl this.2.2⟩
  · intro q q' y y' hy hy' ee
    obtain ⟨x, hx, ho, hl⟩ := hk q y hy
    obtain ⟨x', hx', ho', hl'⟩ := hk q' y' hy'
    exact h.2 _ _ _ _ hx hx' (by omega)

end Sys2Proof.Machine
end

