-- ==== Sys2Proof/Laws/ScenesKept.lean ====
section
/-! SUPPORT. The scenes' states in step with the pending queue and the players (R20), through every operation of the
Scene Engine. -/

namespace Sys2Proof.Machine

/-- An element of a vector that has been written at one index. -/
theorem Vector.getElem_setFin {α : Type} {n : Nat} (v : Vector α n) (i j : Fin n) (x : α) :
    (v.set i x)[j] = if i = j then x else v[j] := by
  simp only [Fin.getElem_fin, Vector.getElem_set, Fin.ext_iff]

/-- R20, while an event is under way: a scene is PENDING exactly while it is queued, and RUNNING exactly while a player
holds it. The scenes that satisfy `T` have left RUNNING and wait for their next state, with the again flag as it was. -/
structure Engine.Agrees (e : Engine) (T : Fin 64 → Prop) : Prop where
  pending : ∀ sc : Fin 64, (e.scenes[sc]).state = .pending ↔ ∃ x ∈ e.queue, x.scene = sc
  running : ∀ sc : Fin 64, (e.scenes[sc]).state = .running ↔ ∃ (p : Fin 8) (r : Run), e.players[p] = some r ∧ r.scene = sc
  cooldown : ∀ sc : Fin 64, (e.scenes[sc]).state ≠ .cooldown → (e.scenes[sc]).cooldown = 0
  again : ∀ sc : Fin 64, ¬ T sc → (e.scenes[sc]).state ≠ .running → (e.scenes[sc]).again = false
  resting : ∀ sc : Fin 64, T sc → (e.scenes[sc]).state = .ready
  entries : e.queue.Pairwise fun a b => a.scene ≠ b.scene
  players : ∀ (p q : Fin 8) (r x : Run), e.players[p] = some r → e.players[q] = some x → r.scene = x.scene → p = q

variable {e : Engine} {T : Fin 64 → Prop}

theorem Engine.Agrees.congr {U : Fin 64 → Prop} (h : e.Agrees T) (k : ∀ sc, T sc ↔ U sc) : e.Agrees U :=
  ⟨h.pending, h.running, h.cooldown, fun sc n => h.again sc fun t => n ((k sc).1 t), fun sc u => h.resting sc ((k sc).2 u),
   h.entries, h.players⟩

/-- The scenes' states, the queue and who holds which scene are all that matters. -/
theorem Engine.Agrees.of {f : Engine} (h : e.Agrees T) (hs : f.scenes = e.scenes) (hq : f.queue = e.queue)
    (hp : ∀ p : Fin 8, (f.players[p]).map (·.scene) = (e.players[p]).map (·.scene)) : f.Agrees T := by
  have key : ∀ (p : Fin 8) (sc : Fin 64), (∃ r, f.players[p] = some r ∧ r.scene = sc) ↔
      ∃ r, e.players[p] = some r ∧ r.scene = sc := by
    intro p sc
    rw [← Option.map_eq_some_iff, ← Option.map_eq_some_iff, hp]
  refine ⟨by rw [hs, hq]; exact h.pending, ?_, by rw [hs]; exact h.cooldown, by rw [hs]; exact h.again,
    by rw [hs]; exact h.resting, by rw [hq]; exact h.entries, ?_⟩
  · intro sc
    rw [hs, h.running sc]
    exact exists_congr fun p => (key p sc).symm
  · intro p q r x hr hx he
    obtain ⟨a, ha, ha'⟩ := (key p r.scene).1 ⟨r, hr, rfl⟩
    obtain ⟨b, hb, hb'⟩ := (key q x.scene).1 ⟨x, hx, rfl⟩
    exact h.players p q a b ha hb (by rw [ha', hb', he])

/-- A scene that neither waits nor runs takes another such state. -/
theorem Engine.Agrees.rest (h : e.Agrees T) (sc : Fin 64) (x : SceneRun)
    (hp : (e.scenes[sc]).state ≠ .pending) (hr : (e.scenes[sc]).state ≠ .running)
    (xp : x.state ≠ .pending) (xr : x.state ≠ .running) (xc : x.state ≠ .cooldown → x.cooldown = 0)
    (xa : x.again = false) : Engine.Agrees { e with scenes := e.scenes.set sc x } fun c => T c ∧ sc ≠ c := by
  refine ⟨?_, ?_, ?_, ?_, ?_, h.entries, h.players⟩
  all_goals
    intro c
    simp only [Vector.getElem_setFin]
    by_cases k : sc = c
  · subst k
    simp only [if_true]
    exact ⟨fun y => absurd y xp, fun y => absurd ((h.pending sc).2 y) hp⟩
  · rw [if_neg k]; exact h.pending c
  · subst k
    simp only [if_true]
    exact ⟨fun y => absurd y xr, fun y => absurd ((h.running sc).2 y) hr⟩
  · rw [if_neg k]; exact h.running c
  · subst k
    simpa only [if_true] using xc
  · rw [if_neg k]; exact h.cooldown c
  · subst k
    simpa only [if_true] using fun _ _ => xa
  · rw [if_neg k]
    exact fun n => h.again c fun t => n ⟨t, k⟩
  · subst k
    exact fun n => absurd rfl n.2
  · rw [if_neg k]
    exact fun n => h.resting c n.1

/-- R57: a player stops, and its scene leaves RUNNING. -/
theorem Engine.Agrees.halt (h : e.Agrees T) {p : Fin 8} {r : Run} (hr : e.players[p] = some r)
    (claims : Claims) :
    Engine.Agrees
      { e with
        scenes := e.scenes.set r.scene { e.scenes[r.scene] with state := .ready, cooldown := 0 }
        players := lowerOrders e.players p r.order
        claims := claims }
      fun c => T c ∨ r.scene = c := by
  have run : (e.scenes[r.scene]).state = .running := (h.running _).2 ⟨p, r, hr, rfl⟩
  have get : ∀ (q : Fin 8) (y : Run), (lowerOrders e.players p r.order)[q] = some y →
      q ≠ p ∧ ∃ x, e.players[q] = some x ∧ x.scene = y.scene := by
    intro q y hy
    simp only [lowerOrders, Fin.getElem_fin, Vector.getElem_ofFn] at hy
    split at hy
    · cases hy
    · next hne =>
      rw [Option.map_eq_some_iff] at hy
      obtain ⟨x, hx, rfl⟩ := hy
      exact ⟨hne, x, hx, by split <;> rfl⟩
  refine ⟨?_, ?_, ?_, ?_, ?_, h.entries, ?_⟩
  · intro c
    simp only [Vector.getElem_setFin]
    by_cases k : r.scene = c
    · subst k
      rw [if_pos rfl]
      refine ⟨nofun, fun y => ?_⟩
      have := (h.pending r.scene).2 y
      rw [run] at this; cases this
    · rw [if_neg k]; exact h.pending c
  · intro c
    simp only [Vector.getElem_setFin]
    by_cases k : r.scene = c
    · subst k
      rw [if_pos rfl]
      refine ⟨nofun, ?_⟩
      rintro ⟨q, y, hy, e1⟩
      obtain ⟨hne, x, hx, e2⟩ := get q y hy
      exact absurd (h.players q p x r hx hr (e2.trans e1)) hne
    · rw [if_neg k, h.running c]
      constructor
      · rintro ⟨q, y, hy, rfl⟩
        have hne : q ≠ p := by
          rintro rfl
          rw [hr] at hy; cases hy; exact k rfl
        refine ⟨q, if r.order < y.order then { y with order := y.order - 1 } else y, ?_, by split <;> rfl⟩
        have e : (lowerOrders e.players p r.order)[q] =
            if q = p then none else (e.players[q]).map fun y => if r.order < y.order then { y with order := y.order - 1 } else y := by
          simp [lowerOrders]
        rw [e, if_neg hne, hy]; rfl
      · rintro ⟨q, y, hy, rfl⟩
        obtain ⟨-, x, hx, e2⟩ := get q y hy
        exact ⟨q, x, hx, e2⟩
  · intro c
    simp only [Vector.getElem_setFin]
    by_cases k : r.scene = c
    · rw [if_pos k]; exact fun _ => rfl
    · rw [if_neg k]; exact h.cooldown c
  · intro c n
    simp only [Vector.getElem_setFin]
    rw [if_neg fun k => n (.inr k)]
    exact h.again c fun t => n (.inl t)
  · intro c n
    simp only [Vector.getElem_setFin]
    by_cases k : r.scene = c
    · rw [if_pos k]
    · rw [if_neg k]
      exact h.resting c (n.resolve_right k)
  · intro q q' y y' hy hy' e1
    obtain ⟨-, x, hx, e2⟩ := get q y hy
    obtain ⟨-, x', hx', e2'⟩ := get q' y' hy'
    exact h.players q q' x x' hx hx' (by rw [e2, e2', e1])

/-- R70: a READY scene starts on a FREE player. -/
theorem Engine.Agrees.start (h : e.Agrees T) {p : Fin 8} (hp : e.players[p] = none) {sc : Fin 64}
    (hs : (e.scenes[sc]).state = .ready) (ht : ¬ T sc) (r : Run) (hr : r.scene = sc) (claims : Claims) :
    Engine.Agrees
      { e with scenes := e.scenes.set sc ⟨.running, 0, false, none⟩, players := e.players.set p (some r),
               claims := claims } T := by
  have get : ∀ (q : Fin 8) (y : Run), (e.players.set p (some r))[q] = some y →
      (q = p ∧ y = r) ∨ (q ≠ p ∧ e.players[q] = some y) := by
    intro q y hy
    rw [Vector.getElem_setFin] at hy
    split at hy
    · next k => exact .inl ⟨k.symm, by cases hy; rfl⟩
    · next k => exact .inr ⟨fun e => k e.symm, hy⟩
  have free : ∀ (q : Fin 8) (y : Run), e.players[q] = some y → y.scene ≠ sc := by
    rintro q y hy e1
    have := (h.running sc).2 ⟨q, y, hy, e1⟩
    rw [hs] at this; cases this
  refine ⟨?_, ?_, ?_, ?_, ?_, h.entries, ?_⟩
  · intro c
    simp only [Vector.getElem_setFin]
    by_cases k : sc = c
    · subst k
      rw [if_pos rfl]
      refine ⟨nofun, fun y => ?_⟩
      have := (h.pending sc).2 y
      rw [hs] at this; cases this
    · rw [if_neg k]; exact h.pending c
  · intro c
    simp only [Vector.getElem_setFin]
    by_cases k : sc = c
    · subst k
      rw [if_pos rfl]
      exact ⟨fun _ => ⟨p, r, by rw [if_pos rfl], hr⟩, fun _ => rfl⟩
    · rw [if_neg k, h.running c]
      constructor
      · rintro ⟨q, y, hy, e1⟩
        refine ⟨q, y, ?_, e1⟩
        rw [if_neg, hy]
        rintro rfl
        rw [hp] at hy; cases hy
      · rintro ⟨q, y, hy, e1⟩
        rw [← Vector.getElem_setFin] at hy
        rcases get q y hy with ⟨-, rfl⟩ | ⟨-, hy⟩
        · exact absurd (hr.symm.trans e1) k
        · exact ⟨q, y, hy, e1⟩
  · intro c
    simp only [Vector.getElem_setFin]
    by_cases k : sc = c
    · rw [if_pos k]; exact fun _ => rfl
    · rw [if_neg k]; exact h.cooldown c
  · intro c
    simp only [Vector.getElem_setFin]
    by_cases k : sc = c
    · rw [if_pos k]; exact fun _ _ => rfl
    · rw [if_neg k]; exact h.again c
  · intro c n
    simp only [Vector.getElem_setFin]
    rw [if_neg (by rintro rfl; exact ht n)]
    exact h.resting c n
  · intro q q' y y' hy hy' e1
    rcases get q y hy with ⟨e2, e3⟩ | ⟨-, k⟩ <;> rcases get q' y' hy' with ⟨e2', e3'⟩ | ⟨-, k'⟩
    · exact e2.trans e2'.symm
    · exact absurd (e1.symm.trans (e3 ▸ hr)) (free _ _ k')
    · exact absurd (e1.trans (e3' ▸ hr)) (free _ _ k)
    · exact h.players q q' y y' k k' e1

theorem insertEntry_perm (x : Entry) (q : List Entry) : (insertEntry x q).Perm (x :: q) := by
  induction q with
  | nil => exact .refl _
  | cons y rest ih =>
    unfold insertEntry
    split
    · exact (ih.cons y).trans (.swap ..)
    · exact .refl _

/-- R29: a READY scene enters the queue. -/
theorem Engine.Agrees.enqueue (h : e.Agrees T) {x : Entry} (hs : (e.scenes[x.scene]).state = .ready)
    (ht : ¬ T x.scene) (n : Nat) :
    Engine.Agrees
      { e with queue := insertEntry x e.queue, arrivals := n,
               scenes := e.scenes.set x.scene ⟨.pending, 0, false, none⟩ } T := by
  have mem : ∀ y, y ∈ insertEntry x e.queue ↔ y = x ∨ y ∈ e.queue := fun y => by
    rw [(insertEntry_perm x e.queue).mem_iff, List.mem_cons]
  refine ⟨?_, ?_, ?_, ?_, ?_, ?_, h.players⟩
  · intro c
    simp only [Vector.getElem_setFin, mem]
    by_cases k : x.scene = c
    · rw [if_pos k]
      exact ⟨fun _ => ⟨x, .inl rfl, k⟩, fun _ => rfl⟩
    · rw [if_neg k, h.pending c]
      constructor
      · rintro ⟨y, hy, e1⟩; exact ⟨y, .inr hy, e1⟩
      · rintro ⟨y, rfl | hy, e1⟩
        · exact absurd e1 k
        · exact ⟨y, hy, e1⟩
  · intro c
    simp only [Vector.getElem_setFin]
    by_cases k : x.scene = c
    · subst k
      rw [if_pos rfl]
      refine ⟨nofun, fun y => ?_⟩
      have := (h.running _).2 y
      rw [hs] at this; cases this
    · rw [if_neg k]; exact h.running c
  · intro c
    simp only [Vector.getElem_setFin]
    by_cases k : x.scene = c
    · rw [if_pos k]; exact fun _ => rfl
    · rw [if_neg k]; exact h.cooldown c
  · intro c
    simp only [Vector.getElem_setFin]
    by_cases k : x.scene = c
    · rw [if_pos k]; exact fun _ _ => rfl
    · rw [if_neg k]; exact h.again c
  · intro c n
    simp only [Vector.getElem_setFin]
    rw [if_neg (by rintro rfl; exact ht n)]
    exact h.resting c n
  · refine ((insertEntry_perm x e.queue).pairwise_iff fun hab => Ne.symm hab).2 (.cons ?_ h.entries)
    intro y hy e1
    have := (h.pending x.scene).2 ⟨y, hy, e1.symm⟩
    rw [hs] at this; cases this

/-- R29: the entry of a scene leaves the queue, and the scene is READY. -/
theorem Engine.Agrees.drop (h : e.Agrees T) {x : Entry} (hx : x ∈ e.queue) {queue : List Entry}
    (hq : queue.Sublist e.queue) (mem : ∀ y ∈ e.queue, y ∈ queue ↔ y.scene ≠ x.scene) :
    Engine.Agrees
      { e with queue := queue, scenes := e.scenes.set x.scene ⟨.ready, 0, false, none⟩ } T := by
  have wait : (e.scenes[x.scene]).state = .pending := (h.pending _).2 ⟨x, hx, rfl⟩
  refine ⟨?_, ?_, ?_, ?_, ?_, h.entries.sublist hq, h.players⟩
  · intro c
    simp only [Vector.getElem_setFin]
    by_cases k : x.scene = c
    · rw [if_pos k]
      refine ⟨nofun, ?_⟩
      rintro ⟨y, hy, e1⟩
      exact absurd (e1.trans k.symm) ((mem y (hq.subset hy)).1 hy)
    · rw [if_neg k, h.pending c]
      constructor
      · rintro ⟨y, hy, e1⟩
        exact ⟨y, (mem y hy).2 fun e2 => k (e2.symm.trans e1), e1⟩
      · rintro ⟨y, hy, e1⟩
        exact ⟨y, hq.subset hy, e1⟩
  · intro c
    simp only [Vector.getElem_setFin]
    by_cases k : x.scene = c
    · subst k
      rw [if_pos rfl]
      refine ⟨nofun, fun y => ?_⟩
      have := (h.running _).2 y
      rw [wait] at this; cases this
    · rw [if_neg k]; exact h.running c
  · intro c
    simp only [Vector.getElem_setFin]
    by_cases k : x.scene = c
    · rw [if_pos k]; exact fun _ => rfl
    · rw [if_neg k]; exact h.cooldown c
  · intro c
    simp only [Vector.getElem_setFin]
    by_cases k : x.scene = c
    · rw [if_pos k]; exact fun _ _ => rfl
    · rw [if_neg k]; exact h.again c
  · intro c n
    simp only [Vector.getElem_setFin]
    by_cases k : x.scene = c
    · rw [if_pos k]
    · rw [if_neg k]; exact h.resting c n

/-! ### Stops and starts -/

/-- A scene rests: READY or in COOLDOWN (R34). -/
theorem State.sceneRests_agrees {s : State} {T : Fin 64 → Prop} (h : s.engine.Agrees T) (sc : Fin 64)
    (hs : (s.engine.scenes[sc]).state = .ready) :
    (s.sceneRests sc).engine.Agrees fun c => T c ∧ sc ≠ c := by
  unfold State.sceneRests
  dsimp only
  split
  · exact h.rest sc ⟨.ready, 0, false, none⟩ (by rw [hs]; nofun) (by rw [hs]; nofun) nofun nofun (fun _ => rfl) rfl
  · exact h.rest sc ⟨.cooldown, _, false, s.frame⟩ (by rw [hs]; nofun) (by rw [hs]; nofun) nofun nofun (fun k => absurd rfl k) rfl

theorem State.sceneReady_agrees {s : State} {T : Fin 64 → Prop} (h : s.engine.Agrees T) (sc : Fin 64)
    (hs : (s.engine.scenes[sc]).state = .ready) :
    (s.sceneTo sc .ready).engine.Agrees (fun c => T c ∧ sc ≠ c) ∧ ((s.sceneTo sc .ready).engine.scenes[sc]).state = .ready :=
  ⟨h.rest sc ⟨.ready, 0, false, none⟩ (by rw [hs]; nofun) (by rw [hs]; nofun) nofun nofun (fun _ => rfl) rfl,
   by simp⟩

@[simp] theorem State.returnGroups_engine (s : State) (released : List (Fin 16)) :
    (s.returnGroups released).engine = s.engine := by
  unfold State.returnGroups; split <;> rfl

/-- What an event has stopped so far: the scenes that it has ended are those in transit besides `T`, each once. -/
structure Noted (T : Fin 64 → Prop) (s : State) (ended : List (Fin 64 × StopReason)) : Prop where
  agrees : s.engine.Agrees fun c => T c ∨ ∃ y ∈ ended, y.1 = c
  once : (ended.map (·.1)).Nodup
  apart : ∀ y ∈ ended, ¬ T y.1

theorem State.halt_engine (s : State) (p : Fin 8) (reason : StopReason) {r : Run} (hr : s.engine.players[p] = some r) :
    (s.halt p reason).engine =
      { s.engine with
        scenes := s.engine.scenes.set r.scene { s.engine.scenes[r.scene] with state := .ready, cooldown := 0 }
        players := lowerOrders s.engine.players p r.order
        claims := s.engine.claims.release p } := by
  unfold State.halt
  rw [hr]
  rfl

theorem Noted.halt {T : Fin 64 → Prop} {s : State} {n : Released} (h : Noted T s n.ended) (p : Fin 8)
    (reason : StopReason) : Noted T (s.haltNoting n p reason).1 (s.haltNoting n p reason).2.ended := by
  unfold State.haltNoting
  split
  · exact h
  · next r hr =>
    have run : (s.engine.scenes[r.scene]).state = .running := (h.agrees.running _).2 ⟨p, r, hr, rfl⟩
    have out : ¬ (T r.scene ∨ ∃ y ∈ n.ended, y.1 = r.scene) := fun k => by
      have := h.agrees.resting _ k
      rw [run] at this; cases this
    refine ⟨?_, ?_, ?_⟩
    · rw [State.halt_engine s p reason hr]
      refine (h.agrees.halt hr _).congr fun c => ?_
      simp only [List.mem_append, List.mem_singleton]
      constructor
      · rintro ((k | ⟨y, hy, k⟩) | k)
        · exact .inl k
        · exact .inr ⟨y, .inl hy, k⟩
        · exact .inr ⟨_, .inr rfl, k⟩
      · rintro (k | ⟨y, hy | rfl, k⟩)
        · exact .inl (.inl k)
        · exact .inl (.inr ⟨y, hy, k⟩)
        · exact .inr k
    · rw [List.map_append, List.nodup_append]
      refine ⟨h.once, by simp, fun a ha b hb e => out (.inr ?_)⟩
      rw [List.mem_map] at ha
      obtain ⟨y, hy, rfl⟩ := ha
      simp only [List.map_cons, List.map_nil, List.mem_singleton] at hb
      exact ⟨y, hy, e.trans hb⟩
    · intro y hy
      rw [List.mem_append, List.mem_singleton] at hy
      rcases hy with hy | rfl
      · exact h.apart y hy
      · exact fun k => out (.inl k)

/-- A scene that does not run is left as it is by the stop of a player. -/
theorem Noted.halt_other {T : Fin 64 → Prop} {s : State} {n : Released} (h : Noted T s n.ended) (p : Fin 8)
    (reason : StopReason) {sc : Fin 64} (hs : (s.engine.scenes[sc]).state ≠ .running) :
    (s.haltNoting n p reason).1.engine.scenes[sc] = s.engine.scenes[sc]
    ∧ ((∀ y ∈ n.ended, y.1 ≠ sc) → ∀ y ∈ (s.haltNoting n p reason).2.ended, y.1 ≠ sc) := by
  unfold State.haltNoting
  split
  · exact ⟨rfl, id⟩
  · next r hr =>
    have run : (s.engine.scenes[r.scene]).state = .running := (h.agrees.running _).2 ⟨p, r, hr, rfl⟩
    have k : r.scene ≠ sc := fun e => hs (e ▸ run)
    refine ⟨?_, fun a y hy => ?_⟩
    · rw [State.halt_engine s p reason hr, Vector.getElem_setFin, if_neg k]
    · rw [List.mem_append, List.mem_singleton] at hy
      rcases hy with hy | rfl
      · exact a y hy
      · exact k

/-- R70: a start, with the stops that make room for it. -/
theorem State.start_noted {s : State} {T : Fin 64 → Prop} (h : s.engine.Agrees T) {sc : Fin 64} (src : Source)
    (hs : (s.engine.scenes[sc]).state = .ready) (ht : ¬ T sc) :
    Noted T (s.start sc src).1 (s.start sc src).2.ended := by
  unfold State.start
  dsimp only
  generalize (if (s.store.tables.scene sc).narration = true then s.chooseVoice (s.store.tables.scene sc).priority
    else none) = voice
  have key : ∀ (l : List (Fin 8)) (x : State × Released), Noted T x.1 x.2.ended →
      (x.1.engine.scenes[sc]).state = .ready → (∀ y ∈ x.2.ended, y.1 ≠ sc) →
      let z := l.foldl (fun (x : State × Released) p => x.1.haltNoting x.2 p .preempted) x
      Noted T z.1 z.2.ended ∧ (z.1.engine.scenes[sc]).state = .ready ∧ ∀ y ∈ z.2.ended, y.1 ≠ sc := by
    intro l
    induction l with
    | nil => exact fun x a b c => ⟨a, b, c⟩
    | cons p l ih =>
      intro x a b c
      have k := a.halt_other p .preempted (sc := sc) (by rw [b]; nofun)
      exact ih _ (a.halt p .preempted) (by rw [k.1]; exact b) (k.2 c)
  obtain ⟨a, b, c⟩ := key (s.preempted sc voice) (s, ⟨[], []⟩)
    ⟨h.congr fun c => by simp, .nil, nofun⟩ hs nofun
  split
  · exact a
  · next p hp =>
    have started : Noted T (State.startOn _ sc src voice p) _ :=
      ⟨a.agrees.start (Engine.firstFree_free hp) b (by
        rintro (k | ⟨y, hy, k⟩)
        · exact ht k
        · exact c y hy k) _ rfl _, a.once, a.apart⟩
    split
    · exact Noted.halt (n := Prod.snd _) started p .estop
    · exact started

/-! ### Scene ends and admission -/

/-- What an admission does to the scenes' states: they stay in step, and a scene that is dropped is READY. -/
def Admitted (T : Fin 64 → Prop) (sc : Fin 64) (x : State × TriggerOutcome) : Prop :=
  x.1.engine.Agrees T
  ∧ (x.2 = .started ∨ x.2 = .pending ∨ x.2 = .dropped ∧ (x.1.engine.scenes[sc]).state = .ready)

theorem State.endScene_agrees {again : State → Fin 64 → State × TriggerOutcome}
    (ha : ∀ (s : State) (sc : Fin 64) (T : Fin 64 → Prop), s.engine.Agrees T → (s.engine.scenes[sc]).state = .ready → ¬ T sc →
      Admitted T sc (again s sc))
    {s : State} {T : Fin 64 → Prop} (h : s.engine.Agrees T) {sc : Fin 64} (ht : T sc) (reason : StopReason) :
    (s.endScene again sc reason).engine.Agrees fun c => T c ∧ sc ≠ c := by
  have k := State.sceneReady_agrees h sc (h.resting sc ht)
  unfold State.endScene
  dsimp only
  split
  · have a := ha _ sc _ k.1 k.2 fun x => x.2 rfl
    split
    · next e => rw [e] at a; exact a.1
    · next e => rw [e] at a; exact a.1
    · next t o n1 n2 e =>
      rw [e] at a
      obtain ⟨a1, rfl | rfl | ⟨-, a2⟩⟩ := a
      · exact (n1 rfl).elim
      · exact (n2 rfl).elim
      · exact (State.sceneRests_agrees a1 sc a2).congr fun c => ⟨fun y => y.1, fun y => ⟨y, y.2⟩⟩
  · exact (State.sceneRests_agrees k.1 sc k.2).congr fun c => ⟨fun y => y.1, fun y => ⟨y, y.2⟩⟩

theorem Noted.tail {T : Fin 64 → Prop} {s t : State} {y : Fin 64 × StopReason} {rest : List (Fin 64 × StopReason)}
    (h : Noted T s (y :: rest))
    (k : t.engine.Agrees fun c => (T c ∨ ∃ z ∈ y :: rest, z.1 = c) ∧ y.1 ≠ c) : Noted T t rest := by
  have once := h.once
  rw [List.map_cons, List.nodup_cons] at once
  refine ⟨k.congr fun c => ?_, once.2, fun z hz => h.apart z (List.mem_cons_of_mem _ hz)⟩
  constructor
  · rintro ⟨a | ⟨z, hz, a⟩, b⟩
    · exact .inl a
    · rcases List.mem_cons.1 hz with rfl | hz
      · exact absurd a b
      · exact .inr ⟨z, hz, a⟩
  · rintro (a | ⟨z, hz, a⟩)
    · exact ⟨.inl a, fun e => h.apart y (List.mem_cons_self ..) (e ▸ a)⟩
    · refine ⟨.inr ⟨z, List.mem_cons_of_mem _ hz, a⟩, fun e => once.1 ?_⟩
      rw [e, ← a]
      exact List.mem_map_of_mem hz

theorem Noted.ends {T : Fin 64 → Prop} (f : State → Fin 64 × StopReason → State)
    (hf : ∀ (s : State) (U : Fin 64 → Prop) (y : Fin 64 × StopReason), s.engine.Agrees U → U y.1 →
      (f s y).engine.Agrees fun c => U c ∧ y.1 ≠ c)
    (ended : List (Fin 64 × StopReason)) (s : State) (h : Noted T s ended) : (ended.foldl f s).engine.Agrees T := by
  induction ended generalizing s with
  | nil => exact h.agrees.congr fun c => by simp
  | cons y rest ih => exact ih _ (h.tail (hf s _ y h.agrees (.inr ⟨y, List.mem_cons_self .., rfl⟩)))

theorem State.offer_admitted {s : State} {T : Fin 64 → Prop} (h : s.engine.Agrees T) {sc : Fin 64} (src : Source)
    (hs : (s.engine.scenes[sc]).state = .ready) (ht : ¬ T sc) : Admitted T sc (s.offer sc src) := by
  unfold State.offer
  dsimp only
  split
  · exact ⟨h, .inr (.inr ⟨rfl, hs⟩)⟩
  · split
    · exact ⟨h.enqueue (x := ⟨sc, _, src, _, _, s.frame⟩) hs ht _, .inr (.inl rfl)⟩
    · split
      · next last hl =>
        split
        · have hm : last ∈ s.engine.queue := List.mem_of_getLast? hl
          have ne : last.scene ≠ sc := fun e => by
            have := (h.pending sc).2 ⟨last, hm, e⟩
            rw [hs] at this; cases this
          have split : s.engine.queue = s.engine.queue.dropLast ++ [last] := by
            have hne : s.engine.queue ≠ [] := by rintro e; rw [e] at hl; cases hl
            rw [List.getLast?_eq_some_getLast hne, Option.some.injEq] at hl
            rw [← hl]
            exact (List.dropLast_concat_getLast hne).symm
          have k := h.drop hm (List.dropLast_sublist _) (by
            intro y hy
            have pw := h.entries
            rw [split] at pw hy
            rw [List.pairwise_append] at pw
            constructor
            · exact fun k => pw.2.2 y k last (List.mem_singleton.2 rfl)
            · intro k
              rcases List.mem_append.1 hy with hy | hy
              · exact hy
              · rw [List.mem_singleton.1 hy] at k; exact absurd rfl k)
          refine ⟨Engine.Agrees.enqueue (x := ⟨sc, _, src, _, _, s.frame⟩) k ?_ ht _, .inr (.inl rfl)⟩
          show ((s.engine.scenes.set last.scene ⟨.ready, 0, false, none⟩)[sc]).state = .ready
          rw [Vector.getElem_setFin, if_neg ne, hs]
        · exact ⟨h, .inr (.inr ⟨rfl, hs⟩)⟩
      · exact ⟨h, .inr (.inr ⟨rfl, hs⟩)⟩

theorem State.admission_admitted (fuel : Nat) {s : State} {sc : Fin 64} (src : Source) (released : List (Fin 16))
    {T : Fin 64 → Prop} (h : s.engine.Agrees T) (hs : (s.engine.scenes[sc]).state = .ready) (ht : ¬ T sc) :
    Admitted T sc ((s.admission fuel sc src released).1, (s.admission fuel sc src released).2.1) := by
  induction fuel generalizing s sc src released T with
  | zero =>
    rw [State.admission]
    split
    · refine ⟨?_, .inl rfl⟩
      rw [State.returnGroups_engine]
      exact Noted.ends _ (fun s U y a b => State.sceneRests_agrees a y.1 (a.resting _ b)) _ _ (State.start_noted h src hs ht)
    · have k := State.offer_admitted h src hs ht
      exact ⟨by rw [State.returnGroups_engine]; exact k.1, by rw [State.returnGroups_engine]; exact k.2⟩
  | succ n ih =>
    rw [State.admission]
    split
    · refine ⟨?_, .inl rfl⟩
      rw [State.returnGroups_engine]
      exact Noted.ends _ (fun s U y a b => State.endScene_agrees (fun s sc T h hs ht => ih .again [] h hs ht) a b y.2) _ _
        (State.start_noted h src hs ht)
    · have k := State.offer_admitted h src hs ht
      exact ⟨by rw [State.returnGroups_engine]; exact k.1, by rw [State.returnGroups_engine]; exact k.2⟩

/-- No scene is in transit. -/
def settled : Fin 64 → Prop := fun _ => False

theorem State.stopPlayer_agrees {s : State} (h : s.engine.Agrees settled) (p : Fin 8) (reason : StopReason) :
    (s.stopPlayer p reason).engine.Agrees settled := by
  unfold State.stopPlayer
  split
  · exact h
  · next r hr =>
    rw [State.returnGroups_engine]
    have k := h.halt hr (s.engine.claims.release p)
    rw [← State.halt_engine s p reason hr] at k
    exact (State.endScene_agrees (fun s sc T h hs ht => State.admission_admitted _ .again [] h hs ht) k (.inr rfl) reason).congr
      fun c => ⟨fun y => y.1.elim id fun e => y.2 e, fun y => y.elim⟩

theorem State.rescanFrom_agrees (n : Nat) {s : State} (h : s.engine.Agrees settled) (i : Nat) (any : Bool) :
    (s.rescanFrom n i any).engine.Agrees settled := by
  induction n generalizing s i any with
  | zero => exact h
  | succ n ih =>
    unfold State.rescanFrom
    split
    · split
      · exact ih h ..
      · exact h
    · next e he =>
      split
      · obtain ⟨hi, rfl⟩ := List.getElem?_eq_some_iff.1 he
        have nodup := h.entries
        refine ih (State.admission_admitted _ _ _ (h.drop (List.getElem_mem hi) (List.eraseIdx_sublist _ _) ?_) ?_ id).1 ..
        · intro y hy
          rw [List.mem_eraseIdx_iff_getElem]
          constructor
          · rintro ⟨j, hj, hne, rfl⟩
            rw [List.pairwise_iff_getElem] at nodup
            rcases Nat.lt_or_gt_of_ne hne with k | k
            · exact nodup _ _ hj hi k
            · exact fun e => nodup _ _ hi hj k e.symm
          · intro k
            obtain ⟨j, hj, rfl⟩ := List.getElem_of_mem hy
            exact ⟨j, hj, fun e => k (by subst e; rfl), rfl⟩
        · exact (congrArg SceneRun.state ((Vector.getElem_setFin ..).trans (if_pos rfl)))
      · exact ih h ..

theorem State.rescan_agrees {s : State} (h : s.engine.Agrees settled) : s.rescan.engine.Agrees settled := by
  unfold State.rescan
  split
  · exact State.rescanFrom_agrees _ h ..
  · exact h

theorem State.stopAndRescan_agrees {s : State} (h : s.engine.Agrees settled) (p : Fin 8) (reason : StopReason) :
    (s.stopAndRescan p reason).engine.Agrees settled := by
  unfold State.stopAndRescan
  split
  · exact h
  · exact State.rescan_agrees (State.stopPlayer_agrees h ..)

theorem Engine.holder_holds {e : Engine} {sc : Fin 64} {p : Fin 8} (h : e.holder sc = some p) :
    ∃ r, e.players[p] = some r ∧ r.scene = sc := by
  have := List.find?_some h
  rw [decide_eq_true_iff, Option.map_eq_some_iff] at this
  exact this

theorem State.restart_agrees {s : State} (h : s.engine.Agrees settled) {sc : Fin 64} (src : Source) {p : Fin 8}
    (hp : s.engine.holder sc = some p) : (s.restart sc src p).engine.Agrees settled := by
  obtain ⟨r, hr, rfl⟩ := Engine.holder_holds hp
  unfold State.restart
  dsimp only
  refine State.rescan_agrees ?_
  have k := h.halt hr (s.engine.claims.release p)
  rw [← State.halt_engine s p .restarted hr] at k
  have k2 := State.sceneReady_agrees k r.scene (k.resting _ (.inr rfl))
  have k3 : ((s.halt p .restarted).sceneTo r.scene .ready).engine.Agrees settled :=
    k2.1.congr fun c => ⟨fun y => y.1.elim id fun e => y.2 e, fun y => y.elim⟩
  have a := State.admission_admitted admissionFuel src (s.engine.groupsOf p) k3 k2.2 id
  obtain ⟨a1, a2⟩ := a
  dsimp only at a1 a2
  split
  · next e =>
    rw [e] at a2
    obtain a2 | a2 | ⟨-, a2⟩ := a2
    · cases a2
    · cases a2
    · exact (State.sceneRests_agrees a1 _ a2).congr fun c => ⟨fun y => y.1, fun y => y.elim⟩
  · exact a1

theorem State.trigger_agrees {s : State} (h : s.engine.Agrees settled) (sc : Fin 64) (src : Source) :
    (s.trigger sc src).1.engine.Agrees settled := by
  unfold State.trigger
  dsimp only
  split
  · exact h
  · split
    · exact h
    · split
      · next run =>
        split
        · exact h
        · split
          · exact h
          · have hm : ∀ c, (Vector.set s.engine.scenes sc { s.engine.scenes[sc] with again := true })[(c : Fin 64)]
                = if sc = c then { s.engine.scenes[sc] with again := true } else s.engine.scenes[c] :=
              fun c => Vector.getElem_setFin ..
            refine ⟨fun c => ?_, fun c => ?_, fun c => ?_, fun c => ?_, nofun, h.entries, h.players⟩
            all_goals
              simp only [State.setScene, hm]
              by_cases k : sc = c
            · subst k; rw [if_pos rfl]; exact h.pending sc
            · rw [if_neg k]; exact h.pending c
            · subst k; rw [if_pos rfl]; exact h.running sc
            · rw [if_neg k]; exact h.running c
            · subst k; rw [if_pos rfl]; exact h.cooldown sc
            · rw [if_neg k]; exact h.cooldown c
            · subst k; rw [if_pos rfl]; exact fun _ n => absurd run n
            · rw [if_neg k]; exact h.again c
        · split
          · next p hp => exact State.restart_agrees h src hp
          · exact h
      · exact h
      · exact h
      · exact h
      · next ready =>
        have a := (State.admission_admitted admissionFuel src [] h ready id).1
        split
        · exact State.rescan_agrees a
        · exact a

/-- What every element of a fold keeps, the fold keeps. -/
theorem foldl_keeps {α β : Type} {P : α → Prop} (f : α → β → α) (hf : ∀ x b, P x → P (f x b)) (xs : List β) (x : α)
    (h : P x) : P (xs.foldl f x) := by
  induction xs generalizing x with
  | nil => exact h
  | cons b xs ih => exact ih _ (hf x b h)

theorem State.raiseTriggers_agrees {s : State} (h : s.engine.Agrees settled) (src : Source) :
    (s.raiseTriggers src).1.engine.Agrees settled := by
  unfold State.raiseTriggers
  split
  · refine foldl_keeps (β := Fin 64) (P := fun x : State × List TriggerOutcome => x.1.engine.Agrees settled) _
      (fun x sc a => ?_) _ (s, []) h
    dsimp only
    split
    · exact State.trigger_agrees a ..
    · exact a
  · exact h

theorem State.dropEntry_agrees {s : State} {T : Fin 64 → Prop} (h : s.engine.Agrees T) {x : Entry}
    (hx : x ∈ s.engine.queue) (reason : DropReason) : (s.dropEntry x reason).engine.Agrees T :=
  h.drop hx List.filter_sublist fun y hy => by
    refine List.mem_filter.trans ?_
    rw [decide_eq_true_iff]
    exact ⟨fun k => k.2, fun k => ⟨hy, k⟩⟩

/-! ### Cues, counts and the end of a show -/

/-- The scenes, the queue and who holds which scene are as they were. -/
structure SameScenes (s t : State) : Prop where
  scenes : t.engine.scenes = s.engine.scenes
  queue : t.engine.queue = s.engine.queue
  held : ∀ p : Fin 8, (t.engine.players[p]).map (·.scene) = (s.engine.players[p]).map (·.scene)

theorem SameScenes.rfl {s : State} : SameScenes s s := ⟨Eq.refl _, Eq.refl _, fun _ => Eq.refl _⟩

theorem SameScenes.trans {s t u : State} (h : SameScenes s t) (k : SameScenes t u) : SameScenes s u :=
  ⟨k.scenes.trans h.scenes, k.queue.trans h.queue, fun p => (k.held p).trans (h.held p)⟩

theorem SameScenes.agrees {s t : State} (h : SameScenes s t) {T : Fin 64 → Prop} (k : s.engine.Agrees T) :
    t.engine.Agrees T := k.of h.scenes h.queue h.held

theorem SameScenes.of {s t : State} (h : t.engine = s.engine) : SameScenes s t := by
  refine ⟨?_, ?_, fun p => ?_⟩ <;> rw [h]

theorem SameScenes.player {s : State} {p : Fin 8} {r : Run} (h : s.engine.players[p] = some r) (q : Run)
    (hq : q.scene = r.scene) : SameScenes s (s.setPlayer p (some q)) := by
  refine ⟨Eq.refl _, Eq.refl _, fun k => ?_⟩
  have e : (s.setPlayer p (some q)).engine.players[k] = if p = k then some q else s.engine.players[k] :=
    Vector.getElem_setFin ..
  rw [e]
  split
  · next e => subst e; rw [h]; simp [hq]
  · exact Eq.refl _

/-- What the execution of a cue of a player that runs scene `sc` leaves: the scenes are as they were. -/
def CueEffect.Same (s : State) (p : Fin 8) (r : Run) : CueEffect → Prop
  | .goes t _ => SameScenes s t ∧ ∃ q, t.engine.players[p] = some q ∧ q.scene = r.scene
  | .awaits t _ => t = s
  | .blocks | .stops _ => True

theorem State.execCue_same {s : State} {p : Fin 8} {r : Run} (hp : s.engine.players[p] = some r) :
    CueEffect.Same s p r (s.execCue p r) := by
  have same (t : State) (n : Nat) (h : t.engine = s.engine) : CueEffect.Same s p r (.goes t n) :=
    ⟨.of h, r, by rw [h]; exact hp, rfl⟩
  have loops (l : List LoopEntry) (n : Nat) : CueEffect.Same s p r (.goes (s.setLoops p r l) n) :=
    ⟨.player hp _ rfl, { r with loops := l }, by simp [State.setLoops], rfl⟩
  have awaits (cond : AwaitCond) (operand : Byte) (timeout : Nat) (target : Fin 2048) :
      CueEffect.Same s p r (s.cueAwait p r cond operand timeout target) := by
    unfold State.cueAwait
    cases cond <;> dsimp only <;> split <;> (try trivial) <;> split <;>
      first
        | exact same _ _ (by rfl)
        | trivial
  unfold State.execCue
  dsimp only
  split
  · exact same _ _ (by rfl)
  · exact same _ _ (by split <;> rfl)
  · exact same _ _ (by split <;> rfl)
  · split
    · exact same _ _ (by rfl)
    · split
      · exact same _ _ (by rfl)
      · trivial
  · split
    · exact same _ _ (by rfl)
    · exact same _ _ (by rfl)
  · split
    · unfold State.cueMove
      dsimp only
      split <;> (try trivial) <;> split <;> first | trivial | exact same _ _ (by rfl)
    · trivial
  · split
    · unfold State.cueHome
      split <;> (try trivial) <;> split <;> first | trivial | exact same _ _ (by rfl)
    · trivial
  · exact awaits ..
  · split
    · exact loops _ _
    · trivial
  · unfold State.cueNext
    split
    · trivial
    · split
      · exact loops _ _
      · split
        · exact same _ _ (by rfl)
        · exact loops _ _
  · exact same _ _ (by rfl)
  · exact same _ _ (by rfl)
  · exact same _ _ (by rfl)
  · trivial

theorem State.runCues_same (n : Nat) (s : State) (p : Fin 8) : SameScenes s (s.runCues n p).1 := by
  induction n generalizing s with
  | zero => exact .rfl
  | succ n ih =>
    unfold State.runCues
    split
    · exact .rfl
    · next r hp =>
      have k := State.execCue_same hp
      split
      · exact .rfl
      · exact .player hp _ rfl
      · next t a e =>
        rw [e] at k
        have k : t = s := k
        subst k
        exact .player hp _ rfl
      · next t target e =>
        rw [e] at k
        obtain ⟨ha, q, hq, hs⟩ := k
        dsimp only
        rw [hq, Option.getD_some]
        split
        · exact ha.trans (.player hq _ rfl)
        · split
          · refine SameScenes.trans ?_ (ih _)
            exact ha.trans (.player hq _ rfl)
          · exact ha.trans (.player hq _ rfl)

theorem State.leaveAwait_same {s : State} {p : Fin 8} {r : Run} (target : Nat) (hp : s.engine.players[p] = some r) :
    SameScenes s (s.leaveAwait p r target).1 := by
  unfold State.leaveAwait
  split
  · exact .rfl
  · dsimp only
    split
    · refine SameScenes.trans ?_ (State.runCues_same ..)
      exact .player hp _ rfl
    · exact .player hp _ rfl

theorem State.playerActs_same {s : State} {p : Fin 8} {r : Run} (hp : s.engine.players[p] = some r) :
    SameScenes s (s.playerActs p r).1 := by
  unfold State.playerActs
  split
  · split
    · refine SameScenes.trans ?_ (State.runCues_same ..)
      exact .player hp _ rfl
    · exact .player hp _ rfl
  · split
    · exact State.leaveAwait_same _ hp
    · exact .rfl
    · split
      · exact .rfl
      · split
        · exact State.leaveAwait_same _ hp
        · exact .player hp _ rfl
  · split
    · exact State.runCues_same ..
    · exact .rfl

/-- R43: the frame event of a player keeps the scenes' states in step. -/
theorem State.playerFrame_agrees {s : State} (h : s.engine.Agrees settled) (p : Fin 8) (f : Nat) :
    (s.playerFrame p f).engine.Agrees settled := by
  unfold State.playerFrame
  split
  · exact h
  · next r hp =>
    dsimp only
    have k := SameScenes.agrees (SameScenes.trans (SameScenes.player hp { r with executed := 0, frame := some f } rfl)
      (State.playerActs_same (p := p) (r := { r with executed := 0, frame := some f }) (by simp))) h
    split
    · exact k
    · exact State.stopAndRescan_agrees k ..

theorem Engine.press_agrees {e : Engine} {T : Fin 64 → Prop} (h : e.Agrees T) (b : Fin 16) : (e.press b).Agrees T := by
  refine h.of rfl rfl fun p => ?_
  have k : (e.press b).players[p] = (e.players[p]).map fun r => r.pressed b := by simp [Engine.press]
  rw [k, Option.map_map]
  refine Option.map_congr fun r _ => ?_
  show (r.pressed b).scene = r.scene
  unfold Run.pressed
  split
  · split <;> rfl
  · rfl
  · rfl

/-- R31: the patience counts keep the scenes' states in step. -/
theorem State.countPatience_agrees {s : State} (h : s.engine.Agrees settled) (f : Nat) :
    (s.countPatience f).engine.Agrees settled := by
  unfold State.countPatience
  split
  · have key : ∀ (l : List Entry) (t : State), t.engine.Agrees settled → (∀ x ∈ l, x ∈ t.engine.queue) →
        l.Pairwise (fun a b => a.scene ≠ b.scene) →
        (l.foldl (fun (t : State) e => t.dropEntry e .patience) t).engine.Agrees settled := by
      intro l
      induction l with
      | nil => exact fun _ a _ _ => a
      | cons x l ih =>
        intro t a b c
        rw [List.pairwise_cons] at c
        refine ih _ (State.dropEntry_agrees a (b x (List.mem_cons_self ..)) _) (fun y hy => ?_) c.2
        refine List.mem_filter.2 ⟨b y (List.mem_cons_of_mem _ hy), ?_⟩
        rw [decide_eq_true_iff]
        exact (c.1 y hy).symm
    have k := key (s.engine.queue.filter (·.expires f)) s h (fun x hx => (List.mem_filter.1 hx).1)
      (h.entries.sublist List.filter_sublist)
    generalize (s.engine.queue.filter (·.expires f)).foldl (fun (t : State) e => t.dropEntry e .patience) s = t at k ⊢
    have hsc : ∀ e : Entry, (if e.counts f = true then { e with patience := e.patience - 1 } else e).scene = e.scene := by
      intro e; split <;> rfl
    refine ⟨fun sc => ?_, k.running, k.cooldown, k.again, nofun, ?_, k.players⟩
    · refine (k.pending sc).trans ?_
      show _ ↔ ∃ x : Entry, x ∈ t.engine.queue.map _ ∧ x.scene = sc
      simp only [List.mem_map]
      constructor
      · rintro ⟨x, hx, rfl⟩; exact ⟨_, ⟨x, hx, rfl⟩, hsc x⟩
      · rintro ⟨_, ⟨x, hx, rfl⟩, e⟩; exact ⟨x, hx, (hsc x).symm.trans e⟩
    · show (t.engine.queue.map _).Pairwise _
      rw [List.pairwise_map]
      refine k.entries.imp fun hab => ?_
      rw [hsc, hsc]; exact hab
  · exact h

/-- R34: the cooldown counts keep the scenes' states in step. -/
theorem State.countCooldowns_agrees {s : State} (h : s.engine.Agrees settled) (f : Nat) :
    (s.countCooldowns f).engine.Agrees settled := by
  unfold State.countCooldowns
  split
  · exact h
  · have get : ∀ c : Fin 64, (Vector.ofFn fun (sc : Fin 64) => s.engine.scenes[sc].count f)[c] = (s.engine.scenes[c]).count f := by
      intro c; simp
    have kind : ∀ x : SceneRun, x.count f = x ∨ x.state = .cooldown ∧ (x.count f = ⟨.ready, 0, false, none⟩ ∨
        x.count f = { x with cooldown := x.cooldown - 1 }) := by
      intro x
      unfold SceneRun.count
      split
      · next k =>
        refine .inr ⟨?_, ?_⟩
        · unfold SceneRun.counts at k
          simp only [Bool.and_eq_true, decide_eq_true_eq] at k
          exact k.1
        · split
          · exact .inl rfl
          · exact .inr rfl
      · exact .inl rfl
    refine ⟨fun c => ?_, fun c => ?_, fun c => ?_, fun c => ?_, nofun, h.entries, h.players⟩
    all_goals
      simp only [get]
      rcases kind s.engine.scenes[c] with e | ⟨k, e | e⟩
    · rw [e]; exact h.pending c
    · rw [e]; exact ⟨nofun, fun y => by have := (h.pending c).2 y; rw [k] at this; cases this⟩
    · rw [e]; exact h.pending c
    · rw [e]; exact h.running c
    · rw [e]; exact ⟨nofun, fun y => by have := (h.running c).2 y; rw [k] at this; cases this⟩
    · rw [e]; exact h.running c
    · rw [e]; exact h.cooldown c
    · rw [e]; exact fun _ => rfl
    · rw [e]; exact fun y => absurd k y
    · rw [e]; exact h.again c
    · rw [e]; exact fun _ _ => rfl
    · rw [e]; exact h.again c

/-- R40, R63: no player runs, nothing waits and nothing is claimed by a player. -/
structure Engine.Idle (e : Engine) : Prop where
  players : ∀ p : Fin 8, e.players[p] = none
  queue : e.queue = []
  groups : ∀ (g : Fin 16) (p : Fin 8), e.claims.groups[g] ≠ .player p
  axes : ∀ a : Fin 8, e.claims.axes[a] = none
  voices : ∀ v : Fin 4, e.claims.voices[v] = none

/-- R21: with no player running and nothing waiting, scenes may take any state that is neither PENDING nor RUNNING. -/
theorem Engine.Idle.agrees {e : Engine} (h : e.Idle)
    (hs : ∀ sc : Fin 64, (e.scenes[sc]).state ≠ .pending ∧ (e.scenes[sc]).state ≠ .running
      ∧ ((e.scenes[sc]).state ≠ .cooldown → (e.scenes[sc]).cooldown = 0) ∧ (e.scenes[sc]).again = false) :
    e.Agrees settled := by
  refine ⟨fun sc => ⟨fun k => absurd k (hs sc).1, ?_⟩, fun sc => ⟨fun k => absurd k (hs sc).2.1, ?_⟩, fun sc => (hs sc).2.2.1,
    fun sc _ _ => (hs sc).2.2.2, nofun, by rw [h.queue]; exact .nil, fun p q r x hr => by rw [h.players] at hr; cases hr⟩
  · rw [h.queue]; rintro ⟨x, hx, -⟩; cases hx
  · rintro ⟨p, r, hr, -⟩; rw [h.players] at hr; cases hr

theorem Engine.Idle.scenes {e : Engine} (h : e.Idle) {T : Fin 64 → Prop} (k : e.Agrees T) (sc : Fin 64) :
    (e.scenes[sc]).state ≠ .pending ∧ (e.scenes[sc]).state ≠ .running := by
  constructor
  · intro y
    obtain ⟨x, hx, -⟩ := (k.pending sc).1 y
    rw [h.queue] at hx; cases hx
  · intro y
    obtain ⟨p, r, hr, -⟩ := (k.running sc).1 y
    rw [h.players] at hr; cases hr

/-- R21: a scene record written in STANDBY. -/
theorem Engine.Idle.rewritten {e : Engine} (h : e.Idle) (k : e.Agrees settled) (sc : Fin 64) (r : SceneRec) :
    Engine.Agrees { e with scenes := e.scenes.set sc ((e.scenes[sc]).rewritten r) } settled := by
  have n := h.scenes k sc
  refine (k.rest sc _ n.1 n.2 ?_ ?_ ?_ ?_).congr fun c => ⟨fun y => y.1, fun y => y.elim⟩
  all_goals
    unfold SceneRun.rewritten
    split
  · nofun
  · split
    · nofun
    · exact n.1
  · nofun
  · split
    · nofun
    · exact n.2
  · exact fun _ => rfl
  · split
    · exact fun _ => rfl
    · exact k.cooldown sc
  · rfl
  · split
    · rfl
    · exact k.again sc id n.2

end Sys2Proof.Machine
end

