-- ==== Sys2Proof/Laws/SoundKept.lean ====
section
/-! SUPPORT. What the operations of the Sound Engine keep: the bounds of its buffers, of the burst in flight (R124,
R125), of the fade stages and stall frames (R130, R131) and of the duck stages (R136). -/

namespace Sys2Proof.Machine

/-- R124, R125: the buffers and the burst in flight are within their bounds. R130, R131, R136: so are the stages and the
stall frames. -/
structure SoundBounds (x : Sound) : Prop where
  fill : ∀ n : Fin 8, x.fill n ≤ 320
  flight : ∀ (n : Fin 8) (a k : Nat), x.flight = some (.stream n a k false) → x.fill n ≤ 256 ∧ k ≤ 64
  voice : ∀ v : Fin 4, (x.voices[v]).fade ≤ 8 ∧ (x.voices[v]).stall ≤ 50
  bed : ∀ b : Fin 4, (x.beds[b]).stage ≤ 7

/-- The bounds stay where no buffer grows and no burst begins. -/
theorem SoundBounds.of_fill {x y : Sound} (h : SoundBounds x) (hf : ∀ n, y.fill n ≤ x.fill n)
   (hl : ∀ (n : Fin 8) (a k : Nat), y.flight = some (.stream n a k false) → x.flight = some (.stream n a k false))
   (hv : ∀ v : Fin 4, (y.voices[v]).fade ≤ 8 ∧ (y.voices[v]).stall ≤ 50)
    (hb : ∀ b : Fin 4, (y.beds[b]).stage ≤ 7) : SoundBounds y :=
  ⟨fun n => Nat.le_trans (hf n) (h.fill n), fun n a k e =>
    ⟨Nat.le_trans (hf n) (h.flight n a k (hl n a k e)).1, (h.flight n a k (hl n a k e)).2⟩, hv, hb⟩

/-- A voice's stream is filled as far as its buffer. -/
theorem Sound.fill_voice (x : Sound) (v : Fin 4) : x.fill (voiceStream v) = (x.voices[v]).feed.buffer.length := by
  have : (voiceStream v).val = v.val := by revert v; decide
  unfold Sound.fill; rw [dif_pos (by rw [this]; exact v.isLt)]; simp [this]
/-- A bed's stream is filled as far as its buffer. -/
theorem Sound.fill_bed (x : Sound) (v : Fin 4) : x.fill (bedStream v) = (x.beds[v]).feed.buffer.length := by
  have : (bedStream v).val = 4 + v.val := by revert v; decide
  unfold Sound.fill; rw [dif_neg (by omega)]; simp [this]
/-- A stream is a voice's or a bed's. -/
theorem stream_voice_or_bed (n : Fin 8) : (∃ v, n = voiceStream v) ∨ ∃ b, n = bedStream b := by revert n; decide

/-- No stream is filled further where no buffer grows. -/
theorem Sound.fill_le {x y : Sound} (hv : ∀ v : Fin 4, (y.voices[v]).feed.buffer.length ≤ (x.voices[v]).feed.buffer.length)
   (hb : ∀ v : Fin 4, (y.beds[v]).feed.buffer.length ≤ (x.beds[v]).feed.buffer.length) (n : Fin 8) : y.fill n ≤ x.fill n := by
  rcases stream_voice_or_bed n with ⟨v, rfl⟩ | ⟨b, rfl⟩
  · rw [Sound.fill_voice, Sound.fill_voice]; exact hv v
  · rw [Sound.fill_bed, Sound.fill_bed]; exact hb b

/-- What a voice may become in any event but a burst's end: its buffer does not grow, and its counts are in bounds. -/
def VoiceWithin (a b : Voice) : Prop := b.feed.buffer.length ≤ a.feed.buffer.length ∧ b.fade ≤ 8 ∧ b.stall ≤ 50
/-- What a bed may become in any event but a burst's end: its buffer does not grow, and its stage is in bounds. -/
def BedWithin (a b : Bed) : Prop := b.feed.buffer.length ≤ a.feed.buffer.length ∧ b.stage ≤ 7

/-- The bounds stay where each voice and bed stays within its own and no burst begins. -/
theorem SoundBounds.of_units {x y : Sound} (h : SoundBounds x)
    (hv : ∀ v : Fin 4, VoiceWithin (x.voices[v]) (y.voices[v])) (hb : ∀ b : Fin 4, BedWithin (x.beds[b]) (y.beds[b]))
   (hl : ∀ (n : Fin 8) (a k : Nat), y.flight = some (.stream n a k false) → x.flight = some (.stream n a k false)) : SoundBounds y :=
  h.of_fill (Sound.fill_le (fun v => (hv v).1) (fun b => (hb b).1)) hl (fun v => (hv v).2) (fun b => (hb b).2)

theorem SoundBounds.voice_self {x : Sound} (h : SoundBounds x) (v : Fin 4) :
    VoiceWithin (x.voices[v]) (x.voices[v]) :=
  ⟨Nat.le_refl _, h.voice v⟩

theorem SoundBounds.bed_self {x : Sound} (h : SoundBounds x) (v : Fin 4) : BedWithin (x.beds[v]) (x.beds[v]) :=
  ⟨Nat.le_refl _, h.bed v⟩

theorem VoiceWithin.fadeOut {a : Voice} (h : a.fade ≤ 8 ∧ a.stall ≤ 50) : VoiceWithin a a.fadeOut := by
  unfold Voice.fadeOut VoiceWithin; split <;> simp <;> omega

theorem VoiceWithin.drop {a : Voice} (h : a.fade ≤ 8 ∧ a.stall ≤ 50) : VoiceWithin a a.drop := by
  unfold Voice.drop VoiceWithin; simp [Feed.reset]; omega

theorem VoiceWithin.sample {a : Voice} (h : a.fade ≤ 8 ∧ a.stall ≤ 50) : VoiceWithin a a.sample.1 := by
  unfold Voice.sample VoiceWithin
  split
  · next e => dsimp only; split
              · split <;> simp_all
              · simp_all
  · simp_all
  · simp_all
/-- R130, R131: the count of a frame keeps the fade stages and the stall frames in bounds. -/
theorem VoiceWithin.count {a : Voice} (h : a.fade ≤ 8 ∧ a.stall ≤ 50) : VoiceWithin a a.count := by
  unfold Voice.count VoiceWithin
  split
  · next e => split
              · simp [Voice.drop, Feed.reset, Config.stallLimit]; omega
              · next hs => simp [Voice.stallEnds, Config.stallLimit, e] at hs; simp; omega
  · next e => split
              · simp [Voice.drop, Feed.reset, Config.fadeStages]; omega
              · next hs => simp [Voice.fadeEnds, Config.fadeStages, e] at hs; simp; omega
  all_goals exact ⟨Nat.le_refl _, h⟩

theorem BedWithin.sample {a : Bed} (h : a.stage ≤ 7) : BedWithin a a.sample.1 := by
  unfold Bed.sample BedWithin
  split
  · next e => dsimp only; split
              · split <;> simp_all
              · simp_all
  · simp_all
/-- R136: the duck envelope keeps its stage in bounds. -/
theorem BedWithin.envelope {a : Bed} (sp : Bool) (st : Nat) (h : a.stage ≤ 7) :
    BedWithin a (a.envelope sp st) := by
  have k : ∀ w : DuckDir, BedWithin a (if a.dir ≠ w then { a with dir := w, timer := 0 }
    else match a.dir with
    | .up =>
      if 7 ≤ a.stage then { a with timer := 0 }
      else if st ≤ a.timer + 1 then { a with stage := a.stage + 1, timer := 0 }
      else { a with timer := a.timer + 1 }
    | .down =>
      if a.stage = 0 then { a with timer := 0 }
      else if st ≤ a.timer + 1 then { a with stage := a.stage - 1, timer := 0 }
      else { a with timer := a.timer + 1 }) := by
    intro w
    split
    · exact ⟨Nat.le_refl _, h⟩
    · split
      · split
        · exact ⟨Nat.le_refl _, h⟩
        · split
          · refine ⟨Nat.le_refl _, ?_⟩; dsimp only; omega
          · exact ⟨Nat.le_refl _, h⟩
      · split
        · exact ⟨Nat.le_refl _, h⟩
        · split
          · refine ⟨Nat.le_refl _, ?_⟩; dsimp only; omega
          · exact ⟨Nat.le_refl _, h⟩
  exact k _

theorem BedWithin.begin {a : Bed} (t : Tables) (h : a.stage ≤ 7) : BedWithin a (a.begin t) := by
  unfold Bed.begin BedWithin; split <;> simp [Feed.start, Feed.reset] <;> exact h

theorem BedWithin.off {a : Bed} (h : a.stage ≤ 7) : BedWithin a a.off := by
  unfold Bed.off BedWithin;  simp [Feed.reset]; exact h

theorem BedWithin.set {a : Bed} (t : Tables) (o clip gain r) (h : a.stage ≤ 7) :
    BedWithin a (a.set t o clip gain r) := by
  unfold Bed.set
  dsimp only
  split
  · split
    · exact BedWithin.off (a := { a with clip := clip, gain := gain, duck := min (t.bed o).duck gain }) h
    · split
      · exact ⟨Nat.le_refl _, h⟩
      · exact BedWithin.begin (a := { a with clip := clip, gain := gain, duck := min (t.bed o).duck gain }) t h
  · exact ⟨Nat.le_refl _, h⟩

theorem Sound.dropFlight_voices (x : Sound) (n : Fin 8) : (x.dropFlight n).voices = x.voices := by
  unfold Sound.dropFlight; split
  · split <;> rfl
  · rfl

theorem Sound.dropFlight_beds (x : Sound) (n : Fin 8) : (x.dropFlight n).beds = x.beds := by
  unfold Sound.dropFlight; split
  · split <;> rfl
  · rfl

theorem Sound.dropFlight_flight (x : Sound) (m : Fin 8) (n a k) (h : (x.dropFlight m).flight = some (.stream n a k false)) :
    x.flight = some (.stream n a k false) := by
  unfold Sound.dropFlight at h; split at h
  · next e => split at h
              · simp at h
              · rw [e]; exact h
  · exact h

theorem Sound.dropFlights_voices (l : List (Fin 4)) (g : Fin 4 → Fin 8) (x : Sound) :
    (l.foldl (fun s v => s.dropFlight (g v)) x).voices = x.voices := by
  induction l generalizing x with
  | nil => rfl
  | cons a l ih => rw [List.foldl_cons, ih, Sound.dropFlight_voices]

theorem Sound.dropFlights_beds (l : List (Fin 4)) (g : Fin 4 → Fin 8) (x : Sound) :
    (l.foldl (fun s v => s.dropFlight (g v)) x).beds = x.beds := by
  induction l generalizing x with
  | nil => rfl
  | cons a l ih => rw [List.foldl_cons, ih, Sound.dropFlight_beds]

theorem Sound.dropFlights_flight (l : List (Fin 4)) (g : Fin 4 → Fin 8) (x : Sound) (n a k)
    (h : (l.foldl (fun s v => s.dropFlight (g v)) x).flight = some (.stream n a k false)) :
    x.flight = some (.stream n a k false) := by
  induction l generalizing x with
  | nil => exact h
  | cons a l ih => rw [List.foldl_cons] at h; exact Sound.dropFlight_flight _ _ _ _ _ (ih _ h)

theorem SoundBounds.dropFlight {x : Sound} (m : Fin 8) (h : SoundBounds x) : SoundBounds (x.dropFlight m) := by
  refine h.of_units ?_ ?_ (Sound.dropFlight_flight x m)
  · intro v; rw [Sound.dropFlight_voices]; exact SoundBounds.voice_self h v
  · intro v; rw [Sound.dropFlight_beds]; exact SoundBounds.bed_self h v

theorem burstData_length (k : Nat) (d : List Byte) : (burstData k d).length = k := by
  unfold burstData; simp

/-- R126: a flash cursor that has advanced has 26 bits. -/
theorem advanceCursor_lt (cursor n : Nat) : advanceCursor cursor n < Config.flashBytes := by
  unfold advanceCursor; split
  · assumption
  · exact (Config.cursorPastFlash _).isLt

theorem Feed.append_length (x : Feed) (d : List Byte) :
    (x.append d).buffer.length = x.buffer.length + d.length := by
  unfold Feed.append; dsimp only; split <;> simp

theorem Voice.complete_bounds (v : Voice) (d : List Byte) :
    (v.complete d).feed.buffer.length = v.feed.buffer.length + d.length ∧ (v.complete d).fade = v.fade ∧
      ((v.complete d).stall = v.stall ∨ (v.complete d).stall = 0) := by
  unfold Voice.complete; dsimp only; split
  · split <;> simp [Feed.append_length]
  · split <;> simp [Feed.append_length]
  all_goals simp [Feed.append_length]

theorem Bed.complete_bounds (v : Bed) (d : List Byte) :
    (v.complete d).feed.buffer.length = v.feed.buffer.length + d.length ∧ (v.complete d).stage = v.stage := by
  unfold Bed.complete; dsimp only; split
  · split <;> simp [Feed.append_length]
  · split <;> simp [Feed.append_length]
  all_goals simp [Feed.append_length]

/-- R125: a burst's bytes fill its own stream only. -/
theorem Sound.deliver_fill (x : Sound) (n m : Fin 8) (d : List Byte) :
    (x.deliver n d).fill m = if n = m then x.fill m + d.length else x.fill m := by
  unfold Sound.deliver
  split
  · next h =>
    unfold Sound.fill
    split
    · next hm =>
      rw [Vector.getElem_set]
      split
      · next e => have : n = m := Fin.ext e
                  subst this; simp [Voice.complete_bounds]
      · next e => rw [if_neg]; intro e'; exact e (by rw [e'])
    · next hm => rw [if_neg]; rintro rfl; exact hm h
  · next h =>
    unfold Sound.fill
    split
    · next hm => rw [if_neg]; rintro rfl; exact h hm
    · next hm =>
      rw [Vector.getElem_set]
      split
      · next e => have : n = m := by apply Fin.ext; omega
                  subst this; simp [Bed.complete_bounds]
      · next e => rw [if_neg]; intro e'; exact e (by rw [e'])

theorem Sound.deliver_flight (x : Sound) (n : Fin 8) (d : List Byte) : (x.deliver n d).flight = x.flight := by
  unfold Sound.deliver; split <;> rfl

/-- R124: a stream that requests holds at most 256 bytes. -/
theorem Sound.requesting_fill {x : Sound} {n : Fin 8} {f : Feed} (h : x.requesting? n = some f) :
    f.buffer.length = x.fill n ∧ f.buffer.length ≤ 256 := by
  unfold Sound.requesting? at h
  unfold Sound.fill
  split at h
  next playing feed heq =>
  split at h
  · next hc =>
    cases h
    simp [Config.requestFill] at hc
    refine ⟨?_, of_decide_eq_true hc.1.2⟩
    split at heq
    · next hn => cases heq; rw [dif_pos hn]
    · next hn => cases heq; rw [dif_neg hn]
  · cases h

/-- R124: the stream that the arbiter chooses is one that requests. -/
theorem Sound.choice_requests {x : Sound} {n : Fin 8} {f : Feed} (h : x.choice = some (n, f)) :
    x.requesting? n = some f := by
  unfold Sound.choice at h
  have key : ∀ (l : List (Fin 8)) (b : Option (Fin 8 × Feed)), (∀ p, b = some p → x.requesting? p.1 = some p.2) →
     ∀ p, l.foldl (fun best n => betterStream best n (x.requesting? n)) b = some p → x.requesting? p.1 = some p.2 := by
    intro l
    induction l with
    | nil => intro b hb p hp; exact hb p hp
    | cons a l ih =>
      intro b hb p hp
      refine ih _ ?_ p hp
      intro q hq
      unfold betterStream at hq
      dsimp only at hq
      split at hq
      · next hr => cases hq; exact hr
      · next hr => split at hq
                   · cases hq; exact hr
                   · cases hq; exact hb _ rfl
      · exact hb q hq
  exact key _ none (by intro p hp; cases hp) _ h

/-- R124: a grant keeps the bounds. -/
theorem SoundBounds.grant {x : Sound} (w : Bool) (h : SoundBounds x) : SoundBounds (x.grant w) := by
  unfold Sound.grant
  split
  · exact h
  · split
    · next n feed hc =>
      refine ⟨h.fill, ?_, h.voice, h.bed⟩
      intro m a k e
      have r := Sound.requesting_fill (Sound.choice_requests hc)
      simp at e
      obtain ⟨rfl, -, rfl⟩ := e
      exact ⟨by have := r.1; have := r.2; change x.fill _ ≤ 256; omega, Nat.min_le_left _ _⟩
    · split
      · exact ⟨h.fill, by intro n a k e; simp at e, h.voice, h.bed⟩
      · exact h

/-- R125: the end of a burst keeps the bounds. -/
theorem SoundBounds.complete {x : Sound} (d : List Byte) (h : SoundBounds x) : SoundBounds (x.complete d) := by
  unfold Sound.complete
  split
  · next n a k dropped e =>
    dsimp only
    have landed : SoundBounds { x with flight := none } := ⟨h.fill, by intro n a k e; simp at e, h.voice, h.bed⟩
    split
    · exact landed
    · next hd =>
      simp at hd; subst hd
      have hf := h.flight n a k e
      refine ⟨?_, ?_, ?_, ?_⟩
      · intro m; rw [Sound.deliver_fill]; split
        · next em => subst em; rw [burstData_length]; change x.fill n + k ≤ 320; omega
        · exact h.fill m
      · intro m a k e; rw [Sound.deliver_flight] at e; cases e
      · intro v
        unfold Sound.deliver; split
        · next hn =>
          simp only [Fin.getElem_fin, Vector.getElem_set]
          split
          · next ev =>
            have vc := Voice.complete_bounds x.voices[n.val] (burstData k d)
            have := h.voice ⟨n.val, hn⟩
            simp at this
            refine ⟨by rw [vc.2.1]; exact this.1, ?_⟩
            rcases vc.2.2 with e | e <;> rw [e]
            · exact this.2
            · omega
          · exact h.voice v
        · exact h.voice v
      · intro b
        unfold Sound.deliver; split
        · exact h.bed b
        · next hn =>
          simp only [Fin.getElem_fin, Vector.getElem_set]
          split
          · have := h.bed ⟨n.val - 4, by omega⟩
            simp at this
            rw [(Bed.complete_bounds _ _).2]; exact this
          · exact h.bed b
  · exact h

/-- The bounds hold after reset. -/
theorem SoundBounds.reset : SoundBounds Sound.reset := by
  refine ⟨?_, ?_, ?_, ?_⟩
  · intro n; revert n; decide
  · intro n a k e; simp [Sound.reset] at e
  · decide
  · decide

/-- Every move of the Sound Engine keeps the bounds. -/
theorem SoundBounds.move {t : Tables} {x y : Sound} (m : SoundMove t x y) (h : SoundBounds x) : SoundBounds y := by
  cases m with
  | say v clip language output hi =>
    refine h.of_units ?_ (SoundBounds.bed_self h) (fun _ _ _ e => e)
    intro w
    simp only [Sound.say, Fin.getElem_fin, Vector.getElem_set]
    split
    · simp [VoiceWithin, Voice.begin, Feed.start]
    · exact SoundBounds.voice_self h w
  | hush v =>
    refine h.of_units ?_ (SoundBounds.bed_self h) (fun _ _ _ e => e)
    intro w
    simp only [Sound.fadeOut, Fin.getElem_fin, Vector.getElem_set]
    split
    · next e => have : v = w := Fin.ext e
                subst this; exact VoiceWithin.fadeOut (h.voice v)
    · exact SoundBounds.voice_self h w
  | sample =>
    refine h.of_units ?_ ?_ (fun _ _ _ e => e)
    · intro w; simp only [Sound.sampleEvent, Fin.getElem_fin, Vector.getElem_ofFn]; exact VoiceWithin.sample (h.voice w)
    · intro w; simp only [Sound.sampleEvent, Fin.getElem_fin, Vector.getElem_ofFn]; exact BedWithin.sample (h.bed w)
  | voiceFrame v f =>
    unfold Sound.voiceFrame
    split
    · exact h
    · have k : SoundBounds { x with voices := x.voices.set v { x.voices[v].count with frame := some f } } := by
        refine h.of_units ?_ (SoundBounds.bed_self h) (fun _ _ _ e => e)
        intro w
        simp only [Fin.getElem_fin, Vector.getElem_set]
        split
        · next e => have : v = w := Fin.ext e
                    subst this; exact VoiceWithin.count (h.voice v)
        · exact SoundBounds.voice_self h w
      dsimp only
      split
      · exact k.dropFlight _
      · exact k
  | bedFrame running b f =>
    unfold Sound.bedFrame
    split
    · exact h
    · refine h.of_units (SoundBounds.voice_self h) ?_ (fun _ _ _ e => e)
      intro w
      simp only [Fin.getElem_fin, Vector.getElem_set]
      split
      · next e =>
        have : b = w := Fin.ext e
        subst this
        split
        · exact BedWithin.envelope (a := { x.beds[b] with frame := some f }) _ _ (h.bed b)
        · exact SoundBounds.bed_self h b
      · exact SoundBounds.bed_self h w
  | startBeds =>
    refine h.of_units (SoundBounds.voice_self h) ?_ (fun _ _ _ e => e)
    intro w; simp only [Sound.startBeds, Fin.getElem_fin, Vector.getElem_ofFn]; exact BedWithin.begin _ (h.bed w)
  | stopBeds =>
    refine h.of_units ?_ ?_ ?_
    · intro w; unfold Sound.stopBeds; dsimp only; rw [Sound.dropFlights_voices _ bedStream]; exact SoundBounds.voice_self h w
    · intro w; simp only [Sound.stopBeds, Fin.getElem_fin, Vector.getElem_ofFn]; simp [Bed.stop, Bed.off, BedWithin, Feed.reset]
    · intro n a k e; exact Sound.dropFlights_flight _ bedStream _ _ _ _ e
  | setBed o clip gain running =>
    have k : SoundBounds { x with beds := x.beds.set o (x.beds[o].set t o clip gain running) } := by
      refine h.of_units (SoundBounds.voice_self h) ?_ (fun _ _ _ e => e)
      intro w
      simp only [Fin.getElem_fin, Vector.getElem_set]
      split
      · next e =>
        have : o = w := Fin.ext e
        subst this
        exact BedWithin.set _ _ _ _ _ (h.bed o)
      · exact SoundBounds.bed_self h w
    unfold Sound.setBed
    dsimp only
    split
    · exact k
    · exact k.dropFlight _
  | loadBed b =>
    refine h.of_units (SoundBounds.voice_self h) ?_ (fun _ _ _ e => e)
    intro w
    simp only [Fin.getElem_fin, Vector.getElem_set]
    split
    · next e =>
      have : b = w := Fin.ext e
      subst this
      exact SoundBounds.bed_self h b
    · exact SoundBounds.bed_self h w
  | loadBeds =>
    refine h.of_units (SoundBounds.voice_self h) ?_ (fun _ _ _ e => e)
    intro w; simp only [Sound.loadBeds, Fin.getElem_fin, Vector.getElem_ofFn]; exact SoundBounds.bed_self h w
  | loading =>
    refine h.of_units ?_ ?_ ?_
    · intro w; simp only [Sound.enterLoading, Fin.getElem_fin, Vector.getElem_ofFn]
      split
      · exact SoundBounds.voice_self h w
      · exact VoiceWithin.drop (h.voice w)
    · intro w; unfold Sound.enterLoading; dsimp only; rw [Sound.dropFlights_beds _ voiceStream]; exact SoundBounds.bed_self h w
    · intro n a k e; exact Sound.dropFlights_flight _ voiceStream _ _ _ _ e
  | reset =>
    refine h.of_units ?_ ?_ ?_
    · intro w; simp only [Sound.softReset, Fin.getElem_fin, Vector.getElem_ofFn]; simp [VoiceWithin, Voice.reset, Feed.reset]
    · intro w; simp only [Sound.softReset, Fin.getElem_fin, Vector.getElem_ofFn]; simp [BedWithin, Bed.load, Bed.reset, Feed.reset]
    · intro n a k e
      have e : x.dropAllFlights.flight = some (.stream n a k false) := e
      unfold Sound.dropAllFlights at e
      split at e
      · simp at e
      · exact e
  | complete data => exact h.complete data
  | imageRead hi => exact ⟨h.fill, by intro n a k e; simp at e, h.voice, h.bed⟩
  | grant w => exact h.grant w

end Sys2Proof.Machine
end

