-- ==== Sys2Proof/Laws/Tables.lean ====
section
/-! SUPPORT. Reading and writing the tables: a record reads back where it was written, every other entry stays, and
the one canonical form is kept. -/

namespace Sys2Proof.Machine

variable {α : Type}

theorem Table.read_place (d : α) (i : Nat) (x : α) (t : List (Nat × α)) (j : Nat) :
    Table.read d (Table.place i x t) j = if j = i then x else Table.read d t j := by
  induction t with
  | nil => simp [Table.place, Table.read, eq_comm]
  | cons e rest ih =>
    obtain ⟨k, y⟩ := e
    simp only [Table.place]
    split
    · by_cases h : j = i
      · simp [Table.read, h]
      · simp [Table.read, h, Ne.symm h]
    · split
      · next hk =>
        subst hk
        by_cases h : j = k
        · simp [Table.read, h]
        · simp [Table.read, h, Ne.symm h]
      · simp only [Table.read, ih]
        by_cases h : j = i
        · subst_vars; simp_all
        · simp [h]

theorem Table.read_drop (d : α) (i : Nat) (t : List (Nat × α)) (j : Nat) :
    Table.read d (Table.drop i t) j = if j = i then d else Table.read d t j := by
  induction t with
  | nil => simp [Table.drop, Table.read]
  | cons e rest ih =>
    obtain ⟨k, y⟩ := e
    simp only [Table.drop]
    split
    · subst_vars
      rw [ih]
      by_cases h : j = k
      · simp [h]
      · simp [Table.read, h, Ne.symm h]
    · simp only [Table.read, ih]
      by_cases h : j = i
      · subst_vars; simp_all
      · simp [h]

/-- R1: a record is replaced whole, and every other entry stays. -/
theorem Table.read_write [DecidableEq α] (d : α) (t : List (Nat × α)) (i : Nat) (x : α) (j : Nat) :
    Table.read d (Table.write d t i x) j = if j = i then x else Table.read d t j := by
  unfold Table.write
  split
  · subst_vars; exact Table.read_drop ..
  · exact Table.read_place ..

theorem Table.wfFrom_mono [DecidableEq α] {d : α} {lo hi : Nat} (h : lo ≤ hi) {t : List (Nat × α)}
    (w : Table.wfFrom d hi t = true) : Table.wfFrom d lo t = true := by
  cases t with
  | nil => rfl
  | cons e rest =>
    obtain ⟨k, y⟩ := e
    simp only [Table.wfFrom, Bool.and_eq_true, decide_eq_true_eq] at w ⊢
    exact ⟨⟨Nat.le_trans h w.1.1, w.1.2⟩, w.2⟩

theorem Table.wfFrom_place [DecidableEq α] {d : α} {i : Nat} {x : α} (hx : x ≠ d) (t : List (Nat × α)) (lo : Nat)
    (hlo : lo ≤ i) (w : Table.wfFrom d lo t = true) : Table.wfFrom d lo (Table.place i x t) = true := by
  induction t generalizing lo with
  | nil => simp [Table.place, Table.wfFrom, hlo, hx]
  | cons e rest ih =>
    obtain ⟨k, y⟩ := e
    simp only [Table.wfFrom, Bool.and_eq_true, decide_eq_true_eq] at w
    simp only [Table.place]
    split
    · simp [Table.wfFrom, hlo, hx, w.1.2, w.2]; omega
    · split
      · subst_vars; simp [Table.wfFrom, hlo, hx, w.2]
      · have := ih (k + 1) (by omega) w.2
        simp [Table.wfFrom, w.1.1, w.1.2, this]

theorem Table.wfFrom_drop [DecidableEq α] {d : α} (i : Nat) (t : List (Nat × α)) (lo : Nat)
    (w : Table.wfFrom d lo t = true) : Table.wfFrom d lo (Table.drop i t) = true := by
  induction t generalizing lo with
  | nil => rfl
  | cons e rest ih =>
    obtain ⟨k, y⟩ := e
    simp only [Table.wfFrom, Bool.and_eq_true, decide_eq_true_eq] at w
    simp only [Table.drop]
    split
    · exact ih lo (Table.wfFrom_mono (by omega) w.2)
    · simp [Table.wfFrom, w.1.1, w.1.2, ih _ w.2]

/-- A write keeps the canonical form. -/
theorem Table.wf_write [DecidableEq α] {d : α} {t : List (Nat × α)} (i : Nat) (x : α) (w : Table.wf d t = true) :
    Table.wf d (Table.write d t i x) = true := by
  unfold Table.write
  split
  · exact Table.wfFrom_drop _ _ _ w
  · next h => exact Table.wfFrom_place h _ _ (Nat.zero_le _) w

/-- Writing twice at one entry is writing the second record. -/
theorem Table.place_place (i : Nat) (x y : α) (t : List (Nat × α)) :
    Table.place i y (Table.place i x t) = Table.place i y t := by
  induction t with
  | nil => simp [Table.place]
  | cons e rest ih =>
    obtain ⟨k, z⟩ := e
    by_cases h : i < k
    · simp [Table.place, h]
    · by_cases h' : k = i
      · subst_vars; simp [Table.place]
      · simp [Table.place, h, h', ih]

theorem Table.drop_drop (i : Nat) (t : List (Nat × α)) : Table.drop i (Table.drop i t) = Table.drop i t := by
  induction t with
  | nil => rfl
  | cons e rest ih =>
    obtain ⟨k, z⟩ := e
    by_cases h : k = i <;> simp [Table.drop, h, ih]

/-- Writing a record again where it stands changes nothing. -/
theorem Table.write_write [DecidableEq α] (d : α) (t : List (Nat × α)) (i : Nat) (x : α) :
    Table.write d (Table.write d t i x) i x = Table.write d t i x := by
  unfold Table.write
  split
  · exact Table.drop_drop ..
  · exact Table.place_place ..

/-- Every store of a record keeps the canonical form of every table. -/
theorem Tables.wf_storeEntry {t u : Tables} {table : Fin 14} {i : Nat} {bs : List Byte} (w : t.wf = true)
    (h : t.storeEntry? table i bs = some u) : u.wf = true := by
  unfold Tables.wf at w
  simp only [Bool.and_eq_true] at w
  obtain ⟨⟨⟨⟨⟨⟨⟨⟨⟨⟨⟨⟨⟨⟨w0, w1⟩, w2⟩, w3⟩, w4⟩, w5⟩, w6⟩, w7⟩, w8⟩, w9⟩, w10⟩, w11⟩, w12⟩, w13⟩, w14⟩ := w
  unfold Tables.storeEntry? at h
  split at h <;> (try split at h) <;> rw [Option.map_eq_some_iff] at h <;> obtain ⟨r, -, rfl⟩ := h <;>
    simp only [Tables.wf, Bool.and_eq_true] <;>
    refine ⟨⟨⟨⟨⟨⟨⟨⟨⟨⟨⟨⟨⟨⟨?_, ?_⟩, ?_⟩, ?_⟩, ?_⟩, ?_⟩, ?_⟩, ?_⟩, ?_⟩, ?_⟩, ?_⟩, ?_⟩, ?_⟩, ?_⟩, ?_⟩ <;>
    first | assumption | (apply Table.wf_write; assumption)

theorem Tables.wf_empty : Tables.empty.wf = true := by decide

end Sys2Proof.Machine
end

