-- ==== Sys2Proof/Tests/Slice0.lean ====
section
/-! SUPPORT. Tests of the model, each with the rule or worked example of the manual that its expected result is taken
from, and for every statement of Sys2Proof/Certificates/Slice0/Obligations.lean that has hypotheses a witness: a part and
operands that meet them, clause by clause. -/

namespace Sys2Proof.Tests

open Sys2Proof.Machine

/-! ### Helpers -/

/-- The part that a command answers. -/
def ran (c : Instr) (s : State) : State :=
  match exec c s with
  | .next t => t
  | .fault _ => s
  | .refused _ => s

/-- The part with one request waiting. -/
def asking (kind : Byte) (payload : List Byte) (s : State) : State :=
  { s with link := { s.link with requests := [⟨kind, payload⟩] } }

/-- The part in a show state, with these tables. -/
def withShow (mode : ShowState) (tables : Tables) : State :=
  { State.reset with store := { Store.reset with mode := mode, tables := tables } }

/-- In STANDBY with empty tables. -/
def standby : State := State.reset

/-- In LOADING with empty tables. -/
def loading : State := withShow .loading Tables.empty

/-- The part with other players and claims. -/
def withRuns (players : Vector (Option Run) 8) (claims : Claims) (s : State) : State :=
  { s with engine := { s.engine with players := players, claims := claims } }

/-- The part with one axis in this state. -/
def withAxis (a : Fin 8) (x : Axis) (s : State) : State := s.setAxis a x

/-- A request that waits alone, on a part whose reply list is empty, is the next. -/
theorem asking_next (kind : Byte) (payload : List Byte) (s : State) (h : s.inReset = false)
    (hr : s.link.replies = []) : (asking kind payload s).RequestNext kind payload [] :=
  ⟨h, rfl, by simp [asking, hr]⟩

/-! ### Well-formedness -/

theorem test_arrival_of_200_bytes_is_ill_formed :
    (Instr.arrival 0x09 (List.replicate 200 0)).wellFormed = false := by decide +kernel
theorem test_arrival_of_199_bytes_is_well_formed :
    (Instr.arrival 0x09 (List.replicate 199 0)).wellFormed = true := by decide +kernel
theorem test_empty_burst_is_ill_formed : (Instr.burstComplete []).wellFormed = false := by decide
theorem test_burst_of_65_bytes_is_ill_formed :
    (Instr.burstComplete (List.replicate 65 0)).wellFormed = false := by decide
theorem test_empty_image_read_is_ill_formed : (Instr.imageReadComplete []).wellFormed = false := by decide

/-! ### The worked examples of the arithmetic -/

/-- R13: the CRC over the characters 1 to 9. -/
theorem test_crc16 : crc16 [0x31, 0x32, 0x33, 0x34, 0x35, 0x36, 0x37, 0x38, 0x39] = 0x29B1 := by decide +kernel

/-- Section 5.5, the whole path: channel 5 at step 60, and the same step with STEPPED8. -/
theorem test_whole_path_of_channel_5 :
    fadeValue .linear 13107 52428 150 60 = 28835 ∧ fadeValue .stepped8 13107 52428 150 60 = 27852
    ∧ ({ ChannelRec.empty with curve := .square, floor := 40, ceiling := 4000 } : ChannelRec).baseDuty
        28835 200 255 = 511 := by decide

/-- Section 5.5: channel 14 under its masters. -/
theorem test_base_duty_of_channel_14 : ChannelRec.empty.baseDuty 65535 193 128 = 1555 := by decide

/-- Section 5.3: the fade that is replaced on its way, at its step 8. -/
theorem test_stepped_fade_down : fadeValue .stepped8 20560 0 20 8 = 12850 := by decide

/-- R109, section 6.3: the flicker register from frame 1 to frame 7. -/
theorem test_flicker_register :
    [1, 2, 3, 4, 5, 6].map (fun n => Nat.repeat flickerStep n 0xACE1)
      = [0x5670, 0xAB38, 0x559C, 0x2ACE, 0x1567, 0x8AB3] := by decide

/-- Section 6.2: channel 13, CENTRE in slot 5 with duty 1,000, at both edges of its on-time. -/
theorem test_centre_alignment :
    [11, 12, 1011, 1012].map
      (fun k => ({ Channel.reset 13 with active := ⟨1000, false⟩, align := .centre, slot := 5 } : Channel).pin k)
      = [false, true, true, false] := by decide

/-- R123: the rows of the table of clip bytes. -/
theorem test_clip_bytes :
    [0x00, 0x0F, 0x35, 0xB5, 0xC2, 0x7F, 0xFF].map decodeSample = [0, 120, 1216, -1216, -2176, 31616, -31616] := by
  decide

/-- Section 8.3, the worked move: intervals 2, 4, 11 and 13. -/
theorem test_worked_move :
    let p : ProfileRec := ⟨2000, 500⟩
    p.nextRate 500 20 = 1000 ∧ p.nextRate 1500 17 = 2000 ∧ p.nextRate 2000 3 = 1500 ∧ p.nextRate 1000 1 = 500 := by
  decide

/-- R4: on-frames of 60 with period 50 are stored as 49. -/
theorem test_carrier_clamp : (CarrierRec.clamp ⟨.square, 50, 60⟩).onFrames = 49 := by decide

/-! ### Link Interface -/

/-- Section 11.3: the STATUS request received byte by byte joins the queue as kind 0x02. -/
theorem test_status_frame_arrives :
    (ran (.byteReceived 0xFD true) (ran (.byteReceived 0x02 true) (ran (.byteReceived 0x01 true)
      (ran (.byteReceived 0x5A true) standby)))).link.requests = [⟨0x02, []⟩] := by decide

/-- R182: a stop error returns the receiver to HUNT. -/
theorem test_stop_error_hunts :
    (ran (.byteReceived 0x01 false) (ran (.byteReceived 0x5A true) standby)).link.receiver = Receiver.reset := by
  decide

/-- R183: the fifth arrival is discarded with a BUSY reply, the frame 5A 02 82 06 76 (section 11.3). -/
theorem test_fifth_arrival_is_busy :
    let full : State := { standby with link := { standby.link with requests := List.replicate 4 ⟨0x02, []⟩ } }
    (ran (.arrival 0x02 []) full).link.requests.length = 4
    ∧ (ran (.arrival 0x02 []) full).link.sending = some [0x5A, 0x02, 0x82, 0x06, 0x76] := by decide

/-- R182: a gap discards the partial frame. -/
theorem test_gap_discards : (ran .gapTimeout (ran (.byteReceived 0x5A true) standby)).link.receiver.state = .hunt := by
  decide

/-- R185, R186: the report queue's oldest report is sent with the lost mark, which it clears. -/
theorem test_lost_mark_is_sent :
    let s : State := { standby with link := { standby.link with
      sending := some [], reports := [.house true], lost := true } }
    (ran .transmitEnd s).link.sending = some [0x5A, 0x03, 0x4A, 0x01, 0x01, 0xB1]
    ∧ (ran .transmitEnd s).link.lost = false := by decide

/-- R184: an unknown kind is answered UNKNOWN. -/
theorem test_unknown_request :
    (ran .unknownRequest (asking 0x30 [] standby)).link.sending = some (linkFrame 0xB0 [1]) := by decide

/-- R188: the content of IDENT after power-on reset. -/
theorem test_ident :
    (ran .ident (asking 0x01 [] standby)).link.sending
      = some (linkFrame 0x81 [0, 0x48, 0x1C, 1, 0, 0, 0, 0]) := by decide

/-- R184: a STATUS request with a payload is answered BAD_LENGTH. -/
theorem test_status_with_payload : (ran .status (asking 0x02 [0] standby)).link.sending = some (linkFrame 0x82 [2]) := by
  decide

/-- R190: QUERY of zone 12 is answered BAD_ARG. -/
theorem test_query_out_of_range :
    (ran .query (asking 0x03 [9, 12] standby)).link.sending = some (linkFrame 0x83 [3]) := by decide

/-- R187: a threshold of 4 is answered BAD_ARG; 3 is set. -/
theorem test_report_level :
    (ran .reportLevel (asking 0x04 [4] standby)).link.threshold = 0
    ∧ (ran .reportLevel (asking 0x04 [3] standby)).link.threshold = 3 := by decide

/-! ### Resets and the Show Store -/

/-- R12: with MODE1, MODE0 at 10 the part loads the image at flash address 0. -/
theorem test_power_on_at_10_loads :
    (ran (.powerOnReset true false true) standby).store.mode = .loading
    ∧ (ran (.powerOnReset true false true) standby).store.load.map (·.goal) = some (.running true true) := by decide

/-- R12, R188: RESET_n with the pins at 00 leaves STANDBY and the start cause RESET_PIN. -/
theorem test_reset_n :
    (ran (.resetN false false false) loading).store.mode = .standby
    ∧ (ran (.resetN false false false) loading).link.cause = .resetPin := by decide

/-- R12: while reset is asserted a command has no effect. -/
theorem test_reset_begins :
    (ran .resetBegins standby).inReset = true
    ∧ (ran (.byteReceived 0x5A true) (ran .resetBegins standby)).link.receiver.state = .hunt := by decide

/-- R18: SOFT RESET ends the show and returns the grand master to 255. -/
theorem test_soft_reset :
    let s : State := { withShow .running Tables.empty with light := { Lighting.reset with grand := 7 } }
    (ran .softReset (asking 0x05 [] s)).store.mode = .standby
    ∧ (ran .softReset (asking 0x05 [] s)).light.grand = 255 := by decide

/-- R9: the flags of SHOW MODE: bit 0 triggers-enabled, bit 1 attract-enabled. -/
theorem test_show_mode :
    (ran .showMode (asking 0x06 [2, 1] standby)).store.mode = .running
    ∧ (ran .showMode (asking 0x06 [2, 1] standby)).store.triggersOn = true
    ∧ (ran .showMode (asking 0x06 [2, 1] standby)).store.attractOn = false := by decide

/-- R14: flash address 67,108,863 is the last one. -/
theorem test_load_image :
    (ran .loadImage (asking 0x07 [0xFF, 0xFF, 0xFF, 3] standby)).store.mode = .loading
    ∧ (ran .loadImage (asking 0x07 [0, 0, 0, 4] standby)).store.mode = .standby := by decide

/-- R5: the last entry of the profile table, and one beyond it. -/
theorem test_table_open :
    (ran .tableOpen (asking 0x08 [13, 15, 0, 1] standby)).link.cursor = ⟨13, 15, true⟩
    ∧ (ran .tableOpen (asking 0x08 [13, 16, 0, 1] standby)).link.cursor = ⟨0, 0, false⟩ := by decide

/-- R4, R6: a carrier record with period 50 and on-frames 60 reads back with on-frames 49. -/
theorem test_table_write_and_read :
    let open6 (s : State) : State := { s with link := { s.link with cursor := ⟨6, 1, false⟩, sending := none } }
    let written := ran .tableWrite (asking 0x09 [1, 50, 60] (open6 standby))
    written.link.sending = some (linkFrame 0x89 [0, 1])
    ∧ (ran .tableRead (asking 0x0A [1] (open6 written))).link.sending = some (linkFrame 0x8A [0, 1, 1, 50, 49]) := by
  decide

/-- R15: an image whose first byte is not O fails with cause TAG once its header is read. -/
theorem test_image_without_tag :
    let s := ran .loadImage (asking 0x07 [0, 0, 0, 0] standby)
    (ran (.imageReadComplete [0x4E, 0x44, 0x37, 0x32, 17, 0, 0, 0, 1, 0, 0, 0]) s).store.status = .failed .tag := by
  decide

/-! ### Scene Engine -/

/-- A scene record with a priority and a group mask, enabled; patience 300 (the figures of section 2.5). -/
def scene (priority : Nat) (groups : BitVec 16) : SceneRec :=
  { SceneRec.empty with enabled := true, priority := priority, groupMask := groups, patience := 300 }

/-- Tables with these scenes. -/
def scenes (list : List (Nat × SceneRec)) : Tables := { Tables.empty with scenes := list }

/-- SHOW with scene 3 enabled at priority 5 on group 2, and a cue table. -/
def gallery (cues : List (Nat × CueRec)) : State :=
  let tables : Tables := { scenes [(3, scene 5 0b100), (4, scene 5 0b100)] with cues := cues }
  { withShow .running tables with engine := { Engine.reset with
      scenes := ((Vector.replicate 64 SceneRun.reset).set 3 ⟨.ready, 0, false, none⟩).set 4 ⟨.ready, 0, false, none⟩ } }

/-- The gallery with scene 3 running on player 0. -/
def playing (cues : List (Nat × CueRec)) : State := ran .trigger (asking 0x0B [3] (gallery cues))

/-- The same with the transmitter and the report queue empty. -/
def quiet (s : State) : State := { s with link := Link.reset }

/-- R25, R64: an admitted scene owns its group. -/
theorem test_trigger_claims :
    (playing []).engine.claims.groups[2] = .player 0 ∧ (playing []).link.sending = some (linkFrame 0x8B [0, 0, 3]) := by
  decide

/-- R25: a group of equal priority is not available, so the scene waits; R31: its patience is 300. -/
theorem test_trigger_waits :
    ((ran .trigger (asking 0x0B [4] (quiet (playing [])))).engine.queue.map fun e => (e.scene, e.patience))
      = [(4, 300)] := by decide

/-- R37: CANCEL of a running scene with cooldown 0 leaves it READY and its player FREE. -/
theorem test_cancel :
    let s := ran .cancel (asking 0x0C [3] (quiet (playing [])))
    s.engine.players[0] = none ∧ (s.engine.scenes[3]).state = .ready ∧ s.engine.claims.groups[2] = .none := by decide

/-- R38: STOP ALL answers with the entries removed and the players stopped. -/
theorem test_stop_all :
    (ran .stopAll (asking 0x0D [] (quiet (playing [])))).link.sending = some (linkFrame 0x8D [0, 0, 1]) := by decide

/-- R75, R76, section 4.5: HOLD GROUP takes the group from its player, which runs on; FREE GROUP frees it. -/
theorem test_hold_and_free_group :
    let held := ran .holdGroup (asking 0x0E [2] (quiet (playing [])))
    held.engine.claims.groups[2] = .direct ∧ (held.engine.players[0]).isSome = true
    ∧ (ran .freeGroup (asking 0x0F [2] (quiet held))).engine.claims.groups[2] = .none := by decide

/-- R31: an entry at its last frame of patience is dropped; outside it PATIENCE_EXPIRY is no event. -/
theorem test_patience :
    let s := quiet (ran .trigger (asking 0x0B [4] (quiet (playing []))))
    (ran (.patienceExpiry 4 1) s).engine.queue.length = 1
    ∧ ((ran (.patienceAndCooldownCount 1) s).engine.queue.map (·.patience)) = [299] := by decide

/-- R34: a cooldown of 1 ends. -/
theorem test_cooldown_end :
    let s : State := { standby with engine := { Engine.reset with
      scenes := (Vector.replicate 64 SceneRun.reset).set 5 ⟨.cooldown, 1, false, none⟩ } }
    ((ran (.cooldownEnd 5 1) s).engine.scenes[5]).state = .ready := by decide

/-! ### Players and cues -/

/-- R43, R44, R56: a scene whose first cue is the empty cue, END, ends at its first frame event. -/
theorem test_empty_cue_ends : (ran (.playerFrameEvent 0 1) (quiet (playing []))).engine.players[0] = none := by decide

/-- Section 3.8's cue limit: LOOP 0, MARK 9 and NEXT raise 8 reports in the first frame event, one of them sent. -/
theorem test_cue_limit :
    let s := ran (.playerFrameEvent 0 1) (quiet (playing
      [(0, ⟨0, .loop, #v[0, 0, 0, 0, 0, 0]⟩), (1, ⟨0, .mark, #v[9, 0, 0, 0, 0, 0]⟩),
       (2, ⟨0, .next, #v[0, 0, 0, 0, 0, 0]⟩)]))
    s.link.reports.length = 7 ∧ (s.engine.players[0]).map (fun r => (r.cue, r.executed)) = some (2, 16) := by decide

/-- R43: CUE_DELAY_EXPIRY is no event while more than one frame of delay remains. -/
theorem test_cue_delay :
    let s := quiet (playing [(0, ⟨2, .finish, #v[0, 0, 0, 0, 0, 0]⟩)])
    ran (.cueDelayExpiry 0 1) s = s
    ∧ ran (.cueDelayExpiry 0 2) (ran (.playerFrameEvent 0 1) s) = ran (.playerFrameEvent 0 2) (ran (.playerFrameEvent 0 1) s) := by
  decide

/-- R52: an AWAIT of zone 1 OCCUPIED with a timeout of 1 leads to its target, cue 9, an END. -/
theorem test_await_timeout :
    let s := ran (.playerFrameEvent 0 1) (quiet (playing [(0, ⟨0, .await, #v[4, 1, 1, 0, 9, 0]⟩)]))
    (s.engine.players[0]).isSome = true ∧ (ran (.awaitTimeout 0 2) (quiet s)).engine.players[0] = none := by decide

/-! ### Lighting Engine -/

/-- The part with group 0 in direct control. -/
def direct (s : State) : State :=
  { s with engine := { s.engine with claims := { s.engine.claims with groups := s.engine.claims.groups.set 0 .direct } } }

/-- R97: level 200 with fade 0 is intent 51,400 at once; without direct control the answer is NOT_OWNER. -/
theorem test_set_level :
    ((ran .setLevel (asking 0x10 [22, 200, 0, 0, 0] (direct standby))).light.channels[22]).fade.intent = 51400
    ∧ (ran .setLevel (asking 0x10 [22, 200, 0, 0, 0] standby)).link.sending = some (linkFrame 0x90 [5]) := by decide

/-- R98: a master fade keeps its level until it steps. -/
theorem test_set_master :
    (ran .setMaster (asking 0x11 [0, 100, 25, 0] (direct standby))).light.masters[0] = ⟨255, 100, 25, 0, 255⟩ := by decide

/-- R99. -/
theorem test_set_grand : (ran .setGrand (asking 0x12 [128] standby)).light.grand = 128 := by decide

/-- R86, R101: one step of a fade of length 2 to level 255, and the duty staged from it. -/
theorem test_lighting_frame :
    let s := ran .setLevel (asking 0x10 [0, 255, 2, 0, 0] (direct standby))
    ((ran (.lightingFrameEvent 1) s).light.channels[0]).fade.intent = 32767
    ∧ ((ran (.lightingFrameEvent 1) s).light.channels[0]).staged.duty = 2047 := by decide +kernel

/-- R113: with two slots, the end of the hold of slot 0 enters slot 1, whose hold of 3 counts 6 frames. -/
theorem test_attract_hold :
    let tables : Tables := { Tables.empty with slotCount := 2, slots := [(1, ⟨0, 3, 0⟩)] }
    let s : State := { withShow .running tables with light := { Lighting.reset with hold := 1 } }
    let t : State := { s with store := { s.store with attractOn := true } }
    (ran (.attractHoldExpiry 1) t).light.slot = 1 ∧ (ran (.attractHoldExpiry 1) t).light.hold = 6
    ∧ ran (.attractHoldExpiry 1) s = s := by decide +kernel

/-- R104: the duty becomes active at the period start and not before. -/
theorem test_pwm_period_start :
    let x : Channel := { Channel.reset 13 with staged := ⟨1000, false⟩ }
    let s : State := { standby with light := { Lighting.reset with channels := Lighting.reset.channels.set 13 x } }
    ((ran (.pwmPeriodStart 13) s).light.channels[13]).active = ⟨1000, false⟩
    ∧ (ran (.pwmPeriodStart 13) s).light.period = 2560 := by decide

/-! ### Sound Engine -/

/-- R138: SET BED of clip 7 in SHOW begins its playback; section 7.4. -/
theorem test_set_bed :
    ((ran .setBed (asking 0x13 [1, 7, 0, 200] (withShow .running Tables.empty))).sound.beds[1]).state = .priming
    ∧ ((ran .setBed (asking 0x13 [1, 7, 0, 200] standby)).sound.beds[1]).state = .off := by decide

/-- The mix of section 7's first worked sequence: output 1 with bed byte 0x35 at stage 7 and voice byte 0xC2. -/
def mixing (stage : Nat) : State :=
  let voice : Voice := { Voice.reset with state := .playing, output := 1, feed := ⟨0, 9, [0xC2, 0], 0, 48000, false⟩ }
  let bed : Bed := { Bed.reset with state := .playing, gain := 200, duck := 60, stage := stage,
                                    feed := ⟨0, 9, [0x35, 0], 0, 100, true⟩ }
  { standby with sound := { Sound.reset with voices := Sound.reset.voices.set 1 voice, beds := Sound.reset.beds.set 1 bed } }

/-- R139, section 7.6: the sample is −1,890 at stage 7, and 667 − 2,176 at stage 3. -/
theorem test_sample_event :
    (ran .sampleEvent (mixing 7)).sound.out[1] = -1890 ∧ (ran .sampleEvent (mixing 3)).sound.out[1] = 667 - 2176 := by
  decide

/-- R127: the fourth burst of 64 bytes makes the fill 256 and ends PRIMING. -/
theorem test_burst_complete :
    let voice : Voice := { Voice.reset with state := .priming, feed := ⟨0, 500, List.replicate 192 0, 0, 692, false⟩ }
    let s : State := { standby with sound := { Sound.reset with
      voices := Sound.reset.voices.set 0 voice, flight := some (.stream 0 0 64 false) } }
    ((ran (.burstComplete (List.replicate 64 0)) s).sound.voices[0]).state = .playing
    ∧ ((ran (.burstComplete (List.replicate 64 0)) s).sound.voices[0]).feed.left = 436 := by decide +kernel

/-- R131, R130: a fade stage of 7 and a stall of 49 frames end in that frame; R136: the duck reverses first. -/
theorem test_sound_frame :
    let fading : Voice := { Voice.reset with state := .fading, fade := 7 }
    let stalled : Voice := { Voice.reset with state := .stalled, stall := 49 }
    let s : State := { standby with sound := { Sound.reset with
      voices := (Sound.reset.voices.set 0 fading).set 1 stalled } }
    ((ran (.fadeOutEnd 0 1) s).sound.voices[0]).state = .idle
    ∧ ((ran (.stallTimeout 1 1) s).sound.voices[1]).state = .idle
    ∧ ((ran (.soundFrameEvent 1) s).sound.voices[1]).state = .idle
    ∧ ran (.fadeOutEnd 1 1) s = s ∧ ran (.stallTimeout 0 1) s = s := by decide

/-- R136, section 7.6: with step 4, the fourth stepping frame moves the stage. -/
theorem test_duck_step :
    let voice : Voice := { Voice.reset with state := .playing, output := 1 }
    let bed : Bed := { Bed.reset with state := .playing, dir := .up, timer := 3 }
    let tables : Tables := { Tables.empty with beds := [(1, ⟨none, 255, 60, 4⟩)] }
    let s : State := { withShow .running tables with sound := { Sound.reset with
      voices := Sound.reset.voices.set 0 voice, beds := Sound.reset.beds.set 1 bed } }
    ((ran (.duckStep 1 1) s).sound.beds[1]).stage = 1 ∧ ran (.duckStep 0 1) s = s := by decide

/-! ### Motion Engine -/

/-- Axis 4 of the worked move: IDLE at 0 with limits that hold its target, and profile 0 of top rate 2,000. -/
def worked : State :=
  let tables : Tables := { Tables.empty with
    axes := [(4, ⟨-100, 100, 200, some 2, 100, 0⟩)], profiles := [(0, ⟨2000, 500⟩)] }
  withAxis 4 { Axis.reset with state := .idle, homed := true } (withShow .standby tables)

/-- R191 codes the mode AUTO as 0xFF, and the row of SET LAMP in R192 codes it 4. -/
theorem test_lamp_mode_codes :
    CueRec.cue? ⟨0, .lamp, #v[15, 0xFF, 0, 0, 0, 0]⟩ = some (.lamp 15 .auto)
    ∧ CueRec.cue? ⟨0, .lamp, #v[15, 4, 0, 0, 0, 0]⟩ = none ∧ lampOperands? [15, 0xFF] = none
    ∧ (Lamp.put { Lamp.reset with mode := .auto }).head? = some 0xFF := by decide

/-- R147, R150: MOVE AXIS to 20 sets it MOVING, and two intervals of the worked move take it to position 1. -/
theorem test_move_axis :
    let s := ran .moveAxis (asking 0x16 [4, 20, 0, 0, 0, 0xFF] worked)
    s.link.sending = some (linkFrame 0x96 [0, 0, 3])
    ∧ ((ran (.profileIntervalEvent 4 false false) (ran (.profileIntervalEvent 4 false false) s)).motion.axes[4]).position
        = 1 := by decide

/-- R148, R156: HOME AXIS begins a homing, which the HOME switch ends. -/
theorem test_home_axis :
    let s := ran .homeAxis (asking 0x17 [4] worked)
    (s.motion.axes[4]).state = .homing ∧ (s.motion.axes[4]).homed = false
    ∧ ((ran (.profileIntervalEvent 4 true false) s).motion.axes[4]).homed = true := by decide

/-- R160: the last frame of a resume wait sets the held move off. -/
theorem test_resume_wait :
    let held : Axis := { Axis.reset with
      state := .held, homed := true, wait := some 1, follow := some (.move ⟨20, 0⟩) }
    ((ran (.resumeWaitExpiry 4 1) (withAxis 4 held worked)).motion.axes[4]).state = .moving
    ∧ ((ran (.motionFrameEvent 1) (withAxis 4 held worked)).motion.axes[4]).state = .moving := by decide

/-! ### Zone Monitor -/

/-- R179: HOUSE is published after the second differing sample, ESTOP asserted after the first. -/
theorem test_safety_events :
    let published : State := { standby with monitor := { Monitor.reset with
      house := ⟨false, 1, true, none⟩, estop := ⟨false, 0, true, none⟩ } }
    (ran (.houseEvent true 1) published).light.house = true
    ∧ (ran (.estopEvent true 1) published).motion.estop = true
    ∧ ((ran (.estopEvent true 1) published).motion.axes[0]).cause = some .estop := by decide +kernel

/-- R167, R168: an entry sample count of 5 is met at counter 4, a clear count of 200 at 199. -/
theorem test_zone_events :
    let s : State := { standby with monitor := { Monitor.reset with
      zones := (Monitor.reset.zones.set 1 ⟨.entering, 4, 0, true, none⟩).set 2 ⟨.emptying, 199, 0, false, none⟩ } }
    ((ran (.zoneBecomesOccupied 1 1) s).monitor.zones[1]).state = .occupied
    ∧ ((ran (.zoneBecomesClear 2 1) s).monitor.zones[2]).state = .clear := by decide

/-- R177: the empty zone record offers language 0 alone. -/
theorem test_set_language :
    (ran .setLanguage (asking 0x14 [1, 0] standby)).link.sending = some (linkFrame 0x94 [0, 0])
    ∧ (ran .setLanguage (asking 0x14 [1, 1] standby)).link.sending = some (linkFrame 0x94 [3]) := by decide

/-- R178. -/
theorem test_set_lamp : ((ran .setLamp (asking 0x15 [1, 2] standby)).monitor.lamps[1]).mode = .slow := by decide

/-- R172, R173: with debounce 3, the third differing sample is the press or the release. -/
theorem test_buttons :
    let s (pressed : Bool) : State := { standby with monitor := { Monitor.reset with
      seeded := true, buttons := Monitor.reset.buttons.set 1 ⟨pressed, 2, none⟩ } }
    ((ran (.press 1 1) (s false)).monitor.buttons[1]).pressed = true
    ∧ ((ran (.buttonRelease 1 1) (s true)).monitor.buttons[1]).pressed = false
    ∧ ran (.press 1 1) (s true) = s true := by decide

/-- R176: the last frame of an acknowledge flash. -/
theorem test_flash_end :
    let s : State := { standby with monitor := { Monitor.reset with
      lamps := Monitor.reset.lamps.set 1 { Lamp.reset with flash := 1 } } }
    ((ran (.flashEnd 1 1) s).monitor.lamps[1]).flash = 0 := by decide

/-- R165: the first input sample after reset publishes HOUSE_n and ESTOP_n as they are, here both low. -/
theorem test_input_sample :
    let levels : InputLevels := ⟨0, 0xFFFF, false, false⟩
    (ran (.inputSample levels 1) standby).monitor.house.asserted = true
    ∧ (ran (.inputSample levels 1) standby).motion.estop = true := by decide +kernel

/-! ### Witnesses: steps, resets and the link

Each theorem below gives, for the statement of its name, a part and operands that meet the hypotheses of each of its
clauses, at a boundary of their ranges where they have one. That a request is the next is `asking_next` throughout. -/

/-- In SHOW with scene 3 on player 0, which owns group 2, and scene 4 waiting. -/
def busy : State := quiet (ran .trigger (asking 0x0B [4] (quiet (playing []))))

/-- The part in which one request waits, and the fact that it is the next. -/
theorem asked (kind : Byte) (payload : List Byte) :
    (asking kind payload standby).RequestNext kind payload []
    ∧ (asking kind payload loading).RequestNext kind payload []
    ∧ ∀ tables : Tables, (asking kind payload (withShow .running tables)).RequestNext kind payload [] :=
  ⟨asking_next _ _ _ rfl rfl, asking_next _ _ _ rfl rfl, fun _ => asking_next _ _ _ rfl rfl⟩

theorem witness_StepTakesFrontCommand :
    ({ standby with pending := [.ident, .status] } : State).pending = .ident :: [.status] ∧ standby.pending = [] :=
  ⟨rfl, rfl⟩

theorem witness_ResetsGiveResetValues :
    (ran .resetBegins standby).inReset = true ∧ Instr.ident.isReset = false
    ∧ Instr.powerOnReset false false true = .powerOnReset false false true
    ∧ Instr.resetN true false true = .resetN true false true := by decide

theorem witness_SoftResetRestartsThePart :
    (asking 0x05 [] standby).RequestNext 0x05 [] [] ∧ (asking 0x05 [] standby).store.mode ≠ .loading :=
  ⟨(asked _ _).1, by decide⟩

theorem witness_FramedBytesArrive :
    standby.inReset = false ∧ standby.link.receiver = Receiver.reset ∧ (List.replicate 199 (0 : Byte)).length ≤ 199 := by
  decide +kernel

/-- The part with this receiver. -/
def receiving (x : Receiver) : State := { standby with link := { standby.link with receiver := x } }

theorem witness_ReceiverTakesBytesAndFrames :
    (receiving Receiver.reset).inReset = false ∧ (receiving Receiver.reset).link.receiver.state = .hunt
    ∧ (receiving ⟨.length, 0, [], 0⟩).link.receiver.state = .length
    ∧ (receiving ⟨.body, 200, [], 200⟩).link.receiver.state = .body
    ∧ (receiving ⟨.check, 1, [2], 3⟩).link.receiver.state = .check
    ∧ (receiving ⟨.check, 1, [2], 3⟩).link.receiver.body = 2 :: []
    ∧ (let full (busy : Nat) : State := { standby with link := { standby.link with
         requests := List.replicate 4 ⟨2, []⟩, replies := List.replicate busy ⟨0x82, [6], true⟩ } }
       4 ≤ (full 3).link.requests.length ∧ ((full 3).link.replies.filter (·.busy)).length < 4
       ∧ 4 ≤ ((full 4).link.replies.filter (·.busy)).length)
    ∧ standby.link.requests.length < 4 := by decide

/-- The part whose transmitter is sending, with these replies and reports behind the frame. -/
def sending (replies : List Reply) (reports : List Report) : State :=
  { standby with link := { standby.link with sending := some [], replies := replies, reports := reports } }

theorem witness_TransmitterChoosesNext :
    (sending [⟨0x82, [0], false⟩] [.house true]).inReset = false
    ∧ (sending [⟨0x82, [0], false⟩] [.house true]).link.sending = some []
    ∧ (sending [⟨0x82, [0], false⟩] [.house true]).link.replies = ⟨0x82, [0], false⟩ :: []
    ∧ (sending [] [.house true]).link.reports = .house true :: []
    ∧ (sending [] []).link.replies = [] ∧ (sending [] []).link.reports = [] := by decide

theorem witness_RequestsWaitAndAreChecked :
    Instr.ident.requestKind?.isSome = true ∧ (sending [⟨0x82, [0], false⟩] []).link.replies.any (!·.busy) = true
    ∧ (asking 0x00 [] standby).RequestNext 0x00 [] [] ∧ (asking 0x18 [] standby).RequestNext 0x18 [] []
    ∧ 23 < (0x18 : Byte).toNat
    ∧ (asking 0x05 [0] loading).RequestNext 0x05 [0] [] ∧ Instr.softReset.answeredInLoading = false
    ∧ Instr.softReset.payloadLength? = some 0 ∧ ([0] : List Byte).length ≠ 0
    ∧ (∀ r : Request, standby.link.requests.head? = some r → r.kind ≠ 0x01) :=
  ⟨by decide, by decide, (asked _ _).1, (asked _ _).1, by decide, (asked _ _).2.1, by decide, by decide, by decide,
   fun _ h => by cases h⟩

theorem witness_InformationIsReported :
    (asking 0x01 [] loading).RequestNext 0x01 [] [] ∧ (asking 0x02 [] loading).RequestNext 0x02 [] []
    ∧ (∀ selection index : Byte, (asking 0x03 [selection, index] busy).RequestNext 0x03 [selection, index] [])
    ∧ 64 ≤ (64 : Byte).toNat ∧ (63 : Byte).toNat = (63 : Fin 64).val ∧ 8 ≤ (8 : Byte).toNat
    ∧ (7 : Byte).toNat = (7 : Fin 8).val ∧ 48 ≤ (48 : Byte).toNat ∧ (47 : Byte).toNat = (47 : Fin 48).val
    ∧ 16 ≤ (16 : Byte).toNat ∧ (15 : Byte).toNat = (15 : Fin 16).val ∧ 4 ≤ (4 : Byte).toNat
    ∧ (3 : Byte).toNat = (3 : Fin 4).val ∧ 12 ≤ (12 : Byte).toNat ∧ (11 : Byte).toNat = (11 : Fin 12).val
    ∧ 10 ≤ (10 : Byte).toNat ∧ (busy.engine.players[(0 : Fin 8)]).map (·.scene) = some 3 ∧ (∀ q : Fin 8, ¬ q < 0)
    ∧ (∀ p : Fin 8, (busy.engine.players[p]).map (·.scene) ≠ some 63) ∧ busy.engine.players[(7 : Fin 8)] = none :=
  ⟨(asked _ _).2.1, (asked _ _).2.1, fun _ _ => asking_next _ _ _ rfl rfl, by decide⟩

theorem witness_ReportLevelSetsThreshold :
    (asking 0x04 [3] standby).RequestNext 0x04 [3] [] ∧ (asking 0x04 [4] standby).RequestNext 0x04 [4] []
    ∧ (asking 0x04 [3] loading).RequestNext 0x04 [3] [] ∧ (asking 0x04 [3] loading).store.mode = .loading
    ∧ (asking 0x04 [3] standby).store.mode ≠ .loading
    ∧ 3 < (4 : Byte).toNat ∧ (3 : Byte).toNat ≤ 3
    ∧ (Report.loadDone 0 1).level < (3 : Byte).toNat ∧ (3 : Byte).toNat ≤ (Report.house true).level
    ∧ (asking 0x04 [3] standby).link.reports.length < 32
    ∧ ({ Link.reset with reports := [.house true] } : Link).reports = .house true :: [] :=
  ⟨(asked _ _).1, (asked _ _).1, (asked _ _).2.1, by decide⟩

/-! ### Witnesses: Show Store -/

theorem witness_ShowModeSetsStateAndFlags :
    (asking 0x06 [1, 0] loading).RequestNext 0x06 [1, 0] [] ∧ (asking 0x06 [1, 0] loading).store.mode = .loading
    ∧ (asking 0x06 [3, 0] standby).RequestNext 0x06 [3, 0] [] ∧ (asking 0x06 [1, 0] standby).RequestNext 0x06 [1, 0] []
    ∧ (asking 0x06 [2, 3] standby).RequestNext 0x06 [2, 3] [] ∧ standby.store.mode = .standby
    ∧ (asking 0x06 [2, 3] (withShow .running Tables.empty)).RequestNext 0x06 [2, 3] []
    ∧ (withShow .running Tables.empty).store.mode = .running :=
  ⟨(asked _ _).2.1, rfl, (asked _ _).1, (asked _ _).1, (asked _ _).1, rfl, (asked _ _).2.2 _, rfl⟩

theorem busy_claims : (asking 0x06 [1, 0] busy).ClaimsNamePlayers := by
  unfold State.ClaimsNamePlayers; decide

theorem witness_ShowToStandbyEndsTheShow :
    (asking 0x06 [1, 0] busy).RequestNext 0x06 [1, 0] [] ∧ (asking 0x06 [1, 0] busy).store.mode = .running
    ∧ (asking 0x06 [1, 0] busy).ClaimsNamePlayers
    ∧ (busy.engine.players[(0 : Fin 8)]).map (·.scene) = some 3 ∧ busy.engine.queue.map (·.scene) = [4] :=
  ⟨asking_next _ _ _ rfl rfl, by decide, busy_claims, by decide⟩

theorem witness_LoadImageBeginsTheLoad :
    (asking 0x07 [0xFF, 0xFF, 0xFF, 3] standby).RequestNext 0x07 [0xFF, 0xFF, 0xFF, 3] []
    ∧ (asking 0x07 [0, 0, 0, 4] standby).RequestNext 0x07 [0, 0, 0, 4] []
    ∧ (asking 0x07 [0, 0, 0, 4] loading).RequestNext 0x07 [0, 0, 0, 4] [] ∧ loading.store.mode ≠ .standby
    ∧ 0 + 256 * 0 + 65536 * 0 + 16777216 * (4 : Byte).toNat = 67108863 + 1 :=
  ⟨(asked _ _).1, (asked _ _).1, (asked _ _).2.1, by decide⟩

/-- An image of one section with no records, the smallest there is. -/
def smallImage : List Byte :=
  [0x4F, 0x44, 0x37, 0x32, 17, 0, 0, 0, 1, 0, 0x76, 0x30, 13, 0, 0, 0, 0]

/-- The part with the load of `smallImage` begun and its read in flight. -/
def loadingImage : State := ran .loadImage (asking 0x07 [0, 0, 0, 0] standby)

/-- An image with this tag byte, total length, section count and CRC, of no more than 16 bytes behind its header. -/
def image (tag total sections crc : Nat) (rest : List Byte) : List Byte :=
  [BitVec.ofNat 8 tag, 0x44, 0x37, 0x32] ++ put32 total ++ put16 sections ++ put16 crc ++ rest

theorem witness_VerifiedImageIsApplied :
    loadingImage.inReset = false ∧ loadingImage.sound.flight = some .image
    ∧ (loadingImage.store.load.map fun ld => (ld.pass, ld.header, ld.pos, ld.crc, ld.address))
        = some (.verify, [], 0, 0xFFFF, 0)
    ∧ (image 0x4E 17 1 0 []).take 4 ≠ [0x4F, 0x44, 0x37, 0x32] ∧ 4 ≤ (image 0x4E 17 1 0 []).length
    ∧ (image 0x4F 11 1 0 []).take 4 = [0x4F, 0x44, 0x37, 0x32] ∧ ¬ 12 ≤ get32 (image 0x4F 11 1 0 []) 4
    ∧ ¬ 0 % 16777216 + get32 (image 0x4F 16777217 1 0 []) 4 ≤ 16777216
    ∧ ¬ 1 ≤ get16 (image 0x4F 17 0 0 []) 8 ∧ ¬ get16 (image 0x4F 17 33 0 []) 8 ≤ 32
    ∧ (crc16 (((image 0x4F 13 1 0 [0]).take 13).drop 12)).toNat ≠ get16 (image 0x4F 13 1 0 [0]) 10
    ∧ get32 (image 0x4F 12 32 0xFFFF []) 4 = 12 ∧ get16 (image 0x4F 12 32 0xFFFF []) 8 = 32
    ∧ (crc16 (((image 0x4F 12 32 0xFFFF []).take 12).drop 12)).toNat = get16 (image 0x4F 12 32 0xFFFF []) 10
    ∧ smallImage.take 4 = [0x4F, 0x44, 0x37, 0x32] ∧ 17 ≤ smallImage.length ∧ get32 smallImage 4 = smallImage.length
    ∧ 0 % 16777216 + smallImage.length ≤ 16777216 ∧ get16 smallImage 8 = 1
    ∧ (crc16 ((smallImage.take 17).drop 12)).toNat = get16 smallImage 10
    ∧ standby.sound.flight ≠ some .image ∧ standby.store.load = none := by decide +kernel

/-- The apply pass at section `sect` of `sections`, of which the first begins behind the header, in an image of `total`
bytes. -/
def applying (total sections sect : Nat) : Load :=
  ⟨0, .running true false, .apply, image 0x4F total sections 0 [], 12, 0, sect, [], none, 0, 0⟩

/-- The part in that pass. -/
def inApply (total sections sect : Nat) : State :=
  { loading with
    store := { loading.store with load := some (applying total sections sect), status := .applying }
    sound := { loading.sound with flight := some .image } }

theorem witness_LoadEndsByItsOutcome :
    (loadingImage.store.load.map (·.goal)) = some .standby
    ∧ ((ran (.powerOnReset true true false) standby).store.load.map (·.goal)) = some (.running false true)
    ∧ (inApply 20 1 0).inReset = false ∧ (inApply 20 1 0).sound.flight = some .image
    ∧ (inApply 20 1 0).store.load = some (applying 20 1 0) ∧ (applying 20 1 0).pass = .apply
    ∧ (applying 20 1 0).table = none ∧ (applying 20 1 0).part = []
    ∧ 5 ≤ ([14, 0, 0, 0, 0] : List Byte).length ∧ 14 ≤ byteAt [14, 0, 0, 0, 0] 0
    ∧ byteAt [6, 3, 0, 1, 0, 1, 50, 60] 0 = (6 : Fin 14).val
    ∧ tableEntries 6 < get16 [6, 4, 0, 1, 0, 1, 50, 60] 1 + get16 [6, 4, 0, 1, 0, 1, 50, 60] 3
    ∧ get32 (applying 19 1 0).header 4 < 12 + 5 + 1 * recordSize 6
    ∧ get32 (applying 20 1 0).header 4 = 12 + 5 + 1 * recordSize 6
    ∧ get16 [6, 3, 0, 1, 0, 1, 50, 60] 1 + get16 [6, 3, 0, 1, 0, 1, 50, 60] 3 = tableEntries 6
    ∧ (inApply 20 1 0).store.tables.storeEntry? 6 3 [3, 50, 60] = none
    ∧ ((inApply 20 1 0).store.tables.storeEntry? 6 3 [1, 50, 60]).isSome = true
    ∧ ([6, 3, 0, 1, 0, 1, 50, 60] : List Byte).length = 5 + 1 * recordSize 6
    ∧ (applying 24 2 0).sect + 1 < get16 (applying 24 2 0).header 8
    ∧ get32 (applying 24 2 0).header 4 < 12 + 5 + 3 + 5 ∧ 12 + 5 + 3 + 5 ≤ get32 (applying 25 2 0).header 4
    ∧ get16 (applying 21 2 1).header 8 ≤ (applying 21 2 1).sect + 1
    ∧ 12 + 5 + 3 < get32 (applying 21 2 1).header 4 := by decide +kernel

theorem witness_TableOpenAndReadUseTheCursor :
    (asking 0x08 [13, 15, 0, 0] standby).RequestNext 0x08 [13, 15, 0, 0] []
    ∧ (asking 0x08 [13, 16, 0, 0] standby).RequestNext 0x08 [13, 16, 0, 0] []
    ∧ (asking 0x08 [14, 0, 0, 0] standby).RequestNext 0x08 [14, 0, 0, 0] []
    ∧ (asking 0x08 [13, 0, 0, 0] loading).RequestNext 0x08 [13, 0, 0, 0] []
    ∧ (13 : Byte).toNat = (13 : Fin 14).val ∧ tableEntries 13 = 16
    ∧ (asking 0x0A [0] standby).RequestNext 0x0A [0] [] ∧ (asking 0x0A [255] standby).RequestNext 0x0A [255] [] :=
  ⟨(asked _ _).1, (asked _ _).1, (asked _ _).1, (asked _ _).2.1, by decide, by decide, (asked _ _).1, (asked _ _).1⟩

/-- STANDBY with the cursor at an entry of the carrier table. -/
def atCarrier (index : Nat) : State := { standby with link := { standby.link with cursor := ⟨6, index, true⟩ } }

/-- The records that these tables hold from an entry on, as TABLE WRITE takes them. -/
def records (t : Tables) (table : Fin 14) (i n : Nat) : List Byte :=
  ((List.range n).map fun k => t.putEntry table (i + k)).flatten

/-- STANDBY with the cursor at entry 1 of a table. -/
def atOne (table : Fin 14) : State := { standby with link := { standby.link with cursor := ⟨table, 1, true⟩ } }

theorem witness_TableWriteStoresTheRecord :
    (∀ payload : List Byte, (asking 0x09 payload (atCarrier 3)).RequestNext 0x09 payload [])
    ∧ ([1, 50] : List Byte).length % recordSize 6 ≠ 0
    ∧ (asking 0x09 (records Tables.empty 0 0 1) loading).RequestNext 0x09 (records Tables.empty 0 0 1) []
    ∧ loading.store.mode ≠ .standby ∧ (records Tables.empty 0 0 1).length % recordSize 0 = 0
    ∧ (records Tables.empty 0 0 1) ≠ []
    ∧ (atCarrier 3).store.mode = .standby ∧ ([1, 50, 60, 2, 50, 60] : List Byte).length / recordSize 6 = 2
    ∧ (Tables.empty.storeEntry? 6 2 [1, 50, 60]).isSome = true
    ∧ ((Tables.empty.storeEntry? 6 2 [1, 50, 60]).bind fun t => t.storeEntry? 6 3 [2, 50, 60]).isSome = true
    ∧ 2 + 1 < tableEntries 6 ∧ tableEntries 6 ≤ 3 + 1 ∧ Tables.empty.storeEntry? 6 3 [3, 50, 60] = none
    ∧ (∀ table ∈ ([0, 9, 10, 11, 12] : List (Fin 14)), (atOne table).link.cursor.table = table
        ∧ (Tables.empty.storeEntry? table 1 (records Tables.empty table 1 1)).isSome = true)
    ∧ ((atOne 11).store.tables.storeEntry? 11 31 (records Tables.empty 11 31 1)).isSome = true :=
  ⟨fun _ => asking_next _ _ _ rfl rfl, by decide, (asked _ _).2.1, by decide +kernel⟩

theorem witness_StoredRecordsReadBack :
    (Tables.empty.storeEntry? 6 3 [1, 50, 60]).isSome = true
    ∧ (Tables.empty.storeEntry? 12 7 [0xFF, 0xFF, 0xFF, 0xFF, 1, 0, 0, 0, 10, 0, 0xFF, 0, 0, 15]).isSome = true := by
  decide

/-! ### Witnesses: Scene Engine -/

/-- SHOW with scene 3 in a state, with this record, and claims. -/
def staged (run : SceneRun) (r : SceneRec) (players : Vector (Option Run) 8) (claims : Claims) : State :=
  withRuns players claims { withShow .running (scenes [(3, r)]) with
    engine := { Engine.reset with scenes := (Vector.replicate 64 SceneRun.reset).set 3 run } }

/-- The scene 3 of the witnesses, ready, waiting or running. -/
def inState (x : SceneState) (again : Bool) (r : SceneRec) : State :=
  staged ⟨x, 0, again, none⟩ r (Vector.replicate 8 none) Claims.reset

theorem inState_asked (x : SceneState) (again : Bool) (r : SceneRec) (kind : Byte) (payload : List Byte) :
    (asking kind payload (inState x again r)).RequestNext kind payload [] := asking_next _ _ _ rfl rfl

theorem witness_TriggerWithoutAdmissionIsAnswered :
    (asking 0x0B [3] standby).RequestNext 0x0B [3] [] ∧ standby.store.mode ≠ .running
    ∧ (∀ x again r, (asking 0x0B [3] (inState x again r)).RequestNext 0x0B [3] []) ∧ 64 ≤ (64 : Byte).toNat
    ∧ (inState .ready false (scene 5 0)).store.mode = .running ∧ (3 : Byte).toNat = (3 : Fin 64).val
    ∧ (inState .ready false (scene 5 0)).engine.house = false
    ∧ ((inState .ready false SceneRec.empty).store.tables.scene 3).enabled = false
    ∧ ((inState .ready false (scene 5 0)).store.tables.scene 3).enabled = true
    ∧ ((inState .pending false (scene 5 0)).engine.scenes[(3 : Fin 64)]).state = .pending
    ∧ ((inState .cooldown false (scene 5 0)).engine.scenes[(3 : Fin 64)]).state = .cooldown
    ∧ ((inState .running true { scene 5 0 with retrigger := .queue }).engine.scenes[(3 : Fin 64)]).again = true
    ∧ ((inState .running false { scene 5 0 with retrigger := .queue }).store.tables.scene 3).retrigger = .queue
    ∧ ((inState .running false (scene 5 0)).store.tables.scene 3).retrigger = .ignore :=
  ⟨(asked _ _).1, by decide, fun _ _ _ => inState_asked .., by decide⟩

/-- A player's record at its start. -/
def run (sc : Fin 64) (priority order : Nat) : Run := ⟨sc, priority, order, 0, .delaying 0, [], none, 0, none⟩

/-- Scene 3 needs group 2, axis 1 and a voice. -/
def needy : SceneRec := { scene 5 0b100 with axisMask := 0b10, narration := true }

/-- Scene 3 ready, with player 0 running another scene on group 0 and voice 0 owned. -/
def admissionState : State :=
  staged ⟨.ready, 0, false, none⟩ needy ((Vector.replicate 8 none).set 0 (some (run 9 7 1)))
    { Claims.reset with groups := Claims.reset.groups.set 0 (.player 0), voices := Claims.reset.voices.set 0 (some 0) }

/-- Scene 3, with retrigger RESTART, on player 1 at cue 7, where it owns all that it needs; another player runs too. With
`shut` the scene needs a group in direct control as well. -/
def restarting (shut : Bool) : State :=
  let r : SceneRec := { needy with groupMask := if shut then 0b1100 else 0b100, retrigger := .restart }
  staged ⟨.running, 0, false, none⟩ r
    (((Vector.replicate 8 none).set 1 (some { run 3 5 1 with cue := 7 })).set 2 (some (run 9 7 2)))
    ⟨(Claims.reset.groups.set 2 (.player 1)).set 3 .direct, Claims.reset.axes.set 1 (some 1),
      Claims.reset.voices.set 0 (some 1)⟩

theorem admission_startable : ((asking 0x0B [3] admissionState).took []).Startable 3 1 (some 1) := by
  unfold State.Startable; decide

theorem restarting_readmissible :
    ((asking 0x0B [3] (restarting false)).took []).Readmissible 1 { run 3 5 1 with cue := 7 } 0 (some 0) := by
  unfold State.Readmissible; decide

theorem restarting_shutOut : ((asking 0x0B [3] (restarting true)).took []).ShutOut 3 := by
  unfold State.ShutOut; decide

theorem witness_AdmittedSceneStarts :
    (asking 0x0B [3] admissionState).RequestNext 0x0B [3] [] ∧ admissionState.store.mode = .running
    ∧ admissionState.engine.house = false ∧ (admissionState.store.tables.scene 3).enabled = true
    ∧ (admissionState.engine.scenes[(3 : Fin 64)]).state = .ready
    ∧ ((asking 0x0B [3] admissionState).took []).Startable 3 1 (some 1)
    ∧ (∀ shut : Bool, (asking 0x0B [3] (restarting shut)).RequestNext 0x0B [3] []
        ∧ ((restarting shut).engine.scenes[(3 : Fin 64)]).state = .running
        ∧ ((restarting shut).store.tables.scene 3).retrigger = .restart
        ∧ ((restarting shut).store.tables.scene 3).enabled = true
        ∧ (restarting shut).engine.players[(1 : Fin 8)] = some { run 3 5 1 with cue := 7 }
        ∧ (restarting shut).engine.players[(0 : Fin 8)] = none ∧ (restarting shut).engine.queue = [])
    ∧ ((asking 0x0B [3] (restarting false)).took []).Readmissible 1 { run 3 5 1 with cue := 7 } 0 (some 0)
    ∧ ((asking 0x0B [3] (restarting true)).took []).ShutOut 3 :=
  ⟨asking_next _ _ _ rfl rfl, by decide, by decide, by decide, by decide, admission_startable,
   fun shut => ⟨asking_next _ _ _ rfl rfl, by cases shut <;> decide⟩,
   restarting_readmissible, restarting_shutOut⟩

/-- Every player runs, at priorities 4 and 2. -/
def crowded (claims : Claims) : State :=
  staged ⟨.ready, 0, false, none⟩ (scene 4 0b100)
    (Vector.ofFn fun p : Fin 8 => some (run (Fin.ofNat 64 (10 + p.val)) (if p.val = 5 then 2 else 4) (p.val + 1))) claims

/-- Scene 3, of priority 5, needs group 1, axis 0 and a voice: player 1 owns the group and a voice at priority 2, player 2
the axis and a voice at priority 3, and player 0 the other voices at priority 6. -/
def preempting : State :=
  let players := (((Vector.replicate 8 none).set 0 (some (run 12 6 2))).set 1 (some (run 10 2 1))).set 2 (some (run 11 3 3))
  staged ⟨.ready, 0, false, none⟩ { scene 5 0b10 with axisMask := 1, narration := true } players
    ⟨(Claims.reset.groups.set 1 (.player 1)).set 3 (.player 0), Claims.reset.axes.set 0 (some 2),
      #v[some 1, some 2, some 0, some 0]⟩

theorem witness_PreemptionTakesFromLowerPriorities :
    (crowded Claims.reset).admissible 3 = true
    ∧ (∀ p : Fin 8, ((crowded Claims.reset).engine.players[p]).isSome = true
        ∧ (crowded Claims.reset).engine.ownsNeeded (scene 4 0b100) none p = false)
    ∧ (crowded { Claims.reset with groups := Claims.reset.groups.set 2 (.player 5) }).admissible 3 = true
    ∧ (crowded { Claims.reset with groups := Claims.reset.groups.set 2 (.player 5) }).engine.claims.groups[(2 : Fin 16)]
        = .player 5
    ∧ (asking 0x0B [3] preempting).RequestNext 0x0B [3] [] ∧ preempting.store.mode = .running
    ∧ preempting.engine.house = false ∧ (preempting.store.tables.scene 3).enabled = true
    ∧ (preempting.engine.scenes[(3 : Fin 64)]).state = .ready ∧ preempting.admissible 3 = true
    ∧ preempting.preempted 3 (preempting.chooseVoice 5) = [1, 2] ∧ preempting.engine.queue = []
    ∧ preempting.engine.estop = false
    ∧ (preempting.engine.players.toList.map fun r => r.map (·.scene)).take 3 = [some 12, some 10, some 11]
    ∧ (∀ sc ∈ ([10, 11] : List (Fin 64)), (preempting.engine.scenes[sc]).again = false) :=
  ⟨by decide +kernel, by decide +kernel, by decide +kernel, by decide +kernel, asking_next _ _ _ rfl rfl, by decide +kernel⟩

/-- Scene 3 is not admissible, since its group is in direct control, with these entries waiting. -/
def shutOut (patience : Nat) (queue : List Entry) : State :=
  let s := staged ⟨.ready, 0, false, none⟩ { scene 5 0b100 with patience := patience } (Vector.replicate 8 none)
    { Claims.reset with groups := Claims.reset.groups.set 2 .direct }
  { s with engine := { s.engine with queue := queue } }

/-- Sixteen entries of one priority. -/
def sixteen (priority : Nat) : List Entry :=
  (List.range 16).map fun k => ⟨Fin.ofNat 64 (20 + k), priority, .link, k, 100, none⟩

theorem witness_UnadmittedSceneWaitsOrIsDropped :
    (∀ patience queue, (asking 0x0B [3] (shutOut patience queue)).RequestNext 0x0B [3] [])
    ∧ (3 : Byte).toNat = (3 : Fin 64).val ∧ (shutOut 1 []).store.mode = .running ∧ (shutOut 1 []).engine.house = false
    ∧ ((shutOut 1 []).store.tables.scene 3).enabled = true
    ∧ ((shutOut 1 []).engine.scenes[(3 : Fin 64)]).state = .ready
    ∧ (shutOut 0 []).admissible 3 = false ∧ ((shutOut 0 []).store.tables.scene 3).patience = 0
    ∧ ((sixteen 4).take 15).length < 16
    ∧ (shutOut 1 (sixteen 4)).admissible 3 = false ∧ 16 ≤ (shutOut 1 (sixteen 4)).engine.queue.length
    ∧ (sixteen 4).getLast?.map (·.priority) = some 4 ∧ (sixteen 5).getLast?.map (·.priority) = some 5
    ∧ ((shutOut 1 (sixteen 4)).store.tables.scene 3).priority = 5 :=
  ⟨fun _ _ => asking_next _ _ _ rfl rfl, by decide +kernel⟩

theorem witness_CancelRemovesOrStops :
    (asking 0x0C [4] busy).RequestNext 0x0C [4] [] ∧ (asking 0x0C [3] (quiet (playing []))).RequestNext 0x0C [3] []
    ∧ (asking 0x0C [3] loading).RequestNext 0x0C [3] [] ∧ (asking 0x0C [64] standby).RequestNext 0x0C [64] []
    ∧ (busy.engine.scenes[(4 : Fin 64)]).state = .pending ∧ busy.engine.queue.map (·.scene) = [] ++ 4 :: []
    ∧ ((quiet (playing [])).engine.scenes[(3 : Fin 64)]).state = .running ∧ (quiet (playing [])).engine.queue = []
    ∧ ((quiet (playing [])).engine.players[(0 : Fin 8)]).map (·.scene) = some 3
    ∧ (∀ q : Fin 8, ¬ q < 0) ∧ (standby.engine.scenes[(3 : Fin 64)]).state = .disabled :=
  ⟨asking_next _ _ _ rfl rfl, asking_next _ _ _ rfl rfl, (asked _ _).2.1, (asked _ _).1, by decide⟩

theorem witness_StopAllEmptiesTheEngine :
    (asking 0x0D [] busy).RequestNext 0x0D [] [] ∧ (asking 0x0D [] busy).store.mode ≠ .loading
    ∧ (asking 0x0D [] busy).ClaimsNamePlayers ∧ busy.store.attractRunning = false :=
  ⟨asking_next _ _ _ rfl rfl, by decide, busy_claims, by decide⟩

/-- SHOW with three scenes waiting: the middle one needs group 0 alone, the others group 1; both are in direct control. -/
def queued : State :=
  let entry (sc : Fin 64) (priority : Nat) : Entry := ⟨sc, priority, .link, 0, 300, none⟩
  { withShow .running (scenes [(3, { scene 5 1 with axisMask := 2 }), (20, scene 6 2), (21, scene 4 2)]) with
    engine := { Engine.reset with
      queue := [entry 20 6, entry 3 5, entry 21 4], players := (Vector.replicate 8 none).set 0 (some (run 12 6 1)),
      claims := { Claims.reset with groups := (Claims.reset.groups.set 0 .direct).set 1 .direct } } }

theorem queued_startable : (((asking 0x0F [0] queued).took []).setGroupOwner 0 .none).Startable 3 1 none := by
  unfold State.Startable; decide

theorem queued_shutOut : ∀ sc ∈ ([20, 21] : List (Fin 64)),
    (((asking 0x0F [0] queued).took []).setGroupOwner 0 .none).ShutOut sc := by
  unfold State.ShutOut; decide

theorem witness_DirectControlTakesAndFreesGroups :
    (asking 0x0E [15] standby).RequestNext 0x0E [15] [] ∧ (asking 0x0E [16] standby).RequestNext 0x0E [16] []
    ∧ (asking 0x0E [15] loading).RequestNext 0x0E [15] [] ∧ standby.engine.claims.groups[(15 : Fin 16)] = .none
    ∧ (direct standby).engine.claims.groups[(0 : Fin 16)] = .direct
    ∧ busy.engine.claims.groups[(2 : Fin 16)] = .player 0 ∧ (busy.engine.players[(0 : Fin 8)]).isSome = true
    ∧ (asking 0x0F [0] (direct standby)).RequestNext 0x0F [0] []
    ∧ (asking 0x0F [0] (direct (withShow .running Tables.empty))).RequestNext 0x0F [0] []
    ∧ (direct (withShow .running Tables.empty)).store.attractRunning = false
    ∧ (asking 0x0F [0] queued).RequestNext 0x0F [0] [] ∧ queued.engine.claims.groups[(0 : Fin 16)] = .direct
    ∧ queued.store.mode = .running ∧ queued.engine.house = false ∧ queued.store.attractRunning = false
    ∧ queued.engine.queue.map (·.scene) = [20, 3, 21]
    ∧ (((asking 0x0F [0] queued).took []).setGroupOwner 0 .none).Startable 3 1 none
    ∧ (∀ sc ∈ ([20, 21] : List (Fin 64)), (((asking 0x0F [0] queued).took []).setGroupOwner 0 .none).ShutOut sc) :=
  ⟨(asked _ _).1, (asked _ _).1, (asked _ _).2.1, by decide, by decide, by decide, by decide, asking_next _ _ _ rfl rfl,
   asking_next _ _ _ rfl rfl, by decide, asking_next _ _ _ rfl rfl, by decide, by decide, by decide, by decide, by decide,
   queued_startable, queued_shutOut⟩

/-- SHOW with scene 4 waiting for its last frame and scene 5 cooling down for its last. -/
def counting : State :=
  let e : Entry := ⟨4, 5, .link, 0, 1, none⟩
  let runs := ((Vector.replicate 64 SceneRun.reset).set 4 ⟨.pending, 0, false, none⟩).set 5 ⟨.cooldown, 1, false, none⟩
  { withShow .running Tables.empty with engine := { Engine.reset with queue := [e], scenes := runs } }

theorem witness_PatienceAndCooldownsCount :
    counting.inReset = false ∧ counting.engine.frame ≠ some 7 ∧ counting.store.mode = .running
    ∧ counting.engine.queue = [] ++ ⟨4, 5, .link, 0, 1, none⟩ :: []
    ∧ (counting.engine.queue.map fun e => (decide (e.patience ≠ 65535), decide (e.since ≠ some 7), decide (e.patience ≤ 1)))
        = [(true, true, true)]
    ∧ (counting.engine.scenes[(5 : Fin 64)]).state = .cooldown ∧ (counting.engine.scenes[(5 : Fin 64)]).since ≠ some 7
    ∧ (counting.engine.scenes[(5 : Fin 64)]).cooldown ≤ 1
    ∧ ({ counting with engine := { counting.engine with frame := some 7 } } : State).engine.frame = some 7 := by decide

/-! ### Witnesses: players and cues -/

/-- A voice in a state, with these bytes buffered and left. -/
def voiceIn (x : VoiceState) (buffer : List Byte) (left : Nat) : Voice :=
  { Voice.reset with state := x, feed := ⟨0, left, buffer, 0, 600, false⟩ }

/-- An axis in a state, homed or not, at position 50. -/
def at50 (x : AxisState) (homed : Bool) : Axis := { Axis.reset with state := x, homed := homed, position := 50 }

/-- Axis 4 MOVING at 50 toward a target at a rate. -/
def movingAt50 (target : Int) (rate : Nat) (dir : Direction) : Axis :=
  { at50 .moving true with target := some target, profile := some 0, rate := rate, dir := dir }

/-- Axis 4 HELD at 50 with a wait and a follow-on. -/
def heldAt50 (wait : Nat) (follow : Activity) : Axis :=
  { at50 .held true with wait := some wait, follow := some follow }

/-- An axis STOPPING at 50, homed or not, with this ending and follow-on. -/
def stoppingAt50 (homed : Bool) (ending : StopEnding) (follow : Activity) : Axis :=
  { at50 .stopping homed with
    target := if homed then some 60 else none, profile := if homed then some 0 else none, rate := 500
    ending := some ending, follow := some follow }

/-- Scene 3, on player 7, which owns group 2, axis 1 and voice 0, is at cue 100 with a delay at its last frame. -/
def atCue : Run := { run 3 5 1 with cue := 100, phase := .delaying 1, voice := some 0 }

/-- SHOW with this player's record; the cue at its pointer, a delay of 3 behind it, and one of 1 at cue 9. -/
def cueing (r : Run) (cue : CueRec) : State :=
  let tables : Tables := { Tables.empty with
    scenes := [(3, { scene 5 0b100 with axisMask := 0b10, narration := true, cooldown := 30, zone := some 11 })]
    cues := [(9, ⟨1, .finish, Vector.replicate 6 0⟩), (r.cue, cue), (r.cue + 1, ⟨3, .finish, Vector.replicate 6 0⟩)]
    channels := [(2, { ChannelRec.empty with group := 2 })], looks := [(0, ⟨0, 2⟩)], pool := [(0, ⟨1, 200⟩), (1, ⟨2, 100⟩)]
    clips := [(40, ⟨[⟨0, 10, 500⟩, ⟨2, 20, 600⟩], true⟩)], zones := [(11, ⟨5, 200, 0, 5, 3⟩)]
    axes := [(1, ⟨-100, 100, 200, none, 100, 4⟩)] }
  let s := withRuns ((Vector.replicate 8 none).set 7 (some r))
    ⟨Claims.reset.groups.set 2 (.player 7), Claims.reset.axes.set 1 (some 7), Claims.reset.voices.set 0 (some 7)⟩
    (withShow .running tables)
  { s with
    engine := { s.engine with scenes := s.engine.scenes.set 3 ⟨.running, 0, false, none⟩ }
    monitor := { s.monitor with zones := s.monitor.zones.set 11 ⟨.clear, 0, 2, false, none⟩ } }

theorem cueing_player (r : Run) (cue : CueRec) :
    (cueing r cue).inReset = false ∧ (cueing r cue).engine.players[(7 : Fin 8)] = some r
    ∧ (cueing r cue).engine.queue = [] ∧ ((cueing r cue).engine.scenes[(3 : Fin 64)]).again = false
    ∧ (cueing r cue).engine.house = false := ⟨rfl, rfl, rfl, rfl, rfl⟩

/-- The cue of these bytes is at the pointer, with delays behind it and at cue 9 that are not 0. -/
def cued (kind : CueKind) (operands : Vector Byte 6) (cue : Cue) : Bool :=
  let s := cueing atCue ⟨0, kind, operands⟩
  decide ((s.store.tables.cue 100).cue? = some cue) && decide ((s.store.tables.cue 101).delay ≠ 0)
    && decide ((s.store.tables.cue 9).delay ≠ 0)

/-- The part with axis 1 or voice 0 otherwise. -/
def withCued (x : Axis) (v : Voice) (s : State) : State :=
  { s.setAxis 1 x with sound := { s.sound with voices := s.sound.voices.set 0 v } }

/-- Sixteen MARKs without a delay up to cue 2046, and a delay of 0 behind them. -/
def marking : State :=
  let s := cueing { atCue with cue := 2031 } CueRec.empty
  s.setTables { s.store.tables with
    cues := (List.range 16).map fun k => (2031 + k, ⟨0, .mark, #v[BitVec.ofNat 8 k, 0, 0, 0, 0, 0]⟩) }

/-- END is due with the again flag set; with `shut` the scene needs a group in direct control. -/
def ending (shut : Bool) : State :=
  let s := cueing atCue CueRec.empty
  { s with
    frame := some 9
    store := { s.store with tables := { s.store.tables with
      scenes := [(3, { scene 5 (if shut then 0b1100 else 0b100) with axisMask := 0b10, narration := true })] } }
    engine := { s.engine with
      scenes := s.engine.scenes.set 3 ⟨.running, 0, true, none⟩
      claims := { s.engine.claims with groups := s.engine.claims.groups.set 3 .direct } } }

theorem ending_readmissible : (ending false).Readmissible 7 atCue 0 (some 0) := by
  unfold State.Readmissible; decide

theorem ending_shutOut : (ending true).ShutOut 3 := by
  unfold State.ShutOut; decide

/-- Player 7 runs scene 3 in this phase, with this cue at 2046 and a delay of 1 behind it. -/
def inPhase (phase : Phase) (cue : CueRec) (frame : Option Nat) : State :=
  let r : Run := { run 3 5 1 with cue := 2046, phase := phase, voice := some 0, frame := frame }
  let tables : Tables := { Tables.empty with cues := [(9, ⟨1, .finish, #v[0, 0, 0, 0, 0, 0]⟩), (2046, cue),
    (2047, ⟨1, .finish, #v[0, 0, 0, 0, 0, 0]⟩)] }
  withRuns ((Vector.replicate 8 none).set 7 (some r)) Claims.reset (withShow .running tables)

/-- A MARK of code 5. -/
def markCue : CueRec := ⟨0, .mark, #v[5, 0, 0, 0, 0, 0]⟩

theorem witness_DelaysCountAndCuesExecute :
    (inPhase (.delaying 1) markCue none).inReset = false ∧ (inPhase (.delaying 1) markCue none).engine.players[(0 : Fin 8)] = none
    ∧ ((inPhase (.delaying 1) markCue none).engine.players[(7 : Fin 8)]).map (fun r => (r.phase, r.frame))
        = some (.delaying 1, none)
    ∧ ((inPhase (.delaying 2) markCue none).engine.players[(7 : Fin 8)]).map (·.phase) = some (.delaying 2)
    ∧ ((inPhase (.delaying 2) markCue (some 9)).engine.players[(7 : Fin 8)]).map (·.frame) = some (some 9)
    ∧ ((inPhase (.delaying 0) markCue none).store.tables.cue 2046).cue? = some (.mark 5)
    ∧ (2047 : Fin 2048).val = (2046 : Fin 2048).val + 1 ∧ ((inPhase (.delaying 0) markCue none).store.tables.cue 2047).delay ≠ 0
    ∧ ((inPhase (.delaying 0) CueRec.empty none).store.tables.cue 2046).cue? = some .finish
    ∧ (inPhase (.delaying 0) CueRec.empty none).engine.queue = []
    ∧ ((inPhase (.delaying 0) CueRec.empty none).engine.scenes[(3 : Fin 64)]).again = false
    ∧ cued .loop #v[4, 0, 0, 0, 0, 0] (.loop 4) = true ∧ cued .next #v[0, 0, 0, 0, 0, 0] .next = true
    ∧ cued .lamp #v[15, 0xFF, 0, 0, 0, 0] (.lamp 15 .auto) = true ∧ cued .goto #v[9, 0, 0, 0, 0, 0] (.goto (9 : Fin 2048).val) = true
    ∧ cued .goto #v[0, 8, 0, 0, 0, 0] (.goto 2048) = true ∧ atCue.loops.length < 4
    ∧ (∀ count ∈ [0, 1, 2], ({ atCue with loops := [] ++ [⟨8, count⟩] } : Run).loops = [] ++ [⟨8, count⟩])
    ∧ (9 : Fin 2048).val = (8 : Fin 2048).val + 1 ∧ (2047 : Fin 2048).val = (2031 : Fin 2048).val + 16
    ∧ (∀ k : Fin 16, (marking.store.tables.cue (Fin.ofNat 2048 (2031 + k.val))).cue? = some (.mark k.val))
    ∧ (∀ k : Fin 16, (marking.store.tables.cue (Fin.ofNat 2048 (2032 + k.val))).delay = 0)
    ∧ ((cueing { atCue with cue := 2047 } markCue).store.tables.cue 2047).cue? = some (.mark 5)
    ∧ 4 ≤ ({ atCue with loops := List.replicate 4 ⟨8, 0⟩ } : Run).loops.length
    ∧ (∀ shut : Bool, ((ending shut).engine.scenes[(3 : Fin 64)]).again = true ∧ (ending shut).engine.house = false
        ∧ (ending shut).engine.queue = [] ∧ (ending shut).engine.players[(7 : Fin 8)] = some atCue
        ∧ ((ending shut).store.tables.cue 100).cue? = some .finish) := by decide +kernel

/-- An await of zone 11 OCCUPIED or CLEAR with its timeout and target 9. -/
def await (clear : Bool) (timeout : Option Nat) : Await :=
  ⟨if clear then .zoneClear 11 else .zoneOccupied 11, 11, timeout, 9, false⟩

/-- AWAIT 1 (axis 1 of the operand given) is due, with a timeout of 5 to cue 9, with axis 1 in this state. -/
def awaitingAxis (a : Byte) (x : AxisState) : State :=
  withCued (at50 x true) Voice.reset (cueing atCue ⟨0, .await, #v[1, a, 5, 0, 9, 0]⟩)

theorem witness_AwaitsEndOrTimeOut :
    (inPhase (.awaiting (await false (some 1))) markCue none).inReset = false
    ∧ ((inPhase (.awaiting (await false (some 1))) markCue none).engine.players[(7 : Fin 8)]).map (fun r => (r.phase, r.frame))
        = some (.awaiting (await false (some 1)), none)
    ∧ (inPhase (.awaiting (await false (some 1))) markCue none).testAwait 7 (some 0) false (.zoneOccupied 11) = .waits
    ∧ (await false none).timeout = none ∧ (await false (some 2)).timeout = some 2 ∧ (await false (some 1)).timeout = some 1
    ∧ ((inPhase (.awaiting (await false (some 1))) markCue none).store.tables.cue 9).delay ≠ 0
    ∧ (inPhase (.awaiting (await true none)) markCue none).testAwait 7 (some 0) false (.zoneClear 11) = .holds
    ∧ ((inPhase (.awaiting (await true none)) markCue none).store.tables.cue 2047).delay ≠ 0
    ∧ (some 0 : Option (Fin 4)) = some 0
    ∧ ((awaitingAxis 1 .moving).store.tables.cue 100).cue? = some (.await (.axisDone 1) 1 5 9)
    ∧ ((awaitingAxis 2 .moving).store.tables.cue 100).cue? = some (.await (.axisDone 2) 2 5 9)
    ∧ (awaitingAxis 2 .moving).engine.claims.axes[(2 : Fin 8)] ≠ some 7
    ∧ (awaitingAxis 1 .moving).engine.claims.axes[(1 : Fin 8)] = some 7
    ∧ (awaitingAxis 1 .fault).testAwait 7 (some 0) false (.axisDone 1) = .fails
    ∧ (awaitingAxis 1 .moving).testAwait 7 (some 0) false (.axisDone 1) = .waits
    ∧ (awaitingAxis 1 .idle).testAwait 7 (some 0) false (.axisDone 1) = .holds
    ∧ (awaitingAxis 1 .fault).testAwait 7 (some 0) false .axesDone = .fails := by decide +kernel

/-- Whether a cue's effect is that its player goes on, or that it waits. -/
def goesOn : CueEffect → Bool
  | .goes .. => true
  | .awaits .. | .blocks | .stops .. => false

/-- Whether a cue's effect is that its player waits. -/
def waitsOn : CueEffect → Bool
  | .awaits .. => true
  | .goes .. | .blocks | .stops .. => false

theorem witness_CuesActOnlyOnClaims :
    goesOn ((inPhase (.delaying 0) markCue none).execCue 7 { run 3 5 1 with cue := 2046 }) = true
    ∧ waitsOn ((inPhase (.delaying 0) ⟨0, .await, #v[4, 11, 0, 0, 9, 0]⟩ none).execCue 7 { run 3 5 1 with cue := 2046 })
        = true
    ∧ cued .light #v[127, 6, 0, 20, 0, 1] (.light 127 6 20 .stepped8) = true
    ∧ cued .level #v[47, 100, 20, 0, 0, 1] (.level 47 100 20) = true
    ∧ cued .master #v[15, 100, 0, 0, 0, 1] (.master 15 100 0) = true ∧ cued .say #v[255, 0, 0, 0, 0, 0] (.say 255) = true
    ∧ cued .hush #v[0, 0, 0, 0, 0, 0] .hush = true ∧ cued .move #v[1, 60, 0, 0, 0, 0xFF] (.move 1 60 none) = true
    ∧ cued .move #v[1, 60, 0, 0, 0, 15] (.move 1 60 (some 15)) = true ∧ cued .home #v[1, 0, 0, 0, 0, 0] (.home 1) = true
    ∧ cued .home #v[2, 0, 0, 0, 0, 0] (.home 2) = true
    ∧ (let s := cueing atCue CueRec.empty
       s.engine.claims.groups[(s.store.tables.channel 2).group] = .player 7
       ∧ s.engine.claims.groups[(s.store.tables.channel 47).group] ≠ .player 7
       ∧ s.engine.claims.groups[(2 : Fin 16)] = .player 7 ∧ s.engine.claims.groups[(15 : Fin 16)] ≠ .player 7
       ∧ s.engine.claims.axes[(1 : Fin 8)] = some 7 ∧ s.engine.claims.axes[(2 : Fin 8)] ≠ some 7
       ∧ (s.sound.voices[(0 : Fin 4)]).state = .idle ∧ (s.store.tables.scene 3).zone = some 11
       ∧ (s.store.tables.clip 40).variants[1]? = some ⟨2, 20, 600⟩ ∧ (s.monitor.zones[(11 : Fin 12)]).language = 2
       ∧ (s.store.tables.clip 40).variants[0]? = some ⟨0, 10, 500⟩
       ∧ (∀ y ∈ (s.store.tables.clip 40).variants, y.language ≠ 3)
       ∧ ∀ x ∈ [AxisState.idle, .held, .unhomed, .moving, .homing],
           let y := withCued (at50 x true) Voice.reset s
           ((y.motion.axes[(1 : Fin 8)]).takeMove? y.store.tables (y.store.tables.axis 1) false ⟨60, 4⟩).isSome = true
           ∧ ((y.motion.axes[(1 : Fin 8)]).takeHome? (y.store.tables.axis 1) false).isSome = true)
    ∧ ({ atCue with voice := none } : Run).voice = none ∧ ({ atCue with phase := .blocked } : Run).phase = .blocked
    ∧ ((withCued (at50 .stopping true) (voiceIn .fading [] 1) standby).sound.voices[(0 : Fin 4)]).state ≠ .idle
    ∧ ((withCued (at50 .stopping true) (voiceIn .fading [] 1) standby).motion.axes[(1 : Fin 8)]).state = .stopping
    ∧ ({ at50 .fault false with cause := some .estop } : Axis).cause = some .estop := by decide +kernel

/-! ### Witnesses: Lighting Engine -/

theorem witness_DirectLevelsStartFades :
    (asking 0x10 [47, 255, 0, 0, 1] standby).RequestNext 0x10 [47, 255, 0, 0, 1] []
    ∧ (asking 0x10 [48, 255, 0, 0, 0] standby).RequestNext 0x10 [48, 255, 0, 0, 0] []
    ∧ (asking 0x10 [47, 255, 0, 0, 2] standby).RequestNext 0x10 [47, 255, 0, 0, 2] []
    ∧ (asking 0x10 [47, 255, 0, 0, 1] (direct standby)).RequestNext 0x10 [47, 255, 0, 0, 1] []
    ∧ (47 : Byte).toNat = (47 : Fin 48).val ∧ (1 : Byte).toNat = FadeCurve.stepped8.code
    ∧ standby.engine.claims.groups[(standby.store.tables.channel 47).group] ≠ .direct
    ∧ (direct standby).engine.claims.groups[((direct standby).store.tables.channel 47).group] = .direct
    ∧ (asking 0x11 [0, 255, 0, 0] (direct standby)).RequestNext 0x11 [0, 255, 0, 0] []
    ∧ (asking 0x11 [16, 255, 0, 0] standby).RequestNext 0x11 [16, 255, 0, 0] []
    ∧ (asking 0x11 [15, 255, 0, 0] loading).RequestNext 0x11 [15, 255, 0, 0] []
    ∧ (direct standby).engine.claims.groups[(15 : Fin 16)] ≠ .direct :=
  ⟨(asked _ _).1, (asked _ _).1, (asked _ _).1, asking_next _ _ _ rfl rfl, by decide, by decide, by decide, by decide,
   asking_next _ _ _ rfl rfl, (asked _ _).1, (asked _ _).2.1, by decide⟩

/-- STANDBY with two SET GRAND requests waiting. -/
def grand : State :=
  { standby with link := { standby.link with requests := [⟨0x12, [128]⟩, ⟨0x12, [7]⟩] } }

theorem witness_GrandMasterIsSet :
    (asking 0x12 [255] loading).RequestNext 0x12 [255] [] ∧ grand.RequestNext 0x12 [128] [⟨0x12, [7]⟩]
    ∧ grand.store.mode ≠ .loading ∧ exec .setGrand grand = .next (ran .setGrand grand)
    ∧ (ran .setGrand grand).RequestNext 0x12 [7] []
    ∧ exec .setGrand (ran .setGrand grand) = .next (ran .setGrand (ran .setGrand grand)) ∧ grand.light.frame ≠ some 1 :=
  ⟨(asked _ _).2.1, ⟨rfl, rfl, rfl⟩, by decide, rfl, ⟨rfl, rfl, rfl⟩, rfl, by decide⟩

/-- SHOW with the attract cycle running over two slots, and this hold. -/
def attracting (hold : Nat) : State :=
  let tables : Tables := { Tables.empty with
    slotCount := 2, groups := [(0, ⟨true, 100⟩)], looks := [(0, ⟨0, 1⟩)], pool := [(0, ⟨1, 200⟩)] }
  { withShow .running tables with
    store := { Store.reset with mode := .running, attractOn := true, tables := tables }
    light := { Lighting.reset with hold := hold } }

theorem witness_LightingFrameStepsEveryFade :
    standby.inReset = false ∧ standby.light.frame ≠ some 1 ∧ standby.store.attractRunning = false
    ∧ (attracting 2).inReset = false ∧ (attracting 2).light.frame ≠ some 1 ∧ 1 < (attracting 2).light.hold
    ∧ (ran (.lightingFrameEvent 1) standby).light.frame = some 1 := by decide

theorem witness_AttractEntersTheNextSlot :
    (attracting 1).inReset = false ∧ (attracting 1).light.frame ≠ some 1 ∧ (attracting 1).store.attractRunning = true
    ∧ (attracting 1).light.hold ≤ 1 ∧ 1 < (attracting 2).light.hold ∧ standby.store.attractRunning = false
    ∧ (∀ e ∈ (attracting 1).store.tables.lookEntries 0, e.channel ≠ 2)
    ∧ ((attracting 1).store.tables.group 1).attract = false
    ∧ (direct (attracting 1)).engine.claims.groups[(0 : Fin 16)] ≠ .none
    ∧ (attracting 1).store.tables.slotCount = 2 ∧ (attracting 1).light.slot.val = 0
    ∧ ((attracting 1).store.tables.group ((attracting 1).store.tables.channel 1).group).attract = true
    ∧ (attracting 1).engine.claims.groups[((attracting 1).store.tables.channel 1).group] = .none
    ∧ ((attracting 1).store.tables.lookEntries ((attracting 1).store.tables.slot 1).look).filter
        (fun y => decide (y.channel = 1)) = [⟨1, 200⟩] := by decide

theorem witness_FadesArriveAtTheirTarget :
    (let x : Fade := ⟨0, 257, 1000, 999, .linear, 256⟩; 0 < x.length ∧ x.elapsed + 1 = x.length)
    ∧ (let x : MasterFade := ⟨255, 0, 1, 0, 255⟩; 0 < x.length ∧ x.elapsed + 1 = x.length)
    ∧ 0 < 1 ∧ 0 < 3 ∧ 2 < 3 ∧ 0 ≤ 65535 := by decide

theorem witness_OutputCurvesShapeTheLevel : 0 < 65534 ∧ 65534 < 65535 ∧ 1 ≤ 255 ∧ 255 ≤ 255 := by decide

theorem witness_DutiesStayBetweenFloorAndCeiling :
    (⟨0, .square, 40, 4000, 0, true, none, .or, .edge, none⟩ : ChannelRec).floor ≤ 4000
    ∧ 65535 ≤ 65535 ∧ 255 ≤ 255 ∧ 65534 ≤ 65535 := by decide

theorem witness_PwmFollowsTheStagedDuty :
    standby.inReset = false ∧ 4095 < 4096 ∧ 1 ≤ 1 ∧ 1 ≤ 4094 ∧ 4094 ≤ 4094
    ∧ ({ Channel.reset 47 with active := ⟨4095, false⟩ } : Channel).active.duty ≤ 4095 := by decide

theorem witness_CarriersDecideTheirPhase :
    (⟨.flicker, 255, 254⟩ : CarrierRec).mode = .flicker ∧ 2 ≤ 255 ∧ 255 ≤ 255 ∧ 1 ≤ 254 ∧ 254 < 255
    ∧ (⟨.square, 2, 1⟩ : CarrierRec).mode = .square ∧ CarrierRec.empty.mode = .off ∧ (0xACE1 : BitVec 16) ≠ 0
    ∧ (⟨.flicker, 255, 1⟩ : CarrierRec).threshold ≤ (⟨.flicker, 255, 254⟩ : CarrierRec).threshold
    ∧ (⟨.flicker, 255, 1⟩ : CarrierRec).onPhase 0 0xFF00 = true := by decide

/-! ### Witnesses: Sound Engine -/

/-- SHOW with bed 1 playing clip 7, which a burst feeds. -/
def bedded : State :=
  let bed : Bed := { Bed.reset with clip := some 7, state := .playing, feed := ⟨0, 500, [1], 0, 600, true⟩ }
  { withShow .running Tables.empty with
    sound := { Sound.reset with beds := Sound.reset.beds.set 1 bed, flight := some (.stream 5 0 64 false) } }

theorem witness_BedsAreSet :
    (asking 0x13 [3, 255, 0, 200] standby).RequestNext 0x13 [3, 255, 0, 200] []
    ∧ (asking 0x13 [4, 255, 0, 200] standby).RequestNext 0x13 [4, 255, 0, 200] []
    ∧ (asking 0x13 [3, 0, 1, 200] standby).RequestNext 0x13 [3, 0, 1, 200] []
    ∧ (asking 0x13 [3, 0, 1, 200] loading).RequestNext 0x13 [3, 0, 1, 200] []
    ∧ (asking 0x13 [1, 7, 0, 200] bedded).RequestNext 0x13 [1, 7, 0, 200] []
    ∧ (asking 0x13 [1, 8, 0, 200] bedded).RequestNext 0x13 [1, 8, 0, 200] []
    ∧ (asking 0x13 [1, 0xFF, 0xFF, 200] bedded).RequestNext 0x13 [1, 0xFF, 0xFF, 200] []
    ∧ (255 : Byte).toNat + 256 * (0 : Byte).toNat = (255 : Fin 256).val
    ∧ (0xFF : Byte).toNat + 256 * (0xFF : Byte).toNat = 65535 ∧ (0 : Byte).toNat + 256 * (1 : Byte).toNat = 256
    ∧ (bedded.sound.beds[(1 : Fin 4)]).clip = some 7 ∧ (bedded.sound.beds[(1 : Fin 4)]).playing = true :=
  ⟨(asked _ _).1, (asked _ _).1, (asked _ _).1, (asked _ _).2.1, asking_next _ _ _ rfl rfl, asking_next _ _ _ rfl rfl,
   asking_next _ _ _ rfl rfl, by decide⟩

/-- A part with this voice 0 and bed 0. -/
def sounding (v : Voice) (b : Bed) (flight : Option Flight) : State :=
  { withShow .running Tables.empty with sound := { Sound.reset with
      voices := Sound.reset.voices.set 0 v, beds := Sound.reset.beds.set 0 b, flight := flight } }

/-- A bed in a state, with these bytes buffered and left. -/
def bedIn (x : BedState) (buffer : List Byte) (left : Nat) : Bed :=
  { Bed.reset with state := x, feed := ⟨0, left, buffer, 0, 600, true⟩ }

theorem witness_SampleEventTakesAndMixes :
    (sounding (voiceIn .playing [1] 0) (bedIn .playing [1] 1) none).inReset = false
    ∧ (voiceIn .playing [1] 0).feed.buffer = 1 :: [] ∧ (voiceIn .playing [1] 0).feed.left = 0
    ∧ 0 < (voiceIn .playing [1] 1).feed.left ∧ (voiceIn .playing [1, 2] 0).feed.buffer = 1 :: [2]
    ∧ (voiceIn .fading [1] 0).state = .fading ∧ (voiceIn .playing [] 0).feed.buffer = []
    ∧ (voiceIn .stalled [1] 0).state ≠ .playing ∧ (voiceIn .stalled [1] 0).state ≠ .fading
    ∧ (bedIn .playing [1] 1).feed.buffer = 1 :: [] ∧ (bedIn .stalled [1] 1).state ≠ .playing := by decide

theorem witness_SoundFrameCountsStages :
    (sounding { voiceIn .fading [] 0 with fade := 7 } Bed.reset none).inReset = false
    ∧ ({ voiceIn .fading [] 0 with fade := 7 } : Voice).frame ≠ some 1
    ∧ 7 ≤ ({ voiceIn .fading [] 0 with fade := 7 } : Voice).fade
    ∧ 49 ≤ ({ voiceIn .stalled [] 9 with stall := 49 } : Voice).stall
    ∧ (sounding Voice.reset { bedIn .playing [] 0 with stage := 1, timer := 9 } none).store.mode = .running
    ∧ (Bed.envelope { bedIn .playing [] 0 with stage := 1, timer := 9 } false 10).stage ≠ 1 := by decide

theorem witness_BurstCompletionFeedsTheStream :
    standby.sound.flight = none
    ∧ (sounding Voice.reset Bed.reset (some (.stream 0 0 64 true))).sound.flight = some (.stream 0 0 64 true)
    ∧ (0 : Fin 8).val = (0 : Fin 4).val ∧ (7 : Fin 8).val = 4 + (3 : Fin 4).val
    ∧ (sounding (voiceIn .priming (List.replicate 255 0) 9) Bed.reset (some (.stream 0 0 1 false))).sound.flight
        = some (.stream 0 0 ([0] : List Byte).length false)
    ∧ 256 ≤ (voiceIn .priming (List.replicate 255 0) 9).feed.buffer.length + ([0] : List Byte).length
    ∧ 128 ≤ (voiceIn .stalled (List.replicate 127 0) 9).feed.buffer.length + ([0] : List Byte).length
    ∧ (sounding Voice.reset (bedIn .stalled [] 1) (some (.stream 4 0 1 false))).sound.flight
        = some (.stream 4 0 ([0] : List Byte).length false)
    ∧ (bedIn .stalled [] 1).feed.left ≤ ([0] : List Byte).length := by decide +kernel

theorem witness_ArbiterServesTheLowestFill :
    Sound.reset.flight = none ∧ (∀ v : Fin 4, (Sound.reset.voices[v]).state = .idle)
    ∧ (∀ b : Fin 4, (Sound.reset.beds[b]).state = .off)
    ∧ (sounding (voiceIn .priming [] 1) Bed.reset none).sound.flight = none
    ∧ (let x := (sounding (voiceIn .fading (List.replicate 256 0) 1) (bedIn .stalled [] 1) none).sound
       (x.voices[Fin.ofNat 4 0]).state ≠ .idle ∧ (x.voices[Fin.ofNat 4 0]).feed.buffer.length ≤ 256
       ∧ 0 < (x.voices[Fin.ofNat 4 0]).feed.left ∧ (x.beds[Fin.ofNat 4 4]).state = .stalled
       ∧ (x.beds[Fin.ofNat 4 4]).feed.buffer.length ≤ 256 ∧ 0 < (x.beds[Fin.ofNat 4 4]).feed.left)
    ∧ ¬ (voiceIn .playing (List.replicate 257 0) 1).feed.buffer.length ≤ 256
    ∧ ¬ 0 < (voiceIn .playing [] 0).feed.left ∧ (bedIn .ended [] 1).state = .ended
    ∧ ({ Sound.reset with flight := some .image } : Sound).flight = some .image := by decide +kernel

/-! ### Witnesses: Motion Engine -/

/-- The part of the worked move with axis 4 in this state. -/
def axisIn (x : Axis) : State := withAxis 4 x worked

theorem axisIn_asked (x : Axis) (kind : Byte) (payload : List Byte) :
    (asking kind payload (axisIn x)).RequestNext kind payload [] := asking_next _ _ _ rfl rfl

theorem witness_LinkMovesAndHomesAxes :
    (∀ x, (asking 0x16 [4, 50, 0, 0, 0, 15] (axisIn x)).RequestNext 0x16 [4, 50, 0, 0, 0, 15] [])
    ∧ (asking 0x16 [8, 0, 0, 0, 0, 0] standby).RequestNext 0x16 [8, 0, 0, 0, 0, 0] []
    ∧ (asking 0x16 [7, 0x41, 0x42, 0x0F, 0, 0] standby).RequestNext 0x16 [7, 0x41, 0x42, 0x0F, 0, 0] []
    ∧ getS32 [7, 0x41, 0x42, 0x0F, 0, 0] 1 = 1000001 ∧ getS32 [7, 0xC0, 0xBD, 0xF0, 0xFF, 0xFF] 1 = -1000000
    ∧ (asking 0x16 [0, 0, 0, 0, 0, 0] loading).RequestNext 0x16 [0, 0, 0, 0, 0, 0] [] ∧ loading.store.mode ≠ .standby
    ∧ (axisIn (at50 .idle true)).store.mode = .standby ∧ (axisIn (at50 .idle true)).holdPresent 4 = false
    ∧ ((axisIn (at50 .idle true)).store.tables.axis 4).limit (getS32 [4, 50, 0, 0, 0, 15] 1) = (at50 .idle true).position
    ∧ ((axisIn (at50 .idle true)).store.tables.axis 4).limit (getS32 [4, 49, 0, 0, 0, 15] 1) ≠ (at50 .idle true).position
    ∧ ({ axisIn (at50 .idle true) with motion := { (axisIn (at50 .idle true)).motion with house := true } } : State).holdPresent 4
        = true
    ∧ (∀ x, (asking 0x17 [4] (axisIn x)).RequestNext 0x17 [4] [])
    ∧ (asking 0x17 [8] standby).RequestNext 0x17 [8] []
    ∧ ({ at50 .fault false with cause := some .estop } : Axis).cause = some .estop
    ∧ ({ at50 .fault false with cause := some .limit } : Axis).cause ≠ some .estop
    ∧ getS32 [4, 0x40, 0x42, 0x0F, 0, 0] 1 = 1000000 ∧ (15 : Byte).toNat = (15 : Fin 16).val
    ∧ (let p := (axisIn (movingAt50 100 500 .positive)).store.tables.profile 0
       500 * 500 / (2000 * p.accel) < (100 - 50 : Int).natAbs ∧ ¬ 10000 * 10000 / (2000 * p.accel) < (100 - 50 : Int).natAbs)
    ∧ (movingAt50 100 500 .positive).target = some 100 ∧ (movingAt50 100 500 .positive).dir = .positive
    ∧ (movingAt50 0 500 .negative).target ≠ some 49 ∧ (movingAt50 0 500 .negative).dir = .negative
    ∧ (stoppingAt50 true .held .home).ending = some .held ∧ (stoppingAt50 true .next .home).ending ≠ some .held
    ∧ (heldAt50 1 .home).follow = some .home ∧ (heldAt50 1 (.move ⟨50, 0⟩)).follow ≠ some .home
    ∧ ({ heldAt50 1 .home with homed := false } : Axis).homed = false :=
  ⟨fun _ => axisIn_asked .., (asked _ _).1, (asked _ _).1, by decide, by decide, (asked _ _).2.1, by decide, by decide,
   by decide, by decide, by decide, by decide, fun _ => axisIn_asked .., (asked _ _).1, by decide⟩

/-- Axis 4 MOVING, claimed by player 7 in this phase at a HOME of it. -/
def owned (phase : Phase) : State :=
  let s := cueing { atCue with phase := phase } ⟨0, .home, #v[4, 0, 0, 0, 0, 0]⟩
  { s.setAxis 4 (movingAt50 100 0 .positive) with
    engine := { s.engine with claims := { s.engine.claims with axes := s.engine.claims.axes.set 4 (some 7) } } }

theorem witness_ProfileIntervalMovesTheAxis :
    (axisIn (at50 .idle true)).inReset = false ∧ (at50 .homing false).pendingMove = none
    ∧ ({ at50 .homing false with pendingMove := some ⟨200, 3⟩ } : Axis).pendingMove = some ⟨200, 3⟩
    ∧ 0 ≤ (50 - ((999 + 200) / 1000 : Nat) : Int) + (100 - (-100)) + 1000
    ∧ (axisIn (movingAt50 100 0 .positive)).engine.claims.axes[(4 : Fin 8)] = none
    ∧ (movingAt50 0 500 .negative).dir = .negative ∧ 0 < (movingAt50 0 500 .negative).position
    ∧ (movingAt50 100 0 .positive).target = some 100 ∧ (movingAt50 100 0 .positive).profile = some 0
    ∧ (movingAt50 100 0 .positive).position < 100
    ∧ 100 ≤ ((axisIn (movingAt50 100 0 .positive)).store.tables.axis 4).maxPos
    ∧ (let r := (axisIn (at50 .idle true)).store.tables.axis 4
       let p := (axisIn (at50 .idle true)).store.tables.profile 0
       r.limit 50 = 50 ∧ r.limit 60 ≠ 50 ∧ r.resume ≠ 0 ∧ min p.accel p.top < 501 ∧ (stoppingAt50 true .next .home).rate ≤ min p.accel p.top
       ∧ (60 - 50 : Int).natAbs ≤ (9900 + 500) / 1000 ∧ (0 + 500) / 1000 < (60 - 50 : Int).natAbs
       ∧ (r.maxPos - r.maxPos).toNat < 1 ∧ min (0 / 1000) 10 ≤ (r.maxPos - 50).toNat
       ∧ -1000 - (r.maxPos - r.minPos) - 1 + (r.maxPos - r.minPos) + 1000 < 0)
    ∧ ((movingAt50 100 0 .positive).dir = .positive ∧ (movingAt50 0 500 .negative).position ≠ 0)
    ∧ (stoppingAt50 true .idle .home).ending = some .idle ∧ (stoppingAt50 true .next .home).follow = some .home
    ∧ (stoppingAt50 false .held (.move ⟨60, 0⟩)).ending = some .held
    ∧ (stoppingAt50 false .next .home).ending ≠ some .held ∧ (stoppingAt50 false .held .home).homed = false
    ∧ (stoppingAt50 true .next .home).profile = some 0 ∧ (stoppingAt50 true .next .home).target = some 60
    ∧ (owned (.awaiting ⟨.axesDone, 2, none, 9, false⟩)).engine.claims.axes[(4 : Fin 8)] = some 7
    ∧ (owned (.delaying 5)).engine.queue = []
    ∧ ((owned (.delaying 5)).engine.players[(7 : Fin 8)]).map (·.phase) = some (.delaying 5)
    ∧ ((owned (.delaying 5)).engine.scenes[(3 : Fin 64)]).again = false
    ∧ ((owned .blocked).store.tables.cue 100).cue? = some (.home 4) := by decide +kernel

theorem witness_ResumeWaitsCount :
    (axisIn (heldAt50 1 .home)).inReset = false ∧ (heldAt50 1 .home).frame ≠ some 1 ∧ (heldAt50 1 .home).state = .held
    ∧ (heldAt50 1 .home).wait = some 1 ∧ (heldAt50 2 .home).wait = some 2 ∧ (heldAt50 1 .home).follow = some .home
    ∧ (heldAt50 1 (.move ⟨50, 0⟩)).follow = some (.move ⟨50, 0⟩) ∧ (heldAt50 1 (.move ⟨50, 0⟩)).homed = true
    ∧ ((axisIn (heldAt50 1 .home)).store.tables.axis 4).limit 50 = 50
    ∧ ((axisIn (heldAt50 1 .home)).store.tables.axis 4).limit 200 ≠ 50
    ∧ ({ at50 .idle true with frame := some 1 } : Axis).frame = some 1 ∧ (at50 .held true).wait = none
    ∧ ({ heldAt50 1 (.move ⟨200, 0⟩) with homed := false } : Axis).homed = false
    ∧ ({ heldAt50 1 (.move ⟨200, 0⟩) with homed := false } : Axis).follow = some (.move ⟨200, 0⟩) := by decide +kernel

/-! ### Witnesses: Zone Monitor -/

/-- STANDBY with these safety inputs. -/
def safetyIn (house estop : Safety) : State :=
  { standby with monitor := { Monitor.reset with house := house, estop := estop } }

/-- SHOW with scenes waiting, at the second sample of HOUSE released. -/
def rescanning : State :=
  { queued with monitor := { queued.monitor with house := ⟨true, 1, true, none⟩ },
                engine := { queued.engine with house := true } }

theorem witness_SafetyInputsArePublished :
    (safetyIn ⟨false, 1, true, none⟩ ⟨true, 1, true, none⟩).inReset = false
    ∧ (⟨false, 1, true, none⟩ : Safety).frame ≠ some 1 ∧ 1 ≤ (⟨false, 1, true, none⟩ : Safety).count
    ∧ ¬ 1 ≤ (⟨false, 0, true, none⟩ : Safety).count ∧ Safety.reset.published = false
    ∧ (safetyIn ⟨false, 1, true, none⟩ ⟨true, 1, true, none⟩).engine.queue = []
    ∧ (∀ a : Fin 8, (safetyIn Safety.reset ⟨false, 0, true, none⟩).engine.claims.axes[a] = none)
    ∧ (⟨true, 1, true, none⟩ : Safety).asserted ≠ false ∧ (⟨false, 0, true, none⟩ : Safety).asserted ≠ true
    ∧ (rescanning.inReset = false ∧ rescanning.monitor.house.published = true ∧ rescanning.monitor.house.asserted ≠ false
      ∧ 1 ≤ rescanning.monitor.house.count ∧ rescanning.engine.queue ≠ [] ∧ rescanning.store.mode = .running)
    ∧ (let s := cueing atCue markCue
       s.monitor.estop.published = false ∧ s.engine.claims.axes[(1 : Fin 8)] = some 7 ∧ s.engine.queue = []
       ∧ s.store.attractRunning = false ∧ (s.engine.scenes[(3 : Fin 64)]).again = false) := by decide +kernel

/-- STANDBY with languages 0 and 2 offered in zone 11. -/
def offering : State :=
  withShow .standby { Tables.empty with zones := [(11, ⟨5, 200, 0, 0b101, 0⟩)] }

theorem witness_LanguagesAndLampsAreSet :
    (asking 0x14 [11, 2] offering).RequestNext 0x14 [11, 2] [] ∧ (asking 0x14 [11, 3] offering).RequestNext 0x14 [11, 3] []
    ∧ (asking 0x14 [12, 0] offering).RequestNext 0x14 [12, 0] [] ∧ (asking 0x14 [11, 4] offering).RequestNext 0x14 [11, 4] []
    ∧ (asking 0x14 [11, 2] loading).RequestNext 0x14 [11, 2] []
    ∧ (offering.store.tables.zone 11).languages.getLsbD (2 : Fin 4) = true
    ∧ (offering.store.tables.zone 11).languages.getLsbD (3 : Fin 4) = false
    ∧ (11 : Byte).toNat = (11 : Fin 12).val ∧ (2 : Byte).toNat = (2 : Fin 4).val
    ∧ (asking 0x15 [15, 4] standby).RequestNext 0x15 [15, 4] [] ∧ (asking 0x15 [16, 0] standby).RequestNext 0x15 [16, 0] []
    ∧ (asking 0x15 [15, 5] standby).RequestNext 0x15 [15, 5] [] ∧ (asking 0x15 [15, 5] loading).RequestNext 0x15 [15, 5] []
    ∧ lampOperands? [15, 4] = some (15, .auto) :=
  ⟨asking_next _ _ _ rfl rfl, asking_next _ _ _ rfl rfl, asking_next _ _ _ rfl rfl, asking_next _ _ _ rfl rfl,
   (asked _ _).2.1, by decide, by decide, by decide, by decide, (asked _ _).1, (asked _ _).1, (asked _ _).1,
   (asked _ _).2.1, by decide⟩

/-- STANDBY with zone 11 in a state at a counter, with the empty record: 5 entry and 200 clear samples. -/
def zoneIn (x : ZoneState) (counter : Nat) : State :=
  { standby with monitor := { Monitor.reset with zones := Monitor.reset.zones.set 11 ⟨x, counter, 0, false, none⟩ } }

theorem witness_ZonesBecomeOccupiedAndClear :
    (zoneIn .entering 4).inReset = false ∧ ((zoneIn .entering 4).monitor.zones[(11 : Fin 12)]).frame ≠ some 1
    ∧ ((zoneIn .entering 4).monitor.zones[(11 : Fin 12)]).state = .entering
    ∧ ((zoneIn .entering 4).store.tables.zone 11).entry ≤ 4 + 1
    ∧ 3 + 1 < ((zoneIn .entering 3).store.tables.zone 11).entry
    ∧ ((zoneIn .emptying 199).monitor.zones[(11 : Fin 12)]).state = .emptying
    ∧ ((zoneIn .emptying 199).store.tables.zone 11).clear ≤ 199 + 1
    ∧ 198 + 1 < ((zoneIn .emptying 198).store.tables.zone 11).clear
    ∧ ((zoneIn .occupied 0).monitor.zones[(11 : Fin 12)]).state ≠ .entering
    ∧ (let s := asking 0x0B [3] (inState .ready false (scene 5 0))
       s.inReset = false ∧ s.link.requests = [⟨0x0B, [3]⟩] ∧ s.link.replies = [] ∧ (3 : Byte).toNat = (3 : Fin 64).val
       ∧ s.store.mode = .running)
    ∧ (movingAt50 100 500 .positive).target = some 100 ∧ (movingAt50 100 500 .positive).profile = some 0
    ∧ (stoppingAt50 true .next .home).ending = some .next ∧ (stoppingAt50 true .idle .home).ending ≠ some .next
    ∧ (heldAt50 1 (.move ⟨50, 0⟩)).homed = true ∧ ({ heldAt50 1 (.move ⟨50, 0⟩) with homed := false } : Axis).homed = false
    ∧ ({ AxisRec.empty with minPos := -100, maxPos := 100, resume := 0 } : AxisRec).limit 50 = 50
    ∧ ({ AxisRec.empty with minPos := -100, maxPos := 100, resume := 0 } : AxisRec).limit 60 ≠ 50 := by decide +kernel

/-- STANDBY with button 15 of a function at the last sample of its debounce, in zone 11 of this language. -/
def buttonIn (function : ButtonFunction) (pressed : Bool) (languages : BitVec 4) (language : Fin 4) : State :=
  let tables : Tables := { Tables.empty with
    buttons := [(15, ⟨3, function, false, false⟩)], zones := [(11, ⟨5, 200, 0, languages, 0⟩)] }
  { withShow .standby tables with monitor := { Monitor.reset with
      seeded := true, buttons := Monitor.reset.buttons.set 15 ⟨pressed, 2, none⟩,
      zones := Monitor.reset.zones.set 11 ⟨.clear, 0, language, false, none⟩,
      lamps := Monitor.reset.lamps.set 15 { Lamp.reset with flash := 1 } } }

theorem witness_ButtonsActAndLampsFlash :
    (buttonIn .scene false 1 0).inReset = false ∧ (buttonIn .scene false 1 0).monitor.seeded = true
    ∧ ((buttonIn .scene false 1 0).monitor.buttons[(15 : Fin 16)]).frame ≠ some 1
    ∧ ((buttonIn .scene false 1 0).store.tables.button 15).debounce ≤ 2 + 1
    ∧ ((buttonIn .scene false 1 0).store.tables.button 15).function = .scene
    ∧ ((buttonIn (.language 11) false 0b101 0).store.tables.button 15).function = .language 11
    ∧ ((buttonIn (.language 11) false 0b101 0).store.tables.zone 11).languages.getLsbD (2 : Fin 4) = true
    ∧ ((0 : Fin 4) < 2 ∧ ∀ k : Fin 4, 0 < k →
        ((buttonIn (.language 11) false 0b101 0).store.tables.zone 11).languages.getLsbD k = true → 2 ≤ k)
    ∧ ((0 : Fin 4) < 2 ∧ ∀ k : Fin 4,
        ((buttonIn (.language 11) false 0b101 2).store.tables.zone 11).languages.getLsbD k = true → k ≤ 2 ∧ 0 ≤ k)
    ∧ (∀ k : Fin 4, ((buttonIn (.language 11) false 0b1000 3).store.tables.zone 11).languages.getLsbD k = true →
        k = ((buttonIn (.language 11) false 0b1000 3).monitor.zones[(11 : Fin 12)]).language)
    ∧ ((buttonIn .scene true 1 0).monitor.buttons[(15 : Fin 16)]).pressed = true
    ∧ ((buttonIn .scene true 1 0).monitor.lamps[(15 : Fin 16)]).flash = 1
    ∧ ((buttonIn .scene true 1 0).monitor.lamps[(15 : Fin 16)]).frame ≠ some 1 := by decide

theorem witness_InputSampleStepsEveryUnit :
    (zoneIn .entering 4).inReset = false ∧ (zoneIn .entering 4).monitor.frame ≠ some 1
    ∧ (cueing atCue markCue).inReset = false ∧ (cueing atCue markCue).store.mode = .running
    ∧ (cueing atCue markCue).monitor.frame ≠ some 1 ∧ (cueing atCue markCue).monitor.seeded = false
    ∧ ((zoneIn .entering 4).monitor.zones[(11 : Fin 12)]).frame ≠ some 1
    ∧ ((zoneIn .entering 4).monitor.buttons[(15 : Fin 16)]).frame ≠ some 1
    ∧ ((zoneIn .entering 4).monitor.lamps[(15 : Fin 16)]).frame ≠ some 1
    ∧ (safetyIn ⟨false, 1, true, none⟩ ⟨true, 1, true, none⟩).monitor.house.published = true
    ∧ (safetyIn ⟨false, 1, true, none⟩ ⟨true, 1, true, none⟩).monitor.estop.published = true
    ∧ (safetyIn ⟨false, 1, true, none⟩ ⟨true, 1, true, none⟩).monitor.house.frame ≠ some 1 := by decide

/-! ### Witnesses: what every step keeps -/

/-- A part at work: scene 3 on player 7 with axis 4 and group 2, scene 4 waiting, a fade half done, voice 0 playing, axis
4 IDLE at 50 within its limits, axis 2 HELD, and zone 2, its guard, OCCUPIED; and a request to carry out. -/
def atWork : State :=
  let s := axisIn (at50 .idle true)
  { s with
    pending := [.setGrand]
    link := { Link.reset with requests := [⟨0x12, [7]⟩], reports := [.house false], receiver := ⟨.check, 1, [2], 3⟩ }
    store := { s.store with mode := .running, triggersOn := true, tables := { s.store.tables with
      axes := [(2, ⟨0, 100, 200, some 2, 100, 0⟩), (4, ⟨-100, 100, 200, none, 100, 0⟩)] } }
    engine := { s.engine with
      queue := [⟨4, 5, .link, 0, 300, none⟩], players := (Vector.replicate 8 none).set 7 (some (run 3 5 1)),
      scenes := (s.engine.scenes.set 3 ⟨.running, 0, false, none⟩).set 4 ⟨.pending, 0, false, none⟩,
      claims := { Claims.reset with
        groups := Claims.reset.groups.set 2 (.player 7), axes := Claims.reset.axes.set 4 (some 7) } }
    light := { Lighting.reset with
      channels := Lighting.reset.channels.set 1 { Channel.reset 1 with fade := ⟨0, 51400, 100, 40, .linear, 20560⟩ } }
    sound := { Sound.reset with
      voices := Sound.reset.voices.set 0 (voiceIn .playing [1, 2] 9), flight := some (.stream 0 591 9 false) }
    motion := { s.motion with axes := s.motion.axes.set 2 { Axis.reset with state := .held, follow := some .home } }
    monitor := { Monitor.reset with zones := Monitor.reset.zones.set 2 ⟨.occupied, 0, 0, true, none⟩ } }

/-- The part after one step of the part at work. -/
def workedOn : State := match step atWork with
  | .next t => t
  | .fault _ => atWork
  | .refused _ => atWork

theorem atWork_steps : step atWork = .next workedOn := rfl

theorem atWork_receiver : atWork.link.receiver.Sound := by
  show 1 ≤ 1 ∧ 1 ≤ 200 ∧ ([2] : List Byte).length = 1 ∧ (3 : Byte) = BitVec.ofNat 8 1 + byteSum [2]
  decide

theorem witness_StepKeepsLinkBounded : step atWork = .next workedOn ∧ atWork.LinkBounded :=
  ⟨atWork_steps, atWork_receiver, by decide⟩

theorem witness_StepKeepsStoreSound :
    step atWork = .next workedOn ∧ atWork.TablesCanonical ∧ atWork.FlagsOffOutsideShow ∧ atWork.LoadsInLoading :=
  ⟨atWork_steps, by unfold State.TablesCanonical; decide, by unfold State.FlagsOffOutsideShow; decide,
   by unfold State.LoadsInLoading; decide⟩

theorem atWork_players : atWork.PlayersOrdered := by
  have own : ∀ (p : Fin 8), ∀ r ∈ atWork.engine.players[p],
      1 ≤ r.order ∧ r.order ≤ atWork.engine.running ∧ r.loops.length ≤ 4 := by decide
  have apart : ∀ (p q : Fin 8), ∀ r ∈ atWork.engine.players[p], ∀ x ∈ atWork.engine.players[q],
      r.order = x.order → p = q := by decide
  exact ⟨fun p r h => own p r h, fun p q r x h k e => apart p q r h x k e⟩

theorem atWork_scenes : atWork.ScenesAgree := by
  have runs (sc : Fin 64) : (∃ (p : Fin 8) (r : Run), atWork.engine.players[p] = some r ∧ r.scene = sc)
      ↔ ∃ p : Fin 8, (atWork.engine.players[p]).map (·.scene) = some sc := by simp only [Option.map_eq_some_iff]
  have apart : ∀ (p q : Fin 8), ∀ r ∈ atWork.engine.players[p], ∀ x ∈ atWork.engine.players[q],
      r.scene = x.scene → p = q := by decide
  refine ⟨fun sc => ?_, by decide, fun p q r x h k e => apart p q r h x k e⟩
  rw [runs]; revert sc; decide +kernel

theorem witness_StepKeepsEngineSound :
    step atWork = .next workedOn ∧ atWork.QueueOrdered ∧ atWork.ClaimsNamePlayers ∧ atWork.PlayersOrdered
    ∧ atWork.LoadsInLoading ∧ atWork.IdleOutsideShow ∧ atWork.ScenesAgree :=
  ⟨atWork_steps, by unfold State.QueueOrdered; decide, by unfold State.ClaimsNamePlayers; decide, atWork_players,
   by unfold State.LoadsInLoading; decide, by unfold State.IdleOutsideShow; decide, atWork_scenes⟩

theorem witness_StepKeepsFadesBetween :
    step atWork = .next workedOn ∧ atWork.FadesBetween ∧ atWork.FlickerRuns ∧ atWork.LoadsInLoading
    ∧ atWork.AttractRests :=
  ⟨atWork_steps, by unfold State.FadesBetween Between; decide +kernel, by unfold State.FlickerRuns; decide,
   by unfold State.LoadsInLoading; decide, by unfold State.AttractRests; decide⟩

theorem witness_StepKeepsSoundBounded : step atWork = .next workedOn ∧ atWork.SoundBounded :=
  ⟨atWork_steps, by decide, (fun _ _ _ h => by cases h; decide), by decide⟩

theorem witness_StepKeepsAxesSafe :
    step atWork = .next workedOn ∧ atWork.WithinSoftLimits ∧ atWork.HeldAxesStill ∧ atWork.EstopFaultsAxes :=
  ⟨atWork_steps, by unfold State.WithinSoftLimits; decide, by unfold State.HeldAxesStill; decide,
   by unfold State.EstopFaultsAxes; decide⟩

theorem witness_StepKeepsLanguagesOffered : step atWork = .next workedOn ∧ atWork.LanguagesOffered :=
  ⟨atWork_steps, by unfold State.LanguagesOffered; decide⟩

end Sys2Proof.Tests
end

section
/-! Proofs about the grand master (R92, R99) and the output curves (R94): what SET GRAND and the lighting frame event do
to the grand master and to the base duties formed with it, and the arithmetic of the SQUARE curve. -/

namespace Sys2Proof.Machine

/-! ### The grand master in the lighting operations -/

section Lighting

variable (l : Lighting) (t : Tables)

/-- R83: a look starts fades and leaves the grand master. -/
@[simp] theorem Lighting.applyLook_grand (look : Fin 128) (eligible : Fin 16 → Bool) (length : Nat) (curve : FadeCurve) :
    (l.applyLook t look eligible length curve).grand = l.grand := by
  unfold Lighting.applyLook
  induction t.lookEntries look generalizing l with
  | nil => rfl
  | cons e es ih =>
    rw [List.foldl_cons, ih]
    split
    · exact l.startFade_grand ..
    · rfl

@[simp] theorem Lighting.enterSlot_grand (claims : Claims) (slot : Fin 16) :
    (l.enterSlot t claims slot).grand = l.grand :=
  l.applyLook_grand ..

@[simp] theorem Lighting.countHold_grand (claims : Claims) : (l.countHold t claims).grand = l.grand := by
  unfold Lighting.countHold
  split
  · exact l.enterSlot_grand ..
  · rfl

/-! ### The lighting frame event -/

/-- R95: the duties of a channel are formed from its intent, its group's master and the grand master. -/
theorem Lighting.formDuties_base (mode : ShowState) (c : Fin 48) :
    ((l.formDuties t mode).channels[c]).base =
      (t.channel c).baseDuty ((l.formDuties t mode).channels[c]).fade.intent
        ((l.formDuties t mode).masters[(t.channel c).group]).level (l.formDuties t mode).grand := by
  rw [Lighting.formDuties_channel, Lighting.formDuties_masters, Lighting.formDuties_grand, Lighting.formChannel,
    Lighting.decidePhases_channels, Lighting.decidePhases_masters, Lighting.decidePhases_grand]

/-- R113: the engine as a lighting frame event steps its fades, once the attract hold has been counted. -/
def Lighting.counted (st : Store) (claims : Claims) : Lighting :=
  if st.attractRunning then l.countHold st.tables claims else l

@[simp] theorem Lighting.counted_grand (st : Store) (claims : Claims) : (l.counted st claims).grand = l.grand := by
  unfold Lighting.counted
  split
  · exact l.countHold_grand ..
  · rfl

variable {l}

/-- R86, R101, R107: what the lighting frame event of a new show frame does, in its order. -/
theorem Lighting.frameEvent_new {f : Nat} (new : l.frame ≠ some f) (st : Store) (claims : Claims) :
    l.frameEvent st claims f =
      { ((l.counted st claims).stepFades.formDuties st.tables st.mode).advanceCarriers st.tables st.mode with
        frame := some f } :=
  if_neg new

theorem Lighting.frameEvent_channels {f : Nat} (new : l.frame ≠ some f) (st : Store) (claims : Claims) :
    (l.frameEvent st claims f).channels = ((l.counted st claims).stepFades.formDuties st.tables st.mode).channels := by
  rw [Lighting.frameEvent_new new, Lighting.advanceCarriers_channels]

theorem Lighting.frameEvent_masters {f : Nat} (new : l.frame ≠ some f) (st : Store) (claims : Claims) :
    (l.frameEvent st claims f).masters = ((l.counted st claims).stepFades.formDuties st.tables st.mode).masters := by
  rw [Lighting.frameEvent_new new, Lighting.advanceCarriers_masters]

/-- R92: the lighting frame event leaves the grand master. -/
@[simp] theorem Lighting.frameEvent_grand (st : Store) (claims : Claims) (f : Nat) :
    (l.frameEvent st claims f).grand = l.grand := by
  by_cases new : l.frame = some f
  · rw [Lighting.frameEvent, if_pos new]
  · simp [Lighting.frameEvent_new new]

/-- R93 to R95, R101: the lighting frame event of a new show frame leaves every channel, whoever owns its group, with
the base duty of the intent, the group master and the grand master that it leaves. -/
theorem Lighting.frameEvent_base {f : Nat} (new : l.frame ≠ some f) (st : Store) (claims : Claims) (c : Fin 48) :
    ((l.frameEvent st claims f).channels[c]).base =
      (st.tables.channel c).baseDuty ((l.frameEvent st claims f).channels[c]).fade.intent
        ((l.frameEvent st claims f).masters[(st.tables.channel c).group]).level l.grand := by
  have base := (l.counted st claims).stepFades.formDuties_base st.tables st.mode c
  rw [Lighting.formDuties_grand, Lighting.stepFades_grand, Lighting.counted_grand] at base
  rw [Lighting.frameEvent_channels new, Lighting.frameEvent_masters new]
  exact base

end Lighting

/-! ### SET GRAND -/

section SetGrand

variable {s : State} {level : Byte} {rest : List Request}

/-- R11, R99: SET GRAND is refused in LOADING. -/
theorem execSetGrand_inLoading (next : s.RequestNext 0x12 [level] rest) (mode : s.store.mode = .loading) :
    exec .setGrand s = .next ((s.took rest).replied 0x12 [4]).finishLink := by
  show execSetGrand s = _
  rw [execSetGrand, State.serve_next next, State.answer_inLoading (s := s.took rest) mode]

/-- R99: outside LOADING, SET GRAND sets the grand master and is answered OK. -/
theorem execSetGrand_sets (next : s.RequestNext 0x12 [level] rest) (mode : s.store.mode ≠ .loading) :
    exec .setGrand s = .next
      (State.replied { s.took rest with light := { s.light with grand := level.toNat } } 0x12 [0]).finishLink := by
  show execSetGrand s = _
  rw [execSetGrand, State.serve_next next, State.answer_own (s := s.took rest) (.inr mode) rfl]
  rfl

/-- R99: the part that SET GRAND leaves outside LOADING has the level as its grand master, in the same show state. -/
theorem grand_of_execSetGrand {t : State} (next : s.RequestNext 0x12 [level] rest) (mode : s.store.mode ≠ .loading)
    (run : exec .setGrand s = .next t) : t.light.grand = level.toNat ∧ t.store = s.store := by
  rw [execSetGrand_sets next mode] at run
  cases run
  exact ⟨rfl, rfl⟩

end SetGrand

/-- Settles O32: SET GRAND answers and sets as its two rules say, the next lighting frame event forms every base duty
with the grand master as it finds it, and the show state that the first of two requests leaves lets the second be
carried out in its turn. -/
theorem grandMasterIsSet : Obligations.GrandMasterIsSet := by
  refine ⟨fun s level rest next => ⟨execSetGrand_inLoading next, fun mode => ⟨execSetGrand_sets next mode, ?_⟩⟩, ?_⟩
  · intro f c new
    exact ⟨Lighting.frameEvent_grand .., Lighting.frameEvent_base new ..⟩
  · intro s t u first second rest rest' mode next run next' run'
    obtain ⟨-, store⟩ := grand_of_execSetGrand next mode run
    have mode' : t.store.mode ≠ .loading := store ▸ mode
    exact (grand_of_execSetGrand next' mode' run').1

/-! ### The output curves -/

@[simp] theorem OutputCurve.apply_linear (x : Nat) : OutputCurve.linear.apply x = x := rfl

theorem OutputCurve.apply_square (x : Nat) : OutputCurve.square.apply x = x * x / 65535 := rfl

/-- R94: SQUARE lies below LINEAR between the end points, since there x² < 65,535 · x. -/
theorem OutputCurve.apply_square_lt {x : Nat} (pos : 0 < x) (lt : x < 65535) : OutputCurve.square.apply x < x := by
  rw [OutputCurve.apply_square]
  exact Nat.div_lt_of_lt_mul (Nat.mul_lt_mul_of_pos_right lt pos)

/-- R94: SQUARE gives 0 up to 255, since 255² = 65,025. -/
theorem OutputCurve.apply_square_eq_zero {x : Nat} (le : x ≤ 255) : OutputCurve.square.apply x = 0 := by
  rw [OutputCurve.apply_square]
  have le_sq : x * x ≤ 255 * 255 := Nat.mul_le_mul le le
  exact Nat.div_eq_of_lt (by omega)

/-- Settles O36: the curves by their definition, the figures of R94 by evaluation, and the two bounds on SQUARE. -/
theorem outputCurvesShapeTheLevel : Obligations.OutputCurvesShapeTheLevel :=
  ⟨fun x => ⟨OutputCurve.apply_linear x, OutputCurve.apply_square x⟩, by decide, by decide,
   fun _ pos lt => OutputCurve.apply_square_lt pos lt, by decide,
   fun _ _ le => OutputCurve.apply_square_eq_zero le, by decide⟩

end Sys2Proof.Machine
end

section
/-! Proofs about clip bytes (R123): the value of a byte, its bounds, and what an undriven burst decodes to. -/

namespace Sys2Proof.Machine

/-- R123: the mantissa, scaled, lies between 16, its value at e = m = 0, and 31 × 128. -/
theorem clipScaled_bounds {e m : Nat} (exponent : e < 8) (mantissa : m < 16) :
    16 ≤ (16 + m) * 2 ^ e ∧ (16 + m) * 2 ^ e ≤ 31 * 2 ^ 7 := by
  have one_le : 1 ≤ 2 ^ e := Nat.one_le_two_pow
  have le_top : 2 ^ e ≤ 2 ^ 7 := Nat.pow_le_pow_right (by decide) (by omega)
  exact ⟨Nat.mul_le_mul (Nat.le_add_right 16 m) one_le, Nat.mul_le_mul (by omega) le_top⟩

/-- The scaled mantissa as an integer. -/
theorem clipScaled_cast (e m : Nat) : (((16 + m) * 2 ^ e : Nat) : Int) = (16 + m) * 2 ^ e :=
  calc (((16 + m) * 2 ^ e : Nat) : Int)
    _ = ((16 + m : Nat) : Int) * ((2 ^ e : Nat) : Int) := Int.natCast_mul _ _
    _ = (16 + m) * 2 ^ e := congrArg (((16 + m : Nat) : Int) * ·) (Int.natCast_pow 2 e)

/-- The bias is taken away in the naturals as in the integers, where the scaled mantissa is no less than it. -/
theorem natCast_unbiased {x : Nat} (low : 16 ≤ x) : (((x - 16) * 8 : Nat) : Int) = ((x : Int) - 16) * 8 := by
  omega

/-- R123: the magnitude that the model forms in the naturals, as an integer. -/
theorem clipMagnitude_cast {e m : Nat} (exponent : e < 8) (mantissa : m < 16) :
    ((((16 + m) * 2 ^ e - 16) * 8 : Nat) : Int) = ((16 + m) * 2 ^ e - 16) * 8 := by
  rw [← clipScaled_cast]
  exact natCast_unbiased (clipScaled_bounds exponent mantissa).1

/-- R123: the magnitude lies between 0 and 31,616. -/
theorem clipMagnitude_bounds {e m : Nat} (exponent : e < 8) (mantissa : m < 16) :
    (0 : Int) ≤ ((16 + m) * 2 ^ e - 16) * 8 ∧ ((16 + m) * 2 ^ e - 16) * 8 ≤ (31616 : Int) := by
  have high := (clipScaled_bounds exponent mantissa).2
  rw [← clipMagnitude_cast exponent mantissa]
  generalize (16 + m) * 2 ^ e = scaled at high
  omega

/-- R123: the sign is decided by the byte's value. -/
theorem decodeSample_eq (b : Byte) :
    decodeSample b =
      let magnitude : Int := ((16 + (b.toNat % 16 : Nat)) * 2 ^ (b.toNat / 16 % 8) - 16) * 8
      if 128 ≤ b.toNat then -magnitude else magnitude := by
  have sign : b.getLsbD 7 = decide (128 ≤ b.toNat) := BitVec.msb_eq_decide b
  have magnitude := clipMagnitude_cast (e := b.toNat / 16 % 8) (m := b.toNat % 16)
    (Nat.mod_lt _ (by decide)) (Nat.mod_lt _ (by decide))
  simp only [decodeSample, sign, decide_eq_true_eq]
  rw [magnitude]

/-- R122: what the flash does not drive reads 0xFF. -/
@[simp] theorem burstData_nil (k : Nat) : burstData k [] = List.replicate k 0xFF := by
  rw [burstData, List.nil_append, List.take_replicate, Nat.min_self]

theorem decodeSample_ones : decodeSample 0xFF = -31616 := by decide

/-- R123: erased flash and a missing chip give a steady −31,616. -/
theorem map_decodeSample_burstData_nil (k : Nat) :
    (burstData k []).map decodeSample = List.replicate k (-31616) := by
  rw [burstData_nil, List.map_replicate, decodeSample_ones]

/-- Settles O45: the value of a byte and its bounds, the rows of R123's table by evaluation, and the undriven burst. -/
theorem clipBytesDecode : Obligations.ClipBytesDecode :=
  ⟨fun b =>
    have ⟨low, high⟩ := clipMagnitude_bounds (e := b.toNat / 16 % 8) (m := b.toNat % 16)
      (Nat.mod_lt _ (by decide)) (Nat.mod_lt _ (by decide))
    ⟨low, high, decodeSample_eq b⟩,
   by decide, by decide, by decide, by decide, by decide, by decide, by decide, decodeSample_ones,
   map_decodeSample_burstData_nil⟩

end Sys2Proof.Machine
end

section
/-! Proofs about REPORT LEVEL (R187) and the report queue (R185, R186): how a report is raised against the threshold,
when the transmitter takes a report, and the three answers of the request. -/

namespace Sys2Proof.Machine

/-! ### The report queue -/

section Reports

variable {l : Link} {r : Report}

/-- R186: a report below the threshold is dropped. -/
theorem Link.raise_below (below : r.level < l.threshold) : l.raise r = l := if_pos below

/-- R186: a report that reaches the threshold joins the queue while it has room. -/
theorem Link.raise_queued (reaches : l.threshold ≤ r.level) (room : l.reports.length < Config.reportMax) :
    l.raise r = { l with reports := l.reports ++ [r] } := by
  rw [Link.raise, if_neg (Nat.not_lt.mpr reaches), if_pos room]

/-- R185: the transmitter takes no report while a reply waits. -/
theorem Link.transmit_reports_of_replies (waits : l.replies ≠ []) : l.transmit.reports = l.reports := by
  unfold Link.transmit
  split
  · rfl
  · split
    · rfl
    · next none_waits _ => exact absurd none_waits waits
    · rfl

/-- R184, R185: the reply of an executed request goes before every report. -/
theorem Link.reply_transmit_reports (l : Link) (kind : Byte) (payload : List Byte) :
    (l.reply kind payload).transmit.reports = l.reports :=
  Link.transmit_reports_of_replies (by simp [Link.reply])

/-- R185, R186: an idle transmitter with no reply to send takes the oldest report and clears the lost mark. -/
theorem Link.transmit_report {queued : List Report} (idle : l.sending = none) (no_replies : l.replies = [])
    (waits : l.reports = r :: queued) :
    l.transmit =
      { l with reports := queued, lost := false, sending := some (linkFrame r.kind (putFlag l.lost ++ r.fields)) } := by
  simp only [Link.transmit, idle, no_replies, waits]

end Reports

/-! ### REPORT LEVEL -/

/-- R187: a threshold of at most 3 is in range. -/
theorem thresholdOperand?_of_le {n : Byte} (le : n.toNat ≤ 3) : thresholdOperand? [n] = some n.toNat :=
  if_pos ⟨Nat.zero_le _, le⟩

/-- R187: a threshold above 3 is out of range. -/
theorem thresholdOperand?_of_gt {n : Byte} (gt : 3 < n.toNat) : thresholdOperand? [n] = none :=
  if_neg fun inRange => Nat.not_le.mpr gt inRange.2

/-- The value of a byte is put as that byte. -/
theorem put8_toNat (n : Byte) : put8 n.toNat = [n] := by
  rw [put8, BitVec.ofNat_toNat, BitVec.setWidth_eq]

/-- R187: the part with this threshold. -/
def State.withThreshold (s : State) (n : Byte) : State := { s with link := { s.link with threshold := n.toNat } }

/-- R187: a threshold out of range is answered BAD_ARG. -/
theorem State.answerReportLevel_of_gt (s : State) {n : Byte} (gt : 3 < n.toNat) :
    s.answerReportLevel [n] = (s, [3]) := by
  rw [State.answerReportLevel, thresholdOperand?_of_gt gt]
  rfl

/-- R187: a threshold in range is set, and is answered with the number of reports queued. -/
theorem State.answerReportLevel_of_le (s : State) {n : Byte} (le : n.toNat ≤ 3) :
    s.answerReportLevel [n] = (s.withThreshold n, 0 :: n :: put8 s.link.reports.length) := by
  rw [State.answerReportLevel, thresholdOperand?_of_le le]
  show (s.withThreshold n, 0 :: (put8 n.toNat ++ put8 s.link.reports.length)) = _
  rw [put8_toNat, List.singleton_append]

section ReportLevel

variable {s : State} {n : Byte} {rest : List Request}

/-- R11, R187: REPORT LEVEL is refused in LOADING. -/
theorem execReportLevel_inLoading (next : s.RequestNext 0x04 [n] rest) (mode : s.store.mode = .loading) :
    exec .reportLevel s = .next ((s.took rest).replied 0x04 [4]).finishLink := by
  show execReportLevel s = _
  rw [execReportLevel, State.serve_next next, State.answer_inLoading (s := s.took rest) mode]

/-- R187: outside LOADING, a threshold above 3 is refused. -/
theorem execReportLevel_badArg (next : s.RequestNext 0x04 [n] rest) (mode : s.store.mode ≠ .loading)
    (gt : 3 < n.toNat) : exec .reportLevel s = .next ((s.took rest).replied 0x04 [3]).finishLink := by
  show execReportLevel s = _
  rw [execReportLevel, State.serve_next next, State.answer_own (s := s.took rest) (.inr mode) rfl,
    State.answerReportLevel_of_gt _ gt]

/-- R187: outside LOADING, a threshold of at most 3 is set. -/
theorem execReportLevel_sets (next : s.RequestNext 0x04 [n] rest) (mode : s.store.mode ≠ .loading)
    (le : n.toNat ≤ 3) :
    exec .reportLevel s = .next
      (((s.took rest).withThreshold n).replied 0x04 (0 :: n :: put8 s.link.reports.length)).finishLink := by
  show execReportLevel s = _
  rw [execReportLevel, State.serve_next next, State.answer_own (s := s.took rest) (.inr mode) rfl,
    State.answerReportLevel_of_le _ le]
  rfl

/-- R186: raised against the threshold that has been set, a report below it changes nothing. -/
theorem State.withThreshold_raise_below {r : Report} (below : r.level < n.toNat) :
    (s.withThreshold n).raise r = s.withThreshold n := by
  rw [State.raise, Link.raise_below (l := (s.withThreshold n).link) below]

/-- R186: raised against the threshold that has been set, a report that reaches it joins the queue. -/
theorem State.withThreshold_raise_reports {r : Report} (reaches : n.toNat ≤ r.level)
    (room : s.link.reports.length < Config.reportMax) :
    ((s.withThreshold n).raise r).link.reports = s.link.reports ++ [r] := by
  rw [State.raise_link, Link.raise_queued (l := (s.withThreshold n).link) reaches room]
  rfl

end ReportLevel

/-- Settles O11: the three answers of REPORT LEVEL, the reply going before the reports that wait; what is raised against
the new threshold; and the transmitter, which takes the oldest report whatever its level. -/
theorem reportLevelSetsThreshold : Obligations.ReportLevelSetsThreshold := by
  refine fun s n rest next => ⟨execReportLevel_inLoading next, execReportLevel_badArg next, fun mode le =>
    ⟨execReportLevel_sets next mode le, ?_, fun r below => ?_, fun r reaches room => ?_⟩,
    fun l r queued idle no_replies waits => ?_⟩
  · exact Link.reply_transmit_reports ((s.took rest).withThreshold n).link ..
  · exact State.withThreshold_raise_below (s := s.took rest) below
  · exact State.withThreshold_raise_reports (s := s.took rest) reaches room
  · rw [Link.transmit_report idle no_replies waits]
    exact ⟨rfl, rfl⟩

end Sys2Proof.Machine
end

section
/-! Facts about lists and conditions that the proofs below share. -/

namespace Sys2Proof.Machine

/-- Induction over a list that grows at its end. -/
theorem snocInduction {α : Type} {motive : List α → Prop} (nil : motive [])
    (append_singleton : ∀ xs x, motive xs → motive (xs ++ [x])) (xs : List α) : motive xs := by
  have back (ys : List α) : motive ys.reverse := by
    induction ys with
    | nil => exact nil
    | cons y ys ih =>
      rw [List.reverse_cons]
      exact append_singleton ys.reverse y ih
  exact List.reverse_reverse xs ▸ back xs.reverse

/-- A choice between the same two values turns on nothing but the truth of its condition. -/
theorem ite_of_iff {α : Type} {p q : Prop} [Decidable p] [Decidable q] {x y : α} (h : p ↔ q) :
    (if p then x else y) = if q then x else y := ite_congr (propext h) (fun _ => rfl) fun _ => rfl

theorem add_same {a b c d : Int} (left : a = c) (right : b = d) : a + b = c + d := by rw [left, right]

end Sys2Proof.Machine
end

section
/-! Proofs about the bounds of the link (R5, R182 to R187): what a byte makes of the receiver, what each act does to the
report queue, the threshold and the cursor, and what each move of the link does to its two lists. -/

namespace Sys2Proof.Machine

/-! ### The receiver -/

theorem Receiver.reset_sound : Receiver.reset.Sound := ⟨rfl, rfl, rfl⟩

theorem byteSum_append (xs ys : List Byte) : byteSum (xs ++ ys) = byteSum xs + byteSum ys := by
  induction xs with
  | nil => simp [byteSum]
  | cons b bs ih => simp [byteSum, ih, BitVec.add_assoc]

/-- The sum of a list with one more byte behind it. -/
theorem byteSum_concat (xs : List Byte) (b : Byte) : byteSum (xs ++ [b]) = byteSum xs + b := by
  rw [byteSum_append]
  simp [byteSum]

/-- R182: a byte leaves the receiver in one of its states, with what it holds in that state. -/
theorem Receiver.receive_sound {x : Receiver} (h : x.Sound) (b : Byte) (stopOk : Bool) :
    (x.receive b stopOk).1.Sound := by
  unfold Receiver.receive
  split
  · exact reset_sound
  · split
    · split <;> exact ⟨rfl, rfl, rfl⟩
    · split
      · next inRange =>
        refine ⟨inRange.1, inRange.2, inRange.1, ?_⟩
        simp [byteSum]
      · exact reset_sound
    · next body =>
      unfold Receiver.Sound at h
      rw [body] at h
      obtain ⟨low, high, short, sum⟩ := h
      have sum' : x.sum + b = BitVec.ofNat 8 x.length + byteSum (x.body ++ [b]) := by
        rw [byteSum_concat, sum, BitVec.add_assoc]
      unfold Receiver.Sound
      dsimp only
      by_cases full : x.length ≤ (x.body ++ [b]).length
      · rw [if_pos full]
        have whole : (x.body ++ [b]).length = x.length := by simp at full ⊢; omega
        exact ⟨low, high, whole, sum'⟩
      · rw [if_neg full]
        exact ⟨low, high, Nat.not_le.1 full, sum'⟩
    · split <;> exact reset_sound

/-! ### The report queue, the threshold and the cursor -/

/-- R5, R186, R187: the bounds that the acts of the blocks can touch. -/
structure Link.Within (l : Link) : Prop where
  reports : l.reports.length ≤ 32
  threshold : l.threshold ≤ 3
  cursor : l.cursor.index ≤ tableEntries l.cursor.table

/-- R186: a report joins the queue only while it has room. -/
theorem Link.Within.raise {l : Link} (h : l.Within) (r : Report) : (l.raise r).Within := by
  obtain ⟨reports, threshold, cursor⟩ := h
  unfold Link.raise
  split
  · exact ⟨reports, threshold, cursor⟩
  · split
    · next room =>
      have : l.reports.length < 32 := room
      exact ⟨by simp; omega, threshold, cursor⟩
    · exact ⟨reports, threshold, cursor⟩

theorem State.storeRecord?_link {s t : State} {table : Fin 14} {i : Nat} {bs : List Byte}
    (h : s.storeRecord? table i bs = some t) : t.link = s.link := by
  unfold State.storeRecord? at h
  rw [Option.map_eq_some_iff] at h
  obtain ⟨u, -, rfl⟩ := h
  dsimp only
  split
  · split <;> rfl
  · split <;> rfl

theorem State.offer_within {s : State} (h : s.link.Within) (sc : Fin 64) (src : Source) :
    (s.offer sc src).1.link.Within := by
  unfold State.offer
  dsimp only
  split
  · exact h.raise _
  · split
    · exact h
    · split
      · split
        · exact Link.Within.raise (l := s.link) h _
        · exact h.raise _
      · exact h.raise _

theorem State.halt_within {s : State} (h : s.link.Within) (p : Fin 8) (reason : StopReason) :
    (s.halt p reason).link.Within := by
  unfold State.halt
  split
  · exact h
  · exact h.raise _

theorem Act.within {s t : State} (act : Act s t) (h : s.link.Within) : t.link.Within := by
  cases act with
  | raise r => exact h.raise r
  | cursor c hc => exact ⟨h.reports, h.threshold, hc h.cursor⟩
  | threshold n hn => exact ⟨h.reports, hn, h.cursor⟩
  | cause => exact ⟨h.reports, h.threshold, h.cursor⟩
  | stored => rw [State.storeRecord?_link ‹_›]; exact h
  | halt p reason => exact State.halt_within h p reason
  | startOn sc src voice p free => exact h.raise _
  | offer sc src => exact State.offer_within h sc src
  | _ => exact h

/-! ### The request queue and the reply list -/

theorem State.linkBounded_iff {s : State} :
    s.LinkBounded ↔ s.link.receiver.Sound ∧ s.link.requests.length ≤ 4
      ∧ (s.link.replies.filter (·.busy)).length ≤ 4 ∧ (s.link.replies.filter (!·.busy)).length ≤ 1
      ∧ s.link.Within := by
  unfold State.LinkBounded
  exact ⟨fun ⟨a, b, c, d, e, f, g⟩ => ⟨a, b, c, d, ⟨e, f, g⟩⟩, fun ⟨a, b, c, d, ⟨e, f, g⟩⟩ => ⟨a, b, c, d, e, f, g⟩⟩

/-- R183: an arrival joins the queue while it has room, and a BUSY reply the list while it holds fewer than four. -/
theorem Link.arrive_bounds {l : Link} (requests : l.requests.length ≤ 4)
    (busy : (l.replies.filter (·.busy)).length ≤ 4) (kind : Byte) (payload : List Byte) :
    (l.arrive kind payload).requests.length ≤ 4 ∧ ((l.arrive kind payload).replies.filter (·.busy)).length ≤ 4
    ∧ (l.arrive kind payload).replies.filter (!·.busy) = l.replies.filter (!·.busy)
    ∧ (l.arrive kind payload).receiver = l.receiver ∧ (l.Within → (l.arrive kind payload).Within) := by
  unfold Link.arrive
  split
  · next room =>
    have : l.requests.length < 4 := room
    exact ⟨by simp; omega, busy, rfl, rfl, fun h => ⟨h.1, h.2, h.3⟩⟩
  · split
    · next room =>
      have : (l.replies.filter (·.busy)).length < 4 := room
      exact ⟨requests, by simp [List.filter_append]; omega, by simp [List.filter_append], rfl,
        fun h => ⟨h.1, h.2, h.3⟩⟩
    · exact ⟨requests, busy, rfl, rfl, id⟩

/-- R185: the transmitter only takes from the reply list and the report queue. -/
theorem Link.transmit_bounds (l : Link) :
    l.transmit.replies.Sublist l.replies ∧ l.transmit.requests = l.requests ∧ l.transmit.receiver = l.receiver
    ∧ (l.Within → l.transmit.Within) := by
  unfold Link.transmit
  split
  · exact ⟨.refl _, rfl, rfl, id⟩
  · split
    · next replies =>
      exact ⟨by rw [replies]; exact List.sublist_cons_self .., rfl, rfl, fun h => ⟨h.1, h.2, h.3⟩⟩
    · next reports =>
      refine ⟨.refl _, rfl, rfl, fun h => ⟨?_, h.2, h.3⟩⟩
      have := h.reports
      rw [reports, List.length_cons] at this
      exact Nat.le_of_succ_le this
    · exact ⟨.refl _, rfl, rfl, id⟩

/-- R184: the request that is taken is the one in front. -/
theorem Link.ready?_eq {l m : Link} {r : Request} (h : l.ready? = some (r, m)) :
    l.requests = r :: m.requests ∧ m = { l with requests := m.requests } := by
  unfold Link.ready? at h
  split at h
  · split at h
    · next requests _ => cases h; exact ⟨requests, rfl⟩
    · cases h
  · cases h

theorem filter_not_busy_of_all {replies : List Reply} (h : replies.all (·.busy) = true) :
    replies.filter (!·.busy) = [] := by
  rw [List.filter_eq_nil_iff]
  intro r hr
  simp [List.all_eq_true.1 h r hr]

theorem PartMove.linkBounded {s t : State} (move : PartMove s t) (h : s.LinkBounded) : t.LinkBounded := by
  rw [State.linkBounded_iff] at h ⊢
  obtain ⟨receiver, requests, busy, executed, within⟩ := h
  cases move with
  | act act =>
    have quiet := act.quiet
    rw [quiet.receiver, quiet.requests, quiet.replies]
    exact ⟨receiver, requests, busy, executed, act.within within⟩
  | received b stopOk => exact ⟨Receiver.receive_sound receiver b stopOk, requests, busy, executed, ⟨within.1, within.2, within.3⟩⟩
  | hunt => exact ⟨Receiver.reset_sound, requests, busy, executed, ⟨within.1, within.2, within.3⟩⟩
  | arrive kind payload =>
    obtain ⟨hr, hb, he, hx, hw⟩ := Link.arrive_bounds requests busy kind payload
    exact ⟨hx ▸ receiver, hr, hb, he ▸ executed, hw within⟩
  | sent => exact ⟨receiver, requests, busy, executed, ⟨within.1, within.2, within.3⟩⟩
  | take r l ready =>
    obtain ⟨front, rest⟩ := Link.ready?_eq ready
    rw [front, List.length_cons] at requests
    dsimp only
    rw [rest]
    exact ⟨receiver, Nat.le_of_succ_le requests, busy, executed, ⟨within.1, within.2, within.3⟩⟩
  | reply kind payload all =>
    refine ⟨receiver, requests, ?_, ?_, ⟨within.1, within.2, within.3⟩⟩
    · simpa [Link.reply, List.filter_append] using busy
    · simp [Link.reply, List.filter_append, filter_not_busy_of_all all]
  | transmit =>
    obtain ⟨replies, hr, hx, hw⟩ := Link.transmit_bounds s.link
    exact ⟨hx ▸ receiver, hr ▸ requests, Nat.le_trans (replies.filter _).length_le busy,
      Nat.le_trans (replies.filter _).length_le executed, hw within⟩
  | restart => exact ⟨Receiver.reset_sound, Nat.zero_le _, Nat.zero_le _, Nat.zero_le _, ⟨Nat.zero_le _, Nat.zero_le _, Nat.zero_le _⟩⟩

/-- Settles O54: every act and every move keeps the bounds of the link. -/
theorem stepKeepsLinkBounded : Obligations.StepKeepsLinkBounded :=
  fun _ _ => step_keeps (P := State.LinkBounded) (fun _ _ h => h) fun _ _ => PartMove.linkBounded

end Sys2Proof.Machine
end

section
/-! What the operations of the Scene Engine and of its players leave alone, said once: the store, the clock, the monitor
and every field of the other blocks but the fades, the voices and the axes. -/

namespace Sys2Proof.Machine

/-! ### The Scene Engine's own operations -/

/-- What an operation of the Scene Engine may touch: the report queue; the scenes, the queue, the players and the
claims; the channels' fades; the voices and the axes. -/
structure EngineOnly (s t : State) : Prop where
  rest : { t with link := s.link, engine := s.engine, light := s.light, sound := s.sound, motion := s.motion } = s
  engine : { t.engine with scenes := s.engine.scenes, queue := s.engine.queue, arrivals := s.engine.arrivals,
                           players := s.engine.players, claims := s.engine.claims } = s.engine
  light : { t.light with channels := s.light.channels } = s.light
  sound : { t.sound with voices := s.sound.voices } = s.sound
  motion : { t.motion with axes := s.motion.axes } = s.motion

namespace EngineOnly

variable {s t u : State}

theorem refl (s : State) : EngineOnly s s := ⟨rfl, rfl, rfl, rfl, rfl⟩

theorem trans (h : EngineOnly s t) (k : EngineOnly t u) : EngineOnly s u where
  rest := (congrArg (fun x : State => { x with
    link := s.link, engine := s.engine, light := s.light, sound := s.sound, motion := s.motion }) k.rest).trans h.rest
  engine := (congrArg (fun x : Engine => { x with
    scenes := s.engine.scenes, queue := s.engine.queue, arrivals := s.engine.arrivals,
    players := s.engine.players, claims := s.engine.claims }) k.engine).trans h.engine
  light := (congrArg (fun x : Lighting => { x with channels := s.light.channels }) k.light).trans h.light
  sound := (congrArg (fun x : Sound => { x with voices := s.sound.voices }) k.sound).trans h.sound
  motion := (congrArg (fun x : Motion => { x with axes := s.motion.axes }) k.motion).trans h.motion

theorem store (h : EngineOnly s t) : t.store = s.store := (congrArg State.store h.rest :)
theorem monitor (h : EngineOnly s t) : t.monitor = s.monitor := (congrArg State.monitor h.rest :)
theorem frame (h : EngineOnly s t) : t.frame = s.frame := (congrArg State.frame h.rest :)
theorem pending (h : EngineOnly s t) : t.pending = s.pending := (congrArg State.pending h.rest :)
theorem inReset (h : EngineOnly s t) : t.inReset = s.inReset := (congrArg State.inReset h.rest :)
theorem slot (h : EngineOnly s t) : t.light.slot = s.light.slot := (congrArg Lighting.slot h.light :)
theorem hold (h : EngineOnly s t) : t.light.hold = s.light.hold := (congrArg Lighting.hold h.light :)
theorem house (h : EngineOnly s t) : t.engine.house = s.engine.house := (congrArg Engine.house h.engine :)
theorem estop (h : EngineOnly s t) : t.engine.estop = s.engine.estop := (congrArg Engine.estop h.engine :)

theorem foldl {β : Type} (f : State → β → State) (hf : ∀ s x, EngineOnly s (f s x)) (xs : List β) (s : State) :
    EngineOnly s (xs.foldl f s) := by
  induction xs generalizing s with
  | nil => exact refl s
  | cons x xs ih => exact (hf s x).trans (ih _)

theorem foldlFst {β γ : Type} (f : State × γ → β → State × γ) (hf : ∀ x b, EngineOnly x.1 (f x b).1) (xs : List β)
    (x : State × γ) : EngineOnly x.1 (xs.foldl f x).1 := by
  induction xs generalizing x with
  | nil => exact refl _
  | cons b xs ih => exact (hf x b).trans (ih _)

theorem raise (s : State) (r : Report) : EngineOnly s (s.raise r) := ⟨rfl, rfl, rfl, rfl, rfl⟩
theorem setScene (s : State) (sc : Fin 64) (x : SceneRun) : EngineOnly s (s.setScene sc x) := ⟨rfl, rfl, rfl, rfl, rfl⟩
theorem sceneTo (s : State) (sc : Fin 64) (x : SceneState) : EngineOnly s (s.sceneTo sc x) := setScene ..
theorem setQueue (s : State) (q : List Entry) : EngineOnly s (s.setQueue q) := ⟨rfl, rfl, rfl, rfl, rfl⟩
theorem setPlayer (s : State) (p : Fin 8) (r : Option Run) : EngineOnly s (s.setPlayer p r) := ⟨rfl, rfl, rfl, rfl, rfl⟩
theorem startOn (s : State) (sc : Fin 64) (src : Source) (voice : Option (Fin 4)) (p : Fin 8) :
    EngineOnly s (s.startOn sc src voice p) := ⟨rfl, rfl, rfl, rfl, rfl⟩

end EngineOnly

/-- R83: a look reaches the channels alone. -/
theorem Lighting.applyLook_rest (l : Lighting) (t : Tables) (look : Fin 128) (eligible : Fin 16 → Bool) (length : Nat)
    (curve : FadeCurve) : { l.applyLook t look eligible length curve with channels := l.channels } = l := by
  unfold Lighting.applyLook
  induction t.lookEntries look generalizing l with
  | nil => rfl
  | cons e es ih =>
    refine (congrArg (fun x : Lighting => { x with channels := l.channels }) (ih _)).trans ?_
    dsimp only
    split <;> rfl

theorem Lighting.returnGroup_rest (l : Lighting) (t : Tables) (claims : Claims) (g : Fin 16) :
    { l.returnGroup t claims g with channels := l.channels } = l := by
  unfold Lighting.returnGroup
  split
  · exact l.applyLook_rest ..
  · rfl

/-- R78, R115: the returns of an event change nothing but the lighting, and of that the channels alone. -/
theorem State.returnGroups_rest (s : State) (released : List (Fin 16)) :
    { s.returnGroups released with light := s.light } = s
    ∧ { (s.returnGroups released).light with channels := s.light.channels } = s.light := by
  unfold State.returnGroups
  split
  · refine ⟨rfl, ?_⟩
    dsimp only
    generalize s.light = l
    induction List.finRange 16 generalizing l with
    | nil => rfl
    | cons g gs ih =>
      refine (congrArg (fun x : Lighting => { x with channels := l.channels }) (ih _)).trans ?_
      dsimp only
      split
      · exact l.returnGroup_rest ..
      · rfl
  · exact ⟨rfl, rfl⟩

namespace EngineOnly

theorem returnGroups (s : State) (released : List (Fin 16)) : EngineOnly s (s.returnGroups released) := by
  obtain ⟨rest, light⟩ := s.returnGroups_rest released
  exact ⟨congrArg (fun x : State => { x with link := s.link, engine := s.engine, sound := s.sound, motion := s.motion }) rest,
    by rw [State.returnGroups_engine], light,
    by rw [show (s.returnGroups released).sound = s.sound from (congrArg State.sound rest :)],
    by rw [show (s.returnGroups released).motion = s.motion from (congrArg State.motion rest :)]⟩

theorem sceneRests (s : State) (sc : Fin 64) : EngineOnly s (s.sceneRests sc) := by
  unfold State.sceneRests
  dsimp only
  split
  · exact sceneTo ..
  · exact setScene ..

theorem halt (s : State) (p : Fin 8) (reason : StopReason) : EngineOnly s (s.halt p reason) := by
  unfold State.halt
  split
  · exact refl s
  · exact ⟨rfl, rfl, rfl, rfl, rfl⟩

theorem haltNoting (s : State) (n : Released) (p : Fin 8) (reason : StopReason) :
    EngineOnly s (s.haltNoting n p reason).1 := by
  unfold State.haltNoting
  split
  · exact refl s
  · exact halt ..

theorem start (s : State) (sc : Fin 64) (src : Source) : EngineOnly s (s.start sc src).1 := by
  unfold State.start
  dsimp only
  generalize (if (s.store.tables.scene sc).narration = true then s.chooseVoice (s.store.tables.scene sc).priority
    else none) = voice
  have h := foldlFst (fun (x : State × Released) p => x.1.haltNoting x.2 p .preempted)
    (fun x p => haltNoting x.1 x.2 p _) (s.preempted sc voice) (s, ⟨[], []⟩)
  split
  · exact h
  · split
    · exact (h.trans (startOn ..)).trans (haltNoting ..)
    · exact h.trans (startOn ..)

theorem enqueue (s : State) (sc : Fin 64) (src : Source) : EngineOnly s (s.enqueue sc src) :=
  ⟨rfl, rfl, rfl, rfl, rfl⟩

theorem offer (s : State) (sc : Fin 64) (src : Source) : EngineOnly s (s.offer sc src).1 := by
  unfold State.offer
  dsimp only
  split
  · exact raise ..
  · split
    · exact enqueue ..
    · split
      · split
        · exact (((setQueue ..).trans (sceneTo ..)).trans (raise ..)).trans (enqueue ..)
        · exact raise ..
      · exact raise ..

theorem endScene (again : State → Fin 64 → State × TriggerOutcome) (h : ∀ s sc, EngineOnly s (again s sc).1)
    (s : State) (sc : Fin 64) (reason : StopReason) : EngineOnly s (s.endScene again sc reason) := by
  unfold State.endScene
  dsimp only
  have k := (sceneTo s sc .ready).trans (h (s.sceneTo sc .ready) sc)
  split
  · split
    · next e => rw [e] at k; exact k
    · next e => rw [e] at k; exact k
    · next e => rw [e] at k; exact k.trans (sceneRests ..)
  · exact (sceneTo ..).trans (sceneRests ..)

theorem admission (fuel : Nat) (s : State) (sc : Fin 64) (src : Source) (released : List (Fin 16)) :
    EngineOnly s (s.admission fuel sc src released).1 := by
  induction fuel generalizing s sc src released with
  | zero =>
    rw [State.admission]
    split
    · refine ((start s sc src).trans ?_).trans (returnGroups _ _)
      exact foldl _ (fun t (e : Fin 64 × StopReason) => sceneRests t e.1) _ _
    · exact (offer s sc src).trans (returnGroups _ _)
  | succ n ih =>
    rw [State.admission]
    split
    · refine ((start s sc src).trans ?_).trans (returnGroups _ _)
      exact foldl _ (fun t (e : Fin 64 × StopReason) =>
        endScene (fun u c => let x := State.admission n u c .again []; (x.1, x.2.1))
          (fun u c => ih u c .again []) t e.1 e.2) _ _
    · exact (offer s sc src).trans (returnGroups _ _)

theorem sceneEnds (s : State) (sc : Fin 64) (reason : StopReason) : EngineOnly s (s.sceneEnds sc reason) :=
  endScene _ (fun u c => admission _ u c .again []) _ _ _

theorem stopPlayer (s : State) (p : Fin 8) (reason : StopReason) : EngineOnly s (s.stopPlayer p reason) := by
  unfold State.stopPlayer
  split
  · exact refl s
  · exact ((halt ..).trans (sceneEnds ..)).trans (returnGroups ..)

theorem rescanFrom (n : Nat) (s : State) (i : Nat) (any : Bool) : EngineOnly s (s.rescanFrom n i any) := by
  induction n generalizing s i any with
  | zero => exact refl s
  | succ n ih =>
    unfold State.rescanFrom
    split
    · split
      · exact ih ..
      · exact refl s
    · split
      · exact (((setQueue ..).trans (sceneTo ..)).trans (admission ..)).trans (ih ..)
      · exact ih ..

theorem rescan (s : State) : EngineOnly s s.rescan := by
  unfold State.rescan
  split
  · exact rescanFrom ..
  · exact refl s

theorem stopAndRescan (s : State) (p : Fin 8) (reason : StopReason) : EngineOnly s (s.stopAndRescan p reason) := by
  unfold State.stopAndRescan
  split
  · exact refl s
  · exact (stopPlayer ..).trans (rescan _)

theorem restart (s : State) (sc : Fin 64) (src : Source) (p : Fin 8) : EngineOnly s (s.restart sc src p) := by
  unfold State.restart
  dsimp only
  refine trans ?_ (rescan _)
  have h := ((halt s p .restarted).trans (sceneTo _ sc .ready)).trans
    (admission admissionFuel _ sc src (s.engine.groupsOf p))
  split
  · exact h.trans (sceneRests ..)
  · exact h

theorem trigger (s : State) (sc : Fin 64) (src : Source) : EngineOnly s (s.trigger sc src).1 := by
  unfold State.trigger
  dsimp only
  split
  · exact refl s
  · split
    · exact refl s
    · split
      · split
        · exact refl s
        · split
          · exact refl s
          · exact setScene ..
        · split
          · exact restart ..
          · exact refl s
      · exact refl s
      · exact refl s
      · exact refl s
      · split
        · exact (admission ..).trans (rescan _)
        · exact admission ..

theorem raiseTriggers (s : State) (src : Source) : EngineOnly s (s.raiseTriggers src).1 := by
  unfold State.raiseTriggers
  split
  · refine foldlFst (β := Fin 64) _ (fun x sc => ?_) _ (s, [])
    dsimp only
    split
    · exact trigger ..
    · exact refl _
  · exact refl s

theorem dropEntry (s : State) (e : Entry) (reason : DropReason) : EngineOnly s (s.dropEntry e reason) :=
  ((setQueue ..).trans (sceneTo ..)).trans (raise ..)

theorem countPatience (s : State) (f : Nat) : EngineOnly s (s.countPatience f) := by
  unfold State.countPatience
  split
  · exact (foldl (fun (t : State) e => t.dropEntry e .patience) (fun t e => dropEntry t e _) _ s).trans (setQueue ..)
  · exact refl s

theorem countCooldowns (s : State) (f : Nat) : EngineOnly s (s.countCooldowns f) := by
  unfold State.countCooldowns
  split
  · exact refl s
  · exact ⟨rfl, rfl, rfl, rfl, rfl⟩

theorem leaveShow (s : State) : EngineOnly s s.leaveShow := by
  unfold State.leaveShow
  dsimp only
  exact ((foldl _ (fun t p => stopPlayer t p .standby) _ s).trans
    (foldl _ (fun t (e : Entry) => sceneTo t e.scene .ready) _ _)).trans (setQueue ..)

theorem cancel (s : State) (sc : Fin 64) : EngineOnly s (s.cancel sc).1 := by
  unfold State.cancel
  split
  · split
    · exact dropEntry ..
    · exact refl s
  · split
    · exact stopAndRescan ..
    · exact refl s
  all_goals exact refl s

theorem stopEverything (s : State) : EngineOnly s s.stopEverything := by
  unfold State.stopEverything
  exact (foldl _ (fun t e => dropEntry t e .cancelled) _ s).trans (foldl _ (fun t p => stopPlayer t p .cancelled) _ _)

theorem setGroupOwner (s : State) (g : Fin 16) (o : GroupOwner) : EngineOnly s (s.setGroupOwner g o) :=
  ⟨rfl, rfl, rfl, rfl, rfl⟩

theorem freeGroup (s : State) (g : Fin 16) : EngineOnly s (s.freeGroup g) :=
  ((setGroupOwner ..).trans (returnGroups ..)).trans (rescan _)

theorem estopPlayers (s : State) : EngineOnly s s.estopPlayers := by
  refine foldl _ (fun t p => ?_) _ s
  split
  · exact refl t
  · exact stopPlayer ..

end EngineOnly

/-! ### The operations of the players -/

/-- What a player's frame event may touch: beside what the Scene Engine touches, the masters and the lamps. -/
structure PlayerOnly (s t : State) : Prop where
  rest : { t with link := s.link, engine := s.engine, light := s.light, sound := s.sound, motion := s.motion,
                  monitor := s.monitor } = s
  engine : { t.engine with scenes := s.engine.scenes, queue := s.engine.queue, arrivals := s.engine.arrivals,
                           players := s.engine.players, claims := s.engine.claims } = s.engine
  light : { t.light with channels := s.light.channels, masters := s.light.masters } = s.light
  sound : { t.sound with voices := s.sound.voices } = s.sound
  motion : { t.motion with axes := s.motion.axes } = s.motion
  monitor : { t.monitor with lamps := s.monitor.lamps } = s.monitor

theorem EngineOnly.player {s t : State} (h : EngineOnly s t) : PlayerOnly s t where
  rest := congrArg (fun x : State => { x with monitor := s.monitor }) h.rest
  engine := h.engine
  light := congrArg (fun x : Lighting => { x with masters := s.light.masters }) h.light
  sound := h.sound
  motion := h.motion
  monitor := by rw [h.monitor]

namespace PlayerOnly

variable {s t u : State}

theorem refl (s : State) : PlayerOnly s s := (EngineOnly.refl s).player

theorem trans (h : PlayerOnly s t) (k : PlayerOnly t u) : PlayerOnly s u where
  rest := (congrArg (fun x : State => { x with
    link := s.link, engine := s.engine, light := s.light, sound := s.sound, motion := s.motion,
    monitor := s.monitor }) k.rest).trans h.rest
  engine := (congrArg (fun x : Engine => { x with
    scenes := s.engine.scenes, queue := s.engine.queue, arrivals := s.engine.arrivals,
    players := s.engine.players, claims := s.engine.claims }) k.engine).trans h.engine
  light := (congrArg (fun x : Lighting => { x with
    channels := s.light.channels, masters := s.light.masters }) k.light).trans h.light
  sound := (congrArg (fun x : Sound => { x with voices := s.sound.voices }) k.sound).trans h.sound
  motion := (congrArg (fun x : Motion => { x with axes := s.motion.axes }) k.motion).trans h.motion
  monitor := (congrArg (fun x : Monitor => { x with lamps := s.monitor.lamps }) k.monitor).trans h.monitor

theorem store (h : PlayerOnly s t) : t.store = s.store := (congrArg State.store h.rest :)
theorem slot (h : PlayerOnly s t) : t.light.slot = s.light.slot := (congrArg Lighting.slot h.light :)
theorem hold (h : PlayerOnly s t) : t.light.hold = s.light.hold := (congrArg Lighting.hold h.light :)

theorem setPlayer (s : State) (p : Fin 8) (r : Option Run) : PlayerOnly s (s.setPlayer p r) :=
  (EngineOnly.setPlayer ..).player

theorem setLamp (s : State) (b : Fin 16) (mode : LampMode) : PlayerOnly s (s.setLamp b mode) :=
  ⟨rfl, rfl, rfl, rfl, rfl, rfl⟩

theorem setAxis (s : State) (a : Fin 8) (x : Axis) : PlayerOnly s (s.setAxis a x) := ⟨rfl, rfl, rfl, rfl, rfl, rfl⟩

end PlayerOnly

/-- What the execution of a cue leaves alone. -/
def CueEffect.Only (s : State) : CueEffect → Prop
  | .goes t _ => PlayerOnly s t
  | .awaits t _ => t = s
  | .blocks | .stops _ => True

theorem State.cueMove_only (s : State) (r : Run) (a : Fin 8) (position : Int) (profile : Option (Fin 16)) :
    (s.cueMove r a position profile).Only s := by
  unfold State.cueMove
  dsimp only
  split
  · trivial
  · trivial
  all_goals
    split
    · exact PlayerOnly.setAxis ..
    · trivial

theorem State.cueHome_only (s : State) (r : Run) (a : Fin 8) : (s.cueHome r a).Only s := by
  unfold State.cueHome
  split
  · trivial
  all_goals
    split
    · exact PlayerOnly.setAxis ..
    · trivial

theorem State.cueAwait_only (s : State) (p : Fin 8) (r : Run) (cond : AwaitCond) (operand : Byte) (timeout : Nat)
    (target : Fin 2048) : (s.cueAwait p r cond operand timeout target).Only s := by
  unfold State.cueAwait
  extract_lets unclaimed
  split
  · trivial
  · split
    · exact PlayerOnly.refl s
    · trivial
    · exact rfl

theorem State.cueNext_only (s : State) (p : Fin 8) (r : Run) : (s.cueNext p r).Only s := by
  unfold State.cueNext
  split
  · trivial
  · split
    · exact PlayerOnly.setPlayer ..
    · split
      · exact PlayerOnly.refl s
      · exact PlayerOnly.setPlayer ..

theorem State.execCue_only (s : State) (p : Fin 8) (r : Run) : (s.execCue p r).Only s := by
  have fades {l : Lighting} (h : { l with channels := s.light.channels, masters := s.light.masters } = s.light) :
      PlayerOnly s { s with light := l } := ⟨rfl, rfl, h, rfl, rfl, rfl⟩
  unfold State.execCue
  dsimp only
  split
  case h_1 =>
    exact fades (congrArg (fun x : Lighting => { x with masters := s.light.masters }) (s.light.applyLook_rest ..))
  case h_2 =>
    show PlayerOnly _ _
    split
    · exact fades rfl
    · exact .refl s
  case h_3 =>
    show PlayerOnly _ _
    split
    · exact fades rfl
    · exact .refl s
  case h_4 =>
    split
    · exact PlayerOnly.refl s
    · split
      · exact ⟨rfl, rfl, rfl, rfl, rfl, rfl⟩
      · trivial
  case h_5 =>
    split
    · exact PlayerOnly.refl s
    · exact ⟨rfl, rfl, rfl, rfl, rfl, rfl⟩
  case h_6 =>
    split
    · exact s.cueMove_only ..
    · trivial
  case h_7 =>
    split
    · exact s.cueHome_only ..
    · trivial
  case h_8 => exact s.cueAwait_only ..
  case h_9 =>
    split
    · exact PlayerOnly.setPlayer ..
    · trivial
  case h_10 => exact s.cueNext_only ..
  case h_11 => exact PlayerOnly.setLamp ..
  case h_12 => exact (EngineOnly.raise ..).player
  case h_13 => exact PlayerOnly.refl s
  case h_14 => trivial

namespace PlayerOnly

theorem runCues (n : Nat) (s : State) (p : Fin 8) : PlayerOnly s (s.runCues n p).1 := by
  induction n generalizing s with
  | zero => exact refl s
  | succ n ih =>
    unfold State.runCues
    split
    · exact refl s
    · next r _ =>
      have only := s.execCue_only p r
      split
      · exact refl s
      · exact setPlayer ..
      · next t a e =>
        rw [e] at only
        obtain rfl : t = s := only
        exact setPlayer ..
      · next t target e =>
        rw [e] at only
        have moved : PlayerOnly s t := only
        dsimp only
        split
        · exact moved.trans (setPlayer ..)
        · split
          · exact (moved.trans (setPlayer ..)).trans (ih _)
          · exact moved.trans (setPlayer ..)

theorem leaveAwait (s : State) (p : Fin 8) (r : Run) (target : Nat) : PlayerOnly s (s.leaveAwait p r target).1 := by
  unfold State.leaveAwait
  split
  · exact refl s
  · dsimp only
    split
    · exact (setPlayer ..).trans (runCues ..)
    · exact setPlayer ..

theorem playerActs (s : State) (p : Fin 8) (r : Run) : PlayerOnly s (s.playerActs p r).1 := by
  unfold State.playerActs
  split
  · split
    · exact (setPlayer ..).trans (runCues ..)
    · exact setPlayer ..
  · split
    · exact leaveAwait ..
    · exact refl s
    · split
      · exact refl s
      · split
        · exact leaveAwait ..
        · exact setPlayer ..
  · split
    · exact runCues ..
    · exact refl s

theorem playerFrame (s : State) (p : Fin 8) (f : Nat) : PlayerOnly s (s.playerFrame p f) := by
  unfold State.playerFrame
  split
  · exact refl s
  · dsimp only
    split
    · exact (setPlayer ..).trans (playerActs ..)
    · exact ((setPlayer ..).trans (playerActs ..)).trans (EngineOnly.stopAndRescan ..).player

end PlayerOnly

end Sys2Proof.Machine
end

section
/-! Proofs about what every act keeps of the sound, of the axes and of the zone languages: the bounds of the buffers and
stages (R124 to R136), the soft limits, the holds and ESTOP (R154 to R161), and the language sets (R170, R171). -/

namespace Sys2Proof.Machine

/-! ### Records stored -/

/-- R3, R157, R170: a stored record is in the tables, and acts on its axis or on its zone's language alone. -/
theorem State.storeRecord?_some {s t : State} {table : Fin 14} {i : Nat} {bs : List Byte}
    (h : s.storeRecord? table i bs = some t) :
    ∃ u, s.store.tables.storeEntry? table i bs = some u ∧
      ((table = 12 ∧ t = (s.setTables u).axesRewritten s fun a => decide (a.val = i))
      ∨ (∃ z : Fin 12, table = 10 ∧ z.val = i
          ∧ t = { s.setTables u with monitor := s.monitor.setLanguage z (u.zone z).language })
      ∨ (table ≠ 12 ∧ (table = 10 → 12 ≤ i) ∧ t = s.setTables u)) := by
  unfold State.storeRecord? at h
  rw [Option.map_eq_some_iff] at h
  obtain ⟨u, hu, rfl⟩ := h
  refine ⟨u, hu, ?_⟩
  by_cases zones : table = 10
  · subst zones
    by_cases inside : i < 12
    · exact .inr (.inl ⟨⟨i, inside⟩, rfl, rfl, by simp [index?, inside, State.setTables]⟩)
    · exact .inr (.inr ⟨by decide, fun _ => Nat.not_lt.1 inside, by simp [index?, inside]⟩)
  · by_cases axes : table = 12
    · exact .inl ⟨axes, by simp [axes]⟩
    · exact .inr (.inr ⟨axes, fun h => absurd h zones, by simp [zones, axes]⟩)

/-- A record of another table leaves the axis table. -/
theorem Tables.storeEntry?_axes {t u : Tables} {table : Fin 14} {i : Nat} {bs : List Byte} (other : table ≠ 12)
    (h : t.storeEntry? table i bs = some u) : u.axes = t.axes := by
  unfold Tables.storeEntry? at h
  split at h
  case h_13 => exact absurd rfl other
  case h_8 | h_12 => split at h <;> obtain ⟨r, -, rfl⟩ := Option.map_eq_some_iff.1 h <;> rfl
  all_goals
    obtain ⟨r, -, rfl⟩ := Option.map_eq_some_iff.1 h
    rfl

/-- A record of another table leaves the zone table. -/
theorem Tables.storeEntry?_zones {t u : Tables} {table : Fin 14} {i : Nat} {bs : List Byte} (other : table ≠ 10)
    (h : t.storeEntry? table i bs = some u) : u.zones = t.zones := by
  unfold Tables.storeEntry? at h
  split at h
  case h_11 => exact absurd rfl other
  case h_8 | h_12 => split at h <;> obtain ⟨r, -, rfl⟩ := Option.map_eq_some_iff.1 h <;> rfl
  all_goals
    obtain ⟨r, -, rfl⟩ := Option.map_eq_some_iff.1 h
    rfl

/-- R4: a stored axis record is clamped, and every other axis record stays. -/
theorem Tables.storeEntry?_axis {t u : Tables} {i : Nat} {bs : List Byte} (h : t.storeEntry? 12 i bs = some u) :
    ∃ r : AxisRec, ∀ a : Fin 8, u.axis a = if a.val = i then r.clamp else t.axis a := by
  obtain ⟨r, -, rfl⟩ := Option.map_eq_some_iff.1 h
  exact ⟨r, fun a => Table.read_write ..⟩

/-- A stored zone record was accepted, and every other zone record stays. -/
theorem Tables.storeEntry?_zone {t u : Tables} {i : Nat} {bs : List Byte} (h : t.storeEntry? 10 i bs = some u) :
    ∃ r : ZoneRec, ZoneRec.decode? bs = some r ∧ ∀ z : Fin 12, u.zone z = if z.val = i then r else t.zone z := by
  obtain ⟨r, hr, rfl⟩ := Option.map_eq_some_iff.1 h
  exact ⟨r, hr, fun z => Table.read_write ..⟩

/-- R3: the default language of a zone record that is accepted is in its language set. -/
theorem ZoneRec.decode?_language {bs : List Byte} {r : ZoneRec} (h : ZoneRec.decode? bs = some r) :
    r.languages.getLsbD r.language = true := by
  simp only [ZoneRec.decode?, Option.bind_eq_bind, Option.bind_eq_some_iff] at h
  obtain ⟨_, -, _, -, _, -, _, -, h⟩ := h
  split at h
  · next offered => cases h; exact offered
  · cases h

/-! ### Sound -/

theorem State.soundBounded_iff {s : State} : s.SoundBounded ↔ SoundBounds s.sound :=
  ⟨fun ⟨a, b, c, d⟩ => ⟨a, b, c, d⟩, fun ⟨a, b, c, d⟩ => ⟨a, b, c, d⟩⟩

/-- R57: the stop of a player fades its voice out. -/
theorem State.halt_soundBounds {s : State} (h : SoundBounds s.sound) (p : Fin 8) (reason : StopReason) :
    SoundBounds (s.halt p reason).sound := by
  unfold State.halt
  split
  · exact h
  · refine h.of_units (fun v => ?_) h.bed_self fun _ _ _ e => e
    simp only [State.raise_sound, Fin.getElem_fin, Vector.getElem_ofFn]
    split
    · exact VoiceWithin.fadeOut (h.voice v)
    · exact h.voice_self v

theorem State.storeRecord?_sound {s t : State} {table : Fin 14} {i : Nat} {bs : List Byte}
    (h : s.storeRecord? table i bs = some t) : t.sound = s.sound := by
  obtain ⟨u, -, ⟨-, rfl⟩ | ⟨z, -, -, rfl⟩ | ⟨-, -, rfl⟩⟩ := State.storeRecord?_some h <;> rfl

/-- R28 to R30: a scene that is not admitted touches the report queue and the engine alone. -/
theorem State.offer_rest (s : State) (sc : Fin 64) (src : Source) :
    { (s.offer sc src).1 with link := s.link, engine := s.engine } = s := by
  unfold State.offer
  dsimp only
  split
  · rfl
  · split
    · rfl
    · split
      · split <;> rfl
      · rfl

theorem Act.soundBounds {s t : State} (act : Act s t) (h : SoundBounds s.sound) : SoundBounds t.sound := by
  cases act with
  | stored => rw [State.storeRecord?_sound ‹_›]; exact h
  | halt p reason => exact State.halt_soundBounds h p reason
  | offer sc src => rw [show (s.offer sc src).1.sound = s.sound from (congrArg State.sound (s.offer_rest sc src) :)]; exact h
  | sound x move => exact SoundBounds.move move h
  | house asserted => exact h.of_units h.voice_self h.bed_self fun _ _ _ e => e
  | _ => exact h

/-- Settles O58: every act keeps the bounds of the sound, and no other move touches it but a reset. -/
theorem stepKeepsSoundBounded : Obligations.StepKeepsSoundBounded := by
  refine fun _ _ => step_keeps (P := State.SoundBounded) (fun _ _ h => h) fun s t move h => ?_
  rw [State.soundBounded_iff] at h ⊢
  cases move with
  | act act => exact act.soundBounds h
  | restart => exact SoundBounds.reset
  | _ => exact h

/-! ### Languages -/

/-- R4: the soft limits of a stored axis record enclose 0. -/
theorem AxisRec.clamp_encloses0 (r : AxisRec) : LimitsEnclose0 r.clamp :=
  ⟨Int.min_le_right .., Int.le_max_right ..⟩

/-- R170: a zone record and the current language of its zone. -/
def Offers (r : ZoneRec) (x : Zone) : Prop :=
  r.languages.getLsbD r.language = true ∧ r.languages.getLsbD x.language = true

theorem Zone.step_language (x : Zone) (r : ZoneRec) (raw : Bool) : (x.step r raw).language = x.language := by
  unfold Zone.step
  split <;> (try split) <;> rfl

/-- R3, R170: a stored zone record sets its zone's language to its default, which it offers. -/
theorem State.storeRecord?_offers {s t : State} {table : Fin 14} {i : Nat} {bs : List Byte}
    (h : s.storeRecord? table i bs = some t) {z : Fin 12}
    (offers : Offers (s.store.tables.zone z) s.monitor.zones[z]) : Offers (t.store.tables.zone z) t.monitor.zones[z] := by
  obtain ⟨u, hu, ⟨rfl, rfl⟩ | ⟨w, rfl, rfl, rfl⟩ | ⟨-, outside, rfl⟩⟩ := State.storeRecord?_some h
  · have same : u.zone z = s.store.tables.zone z := by
      rw [Tables.zone, Tables.storeEntry?_zones (by decide) hu, Tables.zone]
    show Offers (u.zone z) s.monitor.zones[z]
    rw [same]
    exact offers
  · obtain ⟨r, hr, read⟩ := Tables.storeEntry?_zone hu
    have default := ZoneRec.decode?_language hr
    show Offers (u.zone z) (s.monitor.setLanguage w (u.zone w).language).zones[z]
    simp only [Monitor.setLanguage, Vector.getElem_setFin]
    by_cases own : w = z
    · subst own
      rw [if_pos rfl, read w, if_pos rfl]
      exact ⟨default, default⟩
    · rw [if_neg own, read z, if_neg fun h => own (Fin.ext h.symm)]
      exact offers
  · show Offers (u.zone z) s.monitor.zones[z]
    by_cases zones : table = 10
    · subst zones
      obtain ⟨r, -, read⟩ := Tables.storeEntry?_zone hu
      rw [read z, if_neg (by have := outside rfl; omega)]
      exact offers
    · rw [show u.zone z = s.store.tables.zone z by rw [Tables.zone, Tables.storeEntry?_zones zones hu, Tables.zone]]
      exact offers

theorem Act.offers {s t : State} (act : Act s t) {z : Fin 12}
    (offers : Offers (s.store.tables.zone z) s.monitor.zones[z]) : Offers (t.store.tables.zone z) t.monitor.zones[z] := by
  cases act with
  | emptied =>
    show Offers ZoneRec.empty (s.monitor.defaultLanguages Tables.empty).zones[z]
    simp [Monitor.defaultLanguages, Offers, Tables.zone, Tables.empty, Table.read, ZoneRec.empty]
  | stored => exact State.storeRecord?_offers ‹_› offers
  | halt p reason =>
    rw [(EngineOnly.halt s p reason).store, (EngineOnly.halt s p reason).monitor]; exact offers
  | offer sc src =>
    rw [(EngineOnly.offer s sc src).store, (EngineOnly.offer s sc src).monitor]; exact offers
  | zone w raw f =>
    refine ⟨offers.1, ?_⟩
    show (s.store.tables.zone z).languages.getLsbD (s.zoneStepped w raw f).monitor.zones[z].language = true
    simp only [State.zoneStepped, Vector.getElem_setFin]
    split
    · next own => subst own; simp only [Zone.step_language]; exact offers.2
    · exact offers.2
  | language w l offered =>
    refine ⟨offers.1, ?_⟩
    show (s.store.tables.zone z).languages.getLsbD (s.monitor.setLanguage w l).zones[z].language = true
    simp only [Monitor.setLanguage, Vector.getElem_setFin]
    split
    · next own => subst own; exact offered
    · exact offers.2
  | languages =>
    refine ⟨offers.1, ?_⟩
    show (s.store.tables.zone z).languages.getLsbD (s.monitor.defaultLanguages s.store.tables).zones[z].language = true
    simp only [Monitor.defaultLanguages, Fin.getElem_fin, Vector.getElem_ofFn]
    exact offers.1
  | _ => exact offers

theorem reset_offers (z : Fin 12) : Offers (State.reset.store.tables.zone z) State.reset.monitor.zones[z] := by
  show Offers ZoneRec.empty (Vector.replicate 12 Zone.reset)[z]
  simp [Offers, ZoneRec.empty, Zone.reset]

/-- Settles O60: every act keeps the current language of each zone in its set, and a reset sets the empty records. -/
theorem stepKeepsLanguagesOffered : Obligations.StepKeepsLanguagesOffered := by
  refine fun _ _ => step_keeps (P := State.LanguagesOffered) (fun _ _ h => h) fun s t move h z => ?_
  cases move with
  | act act => exact act.offers (h z)
  | restart => exact reset_offers z
  | _ => exact h z

end Sys2Proof.Machine
end

section
/-! Proofs about what every act keeps of the axes: the soft limits (R154, R156, R157), the rest of a held axis (R159,
R160) and ESTOP (R161). -/

namespace Sys2Proof.Machine

/-! ### What an act can do to an axis -/

/-- What an act makes of the axis `x` of record `r` under hold condition `held`, with ESTOP `e`: the axis `y` of record
`r'` under hold condition `held'` with ESTOP `e'`. -/
inductive AxisAct (x : Axis) (r : AxisRec) (held e : Bool) : Axis → AxisRec → Bool → Bool → Prop
  | same : AxisAct x r held e x r held e
  | stop : AxisAct x r held e x.stopRequest r held e
  | move (t : Tables) (y : Axis) (h : AxisMove t r held x y) : AxisAct x r held e y r held e
  | frame (f : Nat) : AxisAct x r held e (x.frameEvent r f) r held e
  | reset : AxisAct x r held e (x.softReset e) r held e
  | hold (held' : Bool) : AxisAct x r held e (x.holdChange r held held') r held' e
  | estop (e' : Bool) : AxisAct x r held e (if e' then x.estopAsserted else x.estopReleased) r held e'
  | rewrite (r' : AxisRec) (held' : Bool) (h : LimitsEnclose0 r') :
      AxisAct x r held e ((x.limitsRewritten r').holdChange r' held held') r' held' e

/-- The axis `a` of `t` is the axis `a` of `s` after one act. -/
def State.AxisActed (s t : State) (a : Fin 8) : Prop :=
  AxisAct s.motion.axes[a] (s.store.tables.axis a) (s.holdPresent a) s.motion.estop
    t.motion.axes[a] (t.store.tables.axis a) (t.holdPresent a) t.motion.estop

/-- The hold condition depends on the copy of HOUSE, the guard and the state of the guard zone. -/
theorem State.holdPresent_congr {s t : State} {a : Fin 8} (house : t.motion.house = s.motion.house)
    (record : t.store.tables.axis a = s.store.tables.axis a)
    (zones : ∀ z : Fin 12, t.monitor.zones[z].state = s.monitor.zones[z].state) : t.holdPresent a = s.holdPresent a := by
  unfold State.holdPresent
  rw [house, record]
  split
  · rfl
  · rw [zones]

/-- An act that leaves the motion, the axis record and the states of the zones leaves the axis. -/
theorem State.AxisActed.of_same {s t : State} {a : Fin 8} (motion : t.motion = s.motion)
    (record : t.store.tables.axis a = s.store.tables.axis a)
    (zones : ∀ z : Fin 12, t.monitor.zones[z].state = s.monitor.zones[z].state) : s.AxisActed t a := by
  unfold State.AxisActed
  rw [State.holdPresent_congr (congrArg Motion.house motion) record zones, motion, record]
  exact .same

/-- R157: the rewrite of axis records, for an axis that it names. -/
theorem State.axesRewritten_axis (s before : State) (hit : Fin 8 → Bool) (a : Fin 8) :
    (s.axesRewritten before hit).motion.axes[a] =
      Axis.holdChange (if hit a then s.motion.axes[a].limitsRewritten (s.store.tables.axis a) else s.motion.axes[a])
        (s.store.tables.axis a) (before.holdPresent a) (s.holdPresent a) := by
  unfold State.axesRewritten State.holdsChanged
  simp only [State.mapAxes_motion, Fin.getElem_fin, Vector.getElem_ofFn, State.mapAxes_store]
  congr 1

theorem Axis.holdChange_same (x : Axis) (r : AxisRec) (b : Bool) : x.holdChange r b b = x := if_pos rfl

/-- The record of an axis, rewritten with soft limits that enclose 0, or left. -/
theorem State.axesRewritten_acted {s t : State} {hit : Fin 8 → Bool} {a : Fin 8} (motion : t.motion = s.motion)
    (rewritten : hit a = true → LimitsEnclose0 (t.store.tables.axis a))
    (left : hit a = false → t.store.tables.axis a = s.store.tables.axis a ∧ t.holdPresent a = s.holdPresent a) :
    s.AxisActed (t.axesRewritten s hit) a := by
  have hold : (t.axesRewritten s hit).holdPresent a = t.holdPresent a := State.holdPresent_congr rfl rfl fun _ => rfl
  unfold State.AxisActed
  rw [State.axesRewritten_axis, hold, show (t.axesRewritten s hit).store = t.store from rfl,
    show (t.axesRewritten s hit).motion.estop = t.motion.estop from rfl, motion]
  cases named : hit a with
  | true => exact .rewrite _ _ (rewritten named)
  | false =>
    obtain ⟨record, held⟩ := left named
    rw [record, held, Axis.holdChange_same]
    exact .same

/-- A stored record acts on its axis. -/
theorem State.storeRecord?_acted {s t : State} {table : Fin 14} {i : Nat} {bs : List Byte}
    (h : s.storeRecord? table i bs = some t) (a : Fin 8) : s.AxisActed t a := by
  obtain ⟨u, hu, ⟨rfl, rfl⟩ | ⟨w, rfl, rfl, rfl⟩ | ⟨other, -, rfl⟩⟩ := State.storeRecord?_some h
  · obtain ⟨r, read⟩ := Tables.storeEntry?_axis hu
    refine State.axesRewritten_acted rfl (fun own => ?_) fun other => ?_
    · show LimitsEnclose0 (u.axis a)
      rw [read, if_pos (of_decide_eq_true own)]
      exact r.clamp_encloses0
    · have record : u.axis a = s.store.tables.axis a := by rw [read, if_neg (of_decide_eq_false other)]
      exact ⟨record, State.holdPresent_congr rfl record fun _ => rfl⟩
  · refine .of_same rfl ?_ fun z => ?_
    · show u.axis a = _
      rw [Tables.axis, Tables.storeEntry?_axes (by decide) hu, Tables.axis]
    · show ((s.monitor.setLanguage w (u.zone w).language).zones[z]).state = _
      simp only [Monitor.setLanguage, Vector.getElem_setFin]
      split
      · next own => subst own; rfl
      · rfl
  · refine .of_same rfl ?_ fun _ => rfl
    show u.axis a = _
    rw [Tables.axis, Tables.storeEntry?_axes other hu, Tables.axis]

theorem State.halt_acted (s : State) (p : Fin 8) (reason : StopReason) (a : Fin 8) :
    s.AxisActed (s.halt p reason) a := by
  have only := EngineOnly.halt s p reason
  have hold : (s.halt p reason).holdPresent a = s.holdPresent a :=
    State.holdPresent_congr (congrArg Motion.house only.motion :) (by rw [only.store]) fun z => by rw [only.monitor]
  unfold State.AxisActed
  rw [hold, only.store, show (s.halt p reason).motion.estop = s.motion.estop from (congrArg Motion.estop only.motion :)]
  unfold State.halt
  split
  · exact .same
  · simp only [State.raise_motion, Fin.getElem_fin, Vector.getElem_ofFn]
    split
    · exact .stop
    · exact .same

/-- R146 to R162: every act does one of these to each axis. -/
theorem Act.axisActed {s t : State} (act : Act s t) (a : Fin 8) : s.AxisActed t a := by
  cases act with
  | emptied => exact State.axesRewritten_acted rfl (fun _ => ⟨Int.le_refl 0, Int.le_refl 0⟩) nofun
  | stored => exact State.storeRecord?_acted ‹_› a
  | halt p reason => exact s.halt_acted p reason a
  | offer sc src =>
    have rest := s.offer_rest sc src
    exact .of_same (congrArg State.motion rest :) (by rw [show (s.offer sc src).1.store = s.store from (congrArg State.store rest :)])
      fun z => by rw [show (s.offer sc src).1.monitor = s.monitor from (congrArg State.monitor rest :)]
  | axis b x move =>
    show AxisAct _ _ _ _ (s.motion.axes.set b x)[a] _ _ _
    rw [Vector.getElem_setFin]
    split
    · next own => subst own; exact .move _ x move
    · exact .same
  | axesFrame f =>
    show AxisAct _ _ _ _ (Vector.ofFn _)[a] _ _ _
    simp only [Fin.getElem_fin, Vector.getElem_ofFn]
    exact .frame f
  | axesStop =>
    show AxisAct _ _ _ _ (Vector.ofFn _)[a] _ _ _
    simp only [Fin.getElem_fin, Vector.getElem_ofFn]
    exact .stop
  | axesReset =>
    show AxisAct _ _ _ _ (Vector.ofFn _)[a] _ _ _
    simp only [Fin.getElem_fin, Vector.getElem_ofFn]
    exact .reset
  | zone z raw f =>
    show AxisAct _ _ _ _ (Vector.ofFn _)[a] _ _ _
    simp only [Fin.getElem_fin, Vector.getElem_ofFn]
    exact .hold _
  | house asserted =>
    show AxisAct _ _ _ _ (Vector.ofFn _)[a] _ _ _
    simp only [Fin.getElem_fin, Vector.getElem_ofFn]
    exact .hold _
  | estop asserted =>
    show AxisAct _ _ _ _ (Vector.ofFn _)[a] _ _ asserted
    simp only [Fin.getElem_fin, Vector.getElem_ofFn]
    exact .estop asserted
  | language z l offered =>
    refine .of_same rfl rfl fun w => ?_
    show ((s.monitor.setLanguage z l).zones[w]).state = _
    simp only [Monitor.setLanguage, Vector.getElem_setFin]
    split
    · next own => subst own; rfl
    · rfl
  | languages =>
    refine .of_same rfl rfl fun w => ?_
    simp [Monitor.defaultLanguages]
  | _ => exact .of_same rfl rfl fun _ => rfl

/-! ### The three invariants -/

section

variable {x y : Axis} {r r' : AxisRec} {held held' e e' : Bool}

theorem AxisAct.withinLimits (act : AxisAct x r held e y r' held' e') (h : LimitsEnclose0 r ∧ WithinLimits r x) :
    LimitsEnclose0 r' ∧ WithinLimits r' y := by
  obtain ⟨encloses, within⟩ := h
  cases act with
  | same => exact ⟨encloses, within⟩
  | stop => exact ⟨encloses, (keepsPlace_stop x).withinLimits within⟩
  | move t y move => exact ⟨encloses, withinLimits_axisMove move encloses within⟩
  | frame f => exact ⟨encloses, (keepsPlace_frame x r f).withinLimits within⟩
  | reset => exact ⟨encloses, (keepsPlace_soft x e).withinLimits within⟩
  | hold => exact ⟨encloses, (keepsPlace_holdChange x r _ _).withinLimits within⟩
  | estop e' =>
    cases e' with
    | true => exact ⟨encloses, (keepsPlace_estop x).withinLimits within⟩
    | false => exact ⟨encloses, (keepsPlace_release x).withinLimits within⟩
  | rewrite _ _ encloses' =>
    exact ⟨encloses', (keepsPlace_holdChange _ r' _ _).withinLimits (withinLimits_limitsRewritten x r' within.k)⟩

theorem AxisAct.stillUnderHold (act : AxisAct x r held e y r' held' e') (h : held = true → StillUnderHold x)
    (present : held' = true) : StillUnderHold y := by
  subst present
  cases act with
  | same => exact h rfl
  | stop => exact stillUnderHold_stop x (h rfl)
  | move t y move =>
    cases move with
    | move _ m taken => exact stillUnderHold_takeMove (h rfl) taken
    | home _ taken => exact stillUnderHold_takeHome (h rfl) taken
    | interval home limit =>
      exact stillUnderHold_interval _ t r ((h rfl).same (b := x.sampled home limit) rfl rfl)
    | frame f => exact stillUnderHold_frame x r f (h rfl)
  | frame f => exact stillUnderHold_frame x r f (h rfl)
  | reset =>
    unfold Axis.softReset
    split
    · exact .of (.inr (.inr (.inr rfl)))
    · exact .of (.inr (.inr (.inl rfl)))
  | hold => exact stillUnderHold_change x r held h
  | estop e' =>
    cases e' with
    | true => exact .of (.inr (.inr (.inr rfl)))
    | false =>
      show StillUnderHold x.estopReleased
      unfold Axis.estopReleased
      split
      · exact .of (.inr (.inr (.inl rfl)))
      · exact h rfl
  | rewrite => exact stillUnderHold_change _ r' held fun was => stillUnderHold_limits x r' (h was)

theorem EstopAgrees.released (h : EstopAgrees e x) : EstopAgrees false x.estopReleased := by
  unfold Axis.estopReleased
  split
  · exact ⟨by simp, by simp⟩
  · next other => exact ⟨by simp [other], h.f⟩

theorem EstopAgrees.softReset (x : Axis) (e : Bool) : EstopAgrees e (x.softReset e) := by
  cases e with
  | true => exact .faulted x
  | false => exact ⟨by simp [Axis.softReset], by simp [Axis.softReset]⟩

theorem AxisAct.estopAgrees (act : AxisAct x r held e y r' held' e') (h : EstopAgrees e x) : EstopAgrees e' y := by
  cases act with
  | same => exact h
  | stop => exact estopAgrees_stop h
  | move t y move => exact estopAgrees_move move h
  | frame f => exact estopAgrees_frame r f h
  | reset => exact .softReset x e
  | hold => exact estopAgrees_change r _ _ h
  | estop e' =>
    cases e' with
    | true => exact .faulted x
    | false => exact h.released
  | rewrite => exact estopAgrees_change r' _ _ (estopAgrees_limits r' h)

end

theorem State.withinSoftLimits_iff {s : State} :
    s.WithinSoftLimits ↔
      ∀ a : Fin 8, LimitsEnclose0 (s.store.tables.axis a) ∧ WithinLimits (s.store.tables.axis a) s.motion.axes[a] :=
  forall_congr' fun _ => ⟨fun ⟨lo, hi, h, k⟩ => ⟨⟨lo, hi⟩, ⟨h, k⟩⟩, fun ⟨⟨lo, hi⟩, ⟨h, k⟩⟩ => ⟨lo, hi, h, k⟩⟩

theorem State.heldAxesStill_iff {s : State} :
    s.HeldAxesStill ↔ ∀ a : Fin 8, s.holdPresent a = true → StillUnderHold s.motion.axes[a] :=
  forall_congr' fun _ => imp_congr_right fun _ => ⟨fun ⟨m, h, w⟩ => ⟨m, h, w⟩, fun ⟨m, h, w⟩ => ⟨m, h, w⟩⟩

theorem State.estopFaultsAxes_iff {s : State} :
    s.EstopFaultsAxes ↔ ∀ a : Fin 8, EstopAgrees s.motion.estop s.motion.axes[a] :=
  forall_congr' fun _ => ⟨fun ⟨i, f⟩ => ⟨i, f⟩, fun ⟨i, f⟩ => ⟨i, f⟩⟩

/-- At its reset values an axis is not homed, its record encloses 0, and ESTOP is released. -/
theorem reset_axis (a : Fin 8) :
    LimitsEnclose0 (State.reset.store.tables.axis a) ∧ State.reset.motion.axes[a] = Axis.reset
    ∧ State.reset.motion.estop = false := by
  refine ⟨⟨Int.le_refl 0, Int.le_refl 0⟩, ?_, rfl⟩
  simp [State.reset, Motion.reset]

theorem PartMove.withinSoftLimits {s t : State} (move : PartMove s t) (h : s.WithinSoftLimits) : t.WithinSoftLimits := by
  rw [State.withinSoftLimits_iff] at h ⊢
  intro a
  cases move with
  | act act => exact (act.axisActed a).withinLimits (h a)
  | restart =>
    obtain ⟨encloses, axis, -⟩ := reset_axis a
    refine ⟨encloses, ?_⟩
    show WithinLimits _ State.reset.motion.axes[a]
    rw [axis]
    exact ⟨nofun, nofun⟩
  | _ => exact h a

theorem PartMove.heldAxesStill {s t : State} (move : PartMove s t) (h : s.HeldAxesStill) : t.HeldAxesStill := by
  rw [State.heldAxesStill_iff] at h ⊢
  intro a
  cases move with
  | act act => exact (act.axisActed a).stillUnderHold (h a)
  | restart =>
    intro _
    show StillUnderHold State.reset.motion.axes[a]
    rw [(reset_axis a).2.1]
    exact .of (.inr (.inr (.inl rfl)))
  | _ => exact h a

theorem PartMove.estopFaultsAxes {s t : State} (move : PartMove s t) (h : s.EstopFaultsAxes) : t.EstopFaultsAxes := by
  rw [State.estopFaultsAxes_iff] at h ⊢
  intro a
  cases move with
  | act act => exact (act.axisActed a).estopAgrees (h a)
  | restart =>
    show EstopAgrees State.reset.motion.estop State.reset.motion.axes[a]
    rw [(reset_axis a).2.1, (reset_axis a).2.2]
    exact ⟨by simp [Axis.reset], nofun⟩
  | _ => exact h a

/-- Settles O59: each of the three is kept by what any act can do to one axis, and by every other move. -/
theorem stepKeepsAxesSafe : Obligations.StepKeepsAxesSafe := fun _ _ h =>
  ⟨step_keeps (P := State.WithinSoftLimits) (fun _ _ h => h) (fun _ _ => PartMove.withinSoftLimits) h,
   step_keeps (P := State.HeldAxesStill) (fun _ _ h => h) (fun _ _ => PartMove.heldAxesStill) h,
   step_keeps (P := State.EstopFaultsAxes) (fun _ _ h => h) (fun _ _ => PartMove.estopFaultsAxes) h⟩

end Sys2Proof.Machine
end

section
/-! Proofs about fades, carriers and duties as numbers (R84 to R91, R93 to R95, R102, R108, R109), and what every move
keeps of the lighting: fades between their ends and a running flicker register. -/

namespace Sys2Proof.Machine

/-! ### Fades -/

theorem fadeToward_between {start target moved : Nat} (h : moved ≤ fadeSpan start target) :
    Between start target (fadeToward start target moved) := by
  unfold fadeSpan at h
  unfold Between fadeToward
  split <;> omega

/-- The whole span away from the start is the target. -/
theorem fadeToward_span (start target : Nat) : fadeToward start target (fadeSpan start target) = target := by
  unfold fadeToward fadeSpan
  split <;> omega

/-- R87, R88: how far a fade has moved at step k. -/
def fadeMoved (curve : FadeCurve) (span length k : Nat) : Nat :=
  match curve with
  | .linear => span * k / length
  | .stepped8 => span * (8 * k / length) / 8

theorem fadeValue_eq (curve : FadeCurve) (start target length k : Nat) :
    fadeValue curve start target length k = fadeToward start target (fadeMoved curve (fadeSpan start target) length k) := by
  cases curve <;> rfl

theorem fadeMoved_mono (curve : FadeCurve) (span length : Nat) {j k : Nat} (h : j ≤ k) :
    fadeMoved curve span length j ≤ fadeMoved curve span length k := by
  cases curve with
  | linear => exact Nat.div_le_div_right (Nat.mul_le_mul_left _ h)
  | stepped8 => exact Nat.div_le_div_right (Nat.mul_le_mul_left _ (Nat.div_le_div_right (Nat.mul_le_mul_left _ h)))

/-- R87, R88: at its last step a fade has moved by its whole span. -/
theorem fadeMoved_end (curve : FadeCurve) (span : Nat) {length : Nat} (h : 0 < length) :
    fadeMoved curve span length length = span := by
  cases curve <;> simp [fadeMoved, h]

theorem fadeMoved_le (curve : FadeCurve) (span : Nat) {length k : Nat} (h : 0 < length) (hk : k ≤ length) :
    fadeMoved curve span length k ≤ span :=
  Nat.le_trans (fadeMoved_mono curve span length hk) (Nat.le_of_eq (fadeMoved_end curve span h))

theorem fadeValue_between (curve : FadeCurve) (start target : Nat) {length k : Nat} (h : k < length) :
    Between start target (fadeValue curve start target length (k + 1)) := by
  rw [fadeValue_eq]
  exact fadeToward_between (fadeMoved_le curve _ (by omega) h)

theorem fadeValue_end (curve : FadeCurve) (start target : Nat) {length : Nat} (h : 0 < length) :
    fadeValue curve start target length length = target := by
  rw [fadeValue_eq, fadeMoved_end curve _ h, fadeToward_span]

/-- R84: a fade has taken at most its length in steps, and its intent lies between its ends. -/
def Fade.Within (x : Fade) : Prop := x.elapsed ≤ x.length ∧ Between x.start x.target x.intent

/-- R90: the same of a master fade. -/
def MasterFade.Within (x : MasterFade) : Prop := x.elapsed ≤ x.length ∧ Between x.start x.target x.level

theorem Fade.begin_within (x : Fade) (level length : Nat) (curve : FadeCurve) : (x.begin level length curve).Within := by
  refine ⟨Nat.zero_le _, ?_⟩
  unfold Fade.begin Between
  dsimp only
  split <;> omega

theorem Fade.step_within {x : Fade} (h : x.Within) : x.step.Within := by
  unfold Fade.step
  split
  · next more => exact ⟨more, fadeValue_between _ _ _ more⟩
  · exact h

theorem MasterFade.begin_within (x : MasterFade) (level length : Nat) : (x.begin level length).Within := by
  refine ⟨Nat.zero_le _, ?_⟩
  unfold MasterFade.begin Between
  dsimp only
  split <;> omega

theorem MasterFade.step_within {x : MasterFade} (h : x.Within) : x.step.Within := by
  unfold MasterFade.step
  split
  · next more => exact ⟨more, fadeValue_between .linear x.start x.target more⟩
  · exact h

theorem Fade.step_over {x : Fade} (h : x.length ≤ x.elapsed) : x.step = x := if_neg (Nat.not_lt.2 h)
theorem MasterFade.step_over {x : MasterFade} (h : x.length ≤ x.elapsed) : x.step = x := if_neg (Nat.not_lt.2 h)

/-- R86: n steps of a fade in progress, counted from its end. -/
theorem Fade.steps {x : Fade} (hl : 0 < x.length) (n : Nat) (h : x.elapsed + (n + 1) = x.length) :
    Nat.repeat Fade.step (n + 1) x = { x with elapsed := x.length, intent := x.target } := by
  have upTo (k : Nat) (hk : x.elapsed + (k + 1) ≤ x.length) : Nat.repeat Fade.step (k + 1) x =
      { x with elapsed := x.elapsed + (k + 1), intent := fadeValue x.curve x.start x.target x.length (x.elapsed + (k + 1)) } := by
    induction k with
    | zero => exact if_pos (show x.elapsed < x.length by omega)
    | succ k ih =>
      rw [Nat.repeat, ih (by omega)]
      exact if_pos (by omega : x.elapsed + (k + 1) < x.length)
  rw [upTo n (Nat.le_of_eq h), h, fadeValue_end _ _ _ hl]

/-- R91: n steps of a master fade in progress, counted from its end. -/
theorem MasterFade.steps {x : MasterFade} (hl : 0 < x.length) (n : Nat) (h : x.elapsed + (n + 1) = x.length) :
    Nat.repeat MasterFade.step (n + 1) x = { x with elapsed := x.length, level := x.target } := by
  have upTo (k : Nat) (hk : x.elapsed + (k + 1) ≤ x.length) : Nat.repeat MasterFade.step (k + 1) x =
      { x with elapsed := x.elapsed + (k + 1), level := fadeValue .linear x.start x.target x.length (x.elapsed + (k + 1)) } := by
    induction k with
    | zero => exact if_pos (show x.elapsed < x.length by omega)
    | succ k ih =>
      rw [Nat.repeat, ih (by omega)]
      exact if_pos (by omega : x.elapsed + (k + 1) < x.length)
  rw [upTo n (Nat.le_of_eq h), h, fadeValue_end _ _ _ hl]

/-- Settles O35: the last step has moved a fade by its whole span, and no step moves it back. -/
theorem fadesArriveAtTheirTarget : Obligations.FadesArriveAtTheirTarget := by
  refine ⟨fun x n hl hn pos => ?_, fun x n hl hn pos => ?_, fun curve start target length k hl hk => ?_⟩
  · obtain ⟨m, rfl⟩ := Nat.exists_eq_succ_of_ne_zero (Nat.ne_of_gt pos)
    dsimp only
    rw [Nat.succ_eq_add_one, Fade.steps hl m hn]
    exact ⟨rfl, rfl, Fade.step_over (Nat.le_refl _)⟩
  · obtain ⟨m, rfl⟩ := Nat.exists_eq_succ_of_ne_zero (Nat.ne_of_gt pos)
    dsimp only
    rw [Nat.succ_eq_add_one, MasterFade.steps hl m hn]
    exact ⟨rfl, rfl, MasterFade.step_over (Nat.le_refl _)⟩
  · have further := fadeMoved_mono curve (fadeSpan start target) length (Nat.le_add_right k 1)
    have most := fadeMoved_le curve (fadeSpan start target) hl hk
    rw [fadeValue_eq, fadeValue_eq]
    generalize fadeMoved curve (fadeSpan start target) length k = early at *
    generalize fadeMoved curve (fadeSpan start target) length (k + 1) = late at *
    unfold fadeSpan at most
    unfold fadeToward
    constructor <;> split <;> omega

/-! ### The flicker register -/

theorem flickerStep_getLsbD (x : BitVec 16) (i : Nat) :
    (flickerStep x).getLsbD i =
      (x.getLsbD (1 + i) || decide (i = 15) && (x.getLsbD 0 ^^ x.getLsbD 2 ^^ x.getLsbD 3 ^^ x.getLsbD 5)) := by
  unfold flickerStep
  have top (i : Nat) : (32768#16).getLsbD i = decide (i = 15) := by
    rw [show 32768#16 = BitVec.twoPow 16 15 from rfl, BitVec.getLsbD_twoPow, decide_eq_true (by decide), Bool.true_and]
    exact decide_eq_decide.2 eq_comm
  cases fb : x.getLsbD 0 ^^ x.getLsbD 2 ^^ x.getLsbD 3 ^^ x.getLsbD 5 <;> simp [top]

/-- R109: a register that has shifted to 0 was 0: its bits above 0 have moved down, and then its bit 0 alone would have
set bit 15. -/
theorem flickerStep_ne_zero {x : BitVec 16} (h : x ≠ 0) : flickerStep x ≠ 0 := by
  intro zero
  have bits (i : Nat) : (flickerStep x).getLsbD i = false := by rw [zero]; exact BitVec.getLsbD_zero
  have upper (i : Nat) : x.getLsbD (1 + i) = false := by
    have := bits i
    rw [flickerStep_getLsbD, Bool.or_eq_false_iff] at this
    exact this.1
  have lowest : x.getLsbD 0 = false := by
    have := bits 15
    rw [flickerStep_getLsbD, upper 1, upper 2, upper 4] at this
    simpa using this
  refine h (BitVec.eq_of_getLsbD_eq fun i _ => ?_)
  cases i with
  | zero => simpa using lowest
  | succ i => simpa [Nat.add_comm] using upper i

/-- Settles O39. -/
theorem carriersDecideTheirPhase : Obligations.CarriersDecideTheirPhase := by
  refine ⟨fun r count x => ⟨fun h => by simp [CarrierRec.onPhase, h], fun h => by simp [CarrierRec.onPhase, h],
      fun h => by simp only [CarrierRec.onPhase, h]; exact decide_eq_true_iff, fun low high on below => ?_⟩,
    fun x => ⟨fun i hi => ?_, ?_, flickerStep_ne_zero⟩, fun r q m n x hr hq le => ?_⟩
  · constructor
    · exact (Nat.le_div_iff_mul_le (by omega)).2 (by omega)
    · exact Nat.le_of_lt_succ ((Nat.div_lt_iff_lt_mul (by omega)).2 (by omega))
  · rw [flickerStep_getLsbD, Nat.add_comm]
    simp [Nat.ne_of_lt hi]
  · rw [flickerStep_getLsbD]
    simp
  · simp only [CarrierRec.onPhase, hr, hq, decide_eq_true_eq]
    exact fun h => Nat.lt_of_lt_of_le h le

end Sys2Proof.Machine
end

section
/-! Proofs about duties (R93 to R95, R102 to R106), and what every move keeps of the lighting: fades between their ends
and a running flicker register. -/

namespace Sys2Proof.Machine

/-! ### Duties -/

theorem OutputCurve.apply_mono (curve : OutputCurve) {x y : Nat} (h : x ≤ y) : curve.apply x ≤ curve.apply y := by
  cases curve with
  | linear => exact h
  | square => exact Nat.div_le_div_right (Nat.mul_le_mul h h)

theorem OutputCurve.apply_full (curve : OutputCurve) : curve.apply 65535 = 65535 := by
  cases curve <;> rfl

theorem fitDuty_mono (floor ceiling : Nat) {x y : Nat} (h : x ≤ y) : fitDuty floor ceiling x ≤ fitDuty floor ceiling y := by
  unfold fitDuty
  split
  · exact Nat.zero_le _
  · rw [if_neg (by omega)]
    exact Nat.add_le_add_left (Nat.div_le_div_right (Nat.mul_le_mul_right _ h)) _

theorem fitDuty_full {floor ceiling : Nat} (h : floor ≤ ceiling) : fitDuty floor ceiling 65535 = ceiling := by
  unfold fitDuty
  rw [if_neg (by decide), Nat.mul_div_cancel_left _ (by decide)]
  omega

theorem fitDuty_floor {floor ceiling x : Nat} (h : x ≠ 0) : floor ≤ fitDuty floor ceiling x := by
  unfold fitDuty
  rw [if_neg h]
  exact Nat.le_add_right ..

/-- R93: the level before the output curve. -/
theorem scaled_le {intent master grand : Nat} (hi : intent ≤ 65535) (hm : master ≤ 255) (hg : grand ≤ 255) :
    intent * master / 255 * grand / 255 ≤ 65535 := by
  have one : intent * master / 255 ≤ 65535 :=
    Nat.div_le_of_le_mul (Nat.le_trans (Nat.mul_le_mul hi hm) (by decide))
  exact Nat.div_le_of_le_mul (Nat.le_trans (Nat.mul_le_mul one hg) (by decide))

theorem ChannelRec.baseDuty_mono (r : ChannelRec) (master grand : Nat) {x y : Nat} (h : x ≤ y) :
    r.baseDuty x master grand ≤ r.baseDuty y master grand :=
  fitDuty_mono _ _ (r.curve.apply_mono (Nat.div_le_div_right (Nat.mul_le_mul_right _
    (Nat.div_le_div_right (Nat.mul_le_mul_right _ h)))))

theorem ChannelRec.baseDuty_bounds (r : ChannelRec) {intent master grand : Nat} (order : r.floor ≤ r.ceiling)
    (hi : intent ≤ 65535) (hm : master ≤ 255) (hg : grand ≤ 255) :
    r.baseDuty intent master grand = 0 ∨
      r.floor ≤ r.baseDuty intent master grand ∧ r.baseDuty intent master grand ≤ r.ceiling := by
  unfold ChannelRec.baseDuty
  by_cases dark : r.curve.apply (intent * master / 255 * grand / 255) = 0
  · exact .inl (by rw [dark]; rfl)
  · refine .inr ⟨fitDuty_floor dark, ?_⟩
    calc fitDuty r.floor r.ceiling (r.curve.apply (intent * master / 255 * grand / 255))
        ≤ fitDuty r.floor r.ceiling 65535 :=
          fitDuty_mono _ _ (r.curve.apply_full ▸ r.curve.apply_mono (scaled_le hi hm hg))
      _ = r.ceiling := fitDuty_full order

/-- Settles O37. -/
theorem dutiesStayBetweenFloorAndCeiling : Obligations.DutiesStayBetweenFloorAndCeiling := by
  intro r intent master grand order hi hm hg d
  have base := r.baseDuty_bounds order hi hm hg
  refine ⟨base, fun phase => ?_, ?_, fun dark => ?_, fun more le _ => r.baseDuty_mono _ _ le⟩
  · unfold ChannelRec.gate
    split
    · exact base
    · split
      · exact base
      · exact .inr ⟨order, Nat.le_refl _⟩
    · split
      · exact .inl rfl
      · exact base
  · show fitDuty r.floor r.ceiling (r.curve.apply 65535) = r.ceiling
    rw [r.curve.apply_full, fitDuty_full order]
  · have zero : intent * master / 255 * grand / 255 = 0 := by
      rcases dark with rfl | rfl | rfl <;> simp
    show fitDuty r.floor r.ceiling (r.curve.apply (intent * master / 255 * grand / 255)) = 0
    rw [zero]
    cases r.curve <;> rfl

/-! ### What every move keeps -/

/-- R84, R90: every fade and master fade of the engine is within its bounds. -/
def Lighting.FadesWithin (l : Lighting) : Prop := (∀ c : Fin 48, l.channels[c].fade.Within) ∧ ∀ g : Fin 16, l.masters[g].Within

theorem State.fadesBetween_iff {s : State} : s.FadesBetween ↔ s.light.FadesWithin := Iff.rfl

theorem Fade.reset_within : Fade.reset.Within := ⟨Nat.le_refl _, by decide, by decide⟩
theorem MasterFade.reset_within : MasterFade.reset.Within := ⟨Nat.le_refl _, by decide, by decide⟩

theorem Lighting.reset_within : Lighting.reset.FadesWithin := by
  constructor
  · intro c
    show (Vector.ofFn Channel.reset)[c].fade.Within
    rw [Fin.getElem_fin, Vector.getElem_ofFn]
    exact Fade.reset_within
  · intro g
    show (Vector.replicate 16 MasterFade.reset)[g].Within
    rw [Fin.getElem_fin, Vector.getElem_replicate]
    exact MasterFade.reset_within

theorem LightMove.fadesWithin {t : Tables} {mode : ShowState} {l m : Lighting} (move : LightMove t mode l m)
    (h : l.FadesWithin) : m.FadesWithin := by
  obtain ⟨channels, masters⟩ := h
  cases move with
  | fade c level length curve =>
    refine ⟨fun d => ?_, by rw [Lighting.startFade_masters]; exact masters⟩
    rw [Lighting.startFade_channel]
    split
    · exact Fade.begin_within ..
    · exact channels d
  | master g level length =>
    refine ⟨channels, fun d => ?_⟩
    rw [Lighting.startMaster_master]
    split
    · exact MasterFade.begin_within ..
    · exact masters d
  | grand | round => exact ⟨channels, masters⟩
  | tick f =>
    refine ⟨fun c => ?_, fun g => ?_⟩
    · show (Lighting.advanceCarriers _ t mode).channels[c].fade.Within
      rw [Lighting.advanceCarriers_channels, Lighting.formDuties_channel]
      show (Lighting.decidePhases _ t mode).channels[c].fade.Within
      rw [Lighting.decidePhases_channels, Lighting.stepFades_channel]
      exact Fade.step_within (channels c)
    · show (Lighting.advanceCarriers _ t mode).masters[g].Within
      rw [Lighting.advanceCarriers_masters, Lighting.formDuties_masters, Lighting.stepFades_master]
      exact MasterFade.step_within (masters g)
  | house asserted =>
    refine ⟨fun c => ?_, by rw [Lighting.houseEvent_masters]; exact masters⟩
    rw [Lighting.houseEvent_channel]
    split <;> exact channels c
  | period c =>
    refine ⟨fun d => ?_, by rw [Lighting.periodStart_masters]; exact masters⟩
    rw [Lighting.periodStart_channel]
    split
    · exact channels c
    · exact channels d
  | loading =>
    refine ⟨fun c => ?_, fun g => Lighting.reset_within.2 g⟩
    simp only [Lighting.enterLoading, Fin.getElem_fin, Vector.getElem_ofFn]
    exact Fade.reset_within
  | reset =>
    refine ⟨fun c => ?_, fun g => Lighting.reset_within.2 g⟩
    simp only [Lighting.softReset, Fin.getElem_fin, Vector.getElem_ofFn]
    exact Fade.reset_within

theorem flickerSeed_ne_zero : (Config.flickerSeed : BitVec 16) ≠ 0 := by decide

theorem LightMove.flickerRuns {t : Tables} {mode : ShowState} {l m : Lighting} (move : LightMove t mode l m)
    (h : l.flicker ≠ 0) : m.flicker ≠ 0 := by
  cases move with
  | tick f =>
    show (Lighting.advanceCarriers _ t mode).flicker ≠ 0
    rw [Lighting.advanceCarriers_flicker, Lighting.formDuties_flicker, Lighting.stepFades_flicker]
    split
    · exact h
    · exact flickerStep_ne_zero h
  | loading | reset => exact flickerSeed_ne_zero
  | fade c level length curve => rw [Lighting.startFade_flicker]; exact h
  | master g level length => rw [Lighting.startMaster_flicker]; exact h
  | house asserted => rw [Lighting.houseEvent_flicker]; exact h
  | period c => rw [Lighting.periodStart_flicker]; exact h
  | grand | round => exact h

/-- An act leaves the lighting as it is, or moves it. -/
theorem Act.light_cases {s t : State} (act : Act s t) :
    t.light = s.light ∨ LightMove s.store.tables s.store.mode s.light t.light := by
  cases act with
  | stored =>
    obtain ⟨u, -, ⟨-, rfl⟩ | ⟨z, -, -, rfl⟩ | ⟨-, -, rfl⟩⟩ := State.storeRecord?_some ‹_› <;> exact .inl rfl
  | halt p reason =>
    unfold State.halt
    split <;> exact .inl rfl
  | offer sc src => exact .inl (congrArg State.light (s.offer_rest sc src) :)
  | light l move => exact .inr move
  | house asserted => exact .inr (.house ..)
  | _ => exact .inl rfl

/-- What every lighting move keeps, and holds after a reset, every step keeps. -/
theorem step_keeps_light {P : Lighting → Prop}
    (move : ∀ (t : Tables) (mode : ShowState) (l m : Lighting), LightMove t mode l m → P l → P m) (reset : P Lighting.reset)
    {s t : State} (h : step s = .next t) (hs : P s.light) : P t.light := by
  refine step_keeps (P := fun s => P s.light) (fun _ _ h => h) (fun s t part h => ?_) h hs
  cases part with
  | act act =>
    rcases act.light_cases with same | moved
    · exact same ▸ h
    · exact move _ _ _ _ moved h
  | restart => exact reset
  | _ => exact h

end Sys2Proof.Machine
end

section
/-! Proofs about what every act keeps of the tables and flags (R1, R8), of the pending queue (R29), and of the claims and
start orders of the players (R40, R53, R63, R65). -/

namespace Sys2Proof.Machine

/-! ### Tables and flags -/

theorem State.halt_store (s : State) (p : Fin 8) (reason : StopReason) : (s.halt p reason).store = s.store :=
  (EngineOnly.halt s p reason).store

theorem State.offer_store (s : State) (sc : Fin 64) (src : Source) : (s.offer sc src).1.store = s.store :=
  (EngineOnly.offer s sc src).store

theorem State.storeRecord?_store {s t : State} {table : Fin 14} {i : Nat} {bs : List Byte}
    (h : s.storeRecord? table i bs = some t) :
    ∃ u, s.store.tables.storeEntry? table i bs = some u ∧ t.store = { s.store with tables := u } := by
  obtain ⟨u, hu, ⟨-, rfl⟩ | ⟨z, -, -, rfl⟩ | ⟨-, -, rfl⟩⟩ := State.storeRecord?_some h <;> exact ⟨u, hu, rfl⟩

theorem Act.tablesCanonical {s t : State} (act : Act s t) (h : s.TablesCanonical) : t.TablesCanonical := by
  unfold State.TablesCanonical at h ⊢
  cases act with
  | emptied => exact Tables.wf_empty
  | stored =>
    obtain ⟨u, hu, store⟩ := State.storeRecord?_store ‹_›
    rw [store]
    exact Tables.wf_storeEntry h hu
  | halt p reason => rw [s.halt_store p reason]; exact h
  | offer sc src => rw [s.offer_store sc src]; exact h
  | _ => exact h

theorem Act.flagsOff {s t : State} (act : Act s t) (h : s.FlagsOffOutsideShow) : t.FlagsOffOutsideShow := by
  unfold State.FlagsOffOutsideShow at h ⊢
  cases act with
  | mode m triggers attract off => exact off
  | stored =>
    obtain ⟨u, hu, store⟩ := State.storeRecord?_store ‹_›
    rw [store]
    exact h
  | halt p reason => rw [s.halt_store p reason]; exact h
  | offer sc src => rw [s.offer_store sc src]; exact h
  | _ => exact h

theorem step_keeps_tablesCanonical {s t : State} (h : step s = .next t) : s.TablesCanonical → t.TablesCanonical :=
  step_keeps (P := State.TablesCanonical) (fun _ _ h => h) (fun s t move h => by
    cases move with
    | act act => exact act.tablesCanonical h
    | restart => exact Tables.wf_empty
    | _ => exact h) h

theorem step_keeps_flagsOff {s t : State} (h : step s = .next t) : s.FlagsOffOutsideShow → t.FlagsOffOutsideShow :=
  step_keeps (P := State.FlagsOffOutsideShow) (fun _ _ h => h) (fun s t move h => by
    cases move with
    | act act => exact act.flagsOff h
    | restart => exact fun _ => ⟨rfl, rfl⟩
    | _ => exact h) h

/-! ### The pending queue -/

/-- R29: at most 16 entries, in non-increasing priority. -/
def QueueWithin (q : List Entry) : Prop := q.length ≤ 16 ∧ q.Pairwise fun a b => b.priority ≤ a.priority

theorem State.queueOrdered_iff {s : State} : s.QueueOrdered ↔ QueueWithin s.engine.queue := Iff.rfl

theorem insertEntry_length (x : Entry) (q : List Entry) : (insertEntry x q).length = q.length + 1 :=
  (insertEntry_perm x q).length_eq

theorem insertEntry_ordered (x : Entry) {q : List Entry} (h : q.Pairwise fun a b => b.priority ≤ a.priority) :
    (insertEntry x q).Pairwise fun a b => b.priority ≤ a.priority := by
  induction q with
  | nil => exact List.pairwise_singleton ..
  | cons y rest ih =>
    obtain ⟨first, others⟩ := List.pairwise_cons.1 h
    unfold insertEntry
    split
    · next le =>
      refine List.pairwise_cons.2 ⟨fun z hz => ?_, ih others⟩
      rcases List.mem_cons.1 ((insertEntry_perm x rest).mem_iff.1 hz) with rfl | hz
      · exact le
      · exact first z hz
    · next lt =>
      refine List.pairwise_cons.2 ⟨fun z hz => ?_, h⟩
      rcases List.mem_cons.1 hz with rfl | hz
      · omega
      · have := first z hz; omega

/-- R28 to R30: an offer leaves the queue, or puts an entry in a queue with room, which it may have had to make. -/
theorem State.offer_queue (s : State) (sc : Fin 64) (src : Source) :
    (s.offer sc src).1.engine.queue = s.engine.queue
    ∨ ∃ x q, (s.offer sc src).1.engine.queue = insertEntry x q ∧ q.Sublist s.engine.queue
        ∧ (q.length < 16 ∨ q.length < s.engine.queue.length) := by
  unfold State.offer
  dsimp only
  split
  · exact .inl rfl
  · split
    · next room => exact .inr ⟨_, _, rfl, .refl _, .inl room⟩
    · split
      · next last hlast =>
        split
        · refine .inr ⟨_, _, rfl, List.dropLast_sublist _, .inr ?_⟩
          have some : s.engine.queue ≠ [] := by rintro none; simp [none] at hlast
          have := List.length_pos_iff.2 some
          show s.engine.queue.dropLast.length < s.engine.queue.length
          rw [List.length_dropLast]
          omega
        · exact .inl rfl
      · exact .inl rfl

theorem Act.queueWithin {s t : State} (act : Act s t) (h : QueueWithin s.engine.queue) : QueueWithin t.engine.queue := by
  obtain ⟨size, order⟩ := h
  cases act with
  | stored =>
    obtain ⟨u, -, ⟨-, rfl⟩ | ⟨z, -, -, rfl⟩ | ⟨-, -, rfl⟩⟩ := State.storeRecord?_some ‹_› <;> exact ⟨size, order⟩
  | halt p reason =>
    unfold State.halt
    split <;> exact ⟨size, order⟩
  | offer sc src =>
    rcases s.offer_queue sc src with same | ⟨x, q, new, sub, room⟩
    · rw [same]; exact ⟨size, order⟩
    · rw [new]
      exact ⟨by rw [insertEntry_length]; omega, insertEntry_ordered x (order.sublist sub)⟩
  | queue q sub => exact ⟨Nat.le_trans sub.length_le size, order.sublist sub⟩
  | patience k same =>
    refine ⟨by rw [State.setQueue, List.length_map]; exact size, List.pairwise_map.2 (order.imp fun {a b} le => ?_)⟩
    rw [same, same]
    exact le
  | engineReset => exact ⟨Nat.zero_le _, .nil⟩
  | _ => exact ⟨size, order⟩

theorem step_keeps_queueOrdered {s t : State} (h : step s = .next t) : s.QueueOrdered → t.QueueOrdered :=
  step_keeps (P := State.QueueOrdered) (fun _ _ h => h) (fun s t move h => by
    cases move with
    | act act => exact act.queueWithin h
    | restart => exact ⟨Nat.zero_le _, .nil⟩
    | _ => exact h) h

/-! ### Claims and players -/

/-- R63: no claim names a FREE player. -/
structure Engine.ClaimsHeld (e : Engine) : Prop where
  groups : ∀ (g : Fin 16) (p : Fin 8), e.claims.groups[g] = .player p → e.players[p].isSome = true
  axes : ∀ (a : Fin 8) (p : Fin 8), e.claims.axes[a] = some p → e.players[p].isSome = true
  voices : ∀ (v : Fin 4) (p : Fin 8), e.claims.voices[v] = some p → e.players[p].isSome = true

theorem State.claimsNamePlayers_iff {s : State} : s.ClaimsNamePlayers ↔ s.engine.ClaimsHeld :=
  ⟨fun ⟨g, a, v⟩ => ⟨g, a, v⟩, fun ⟨g, a, v⟩ => ⟨g, a, v⟩⟩

/-- Nothing but the claims and who is FREE matters. -/
theorem Engine.ClaimsHeld.of {e f : Engine} (h : e.ClaimsHeld) (claims : f.claims = e.claims)
    (players : ∀ p : Fin 8, e.players[p].isSome = true → f.players[p].isSome = true) : f.ClaimsHeld := by
  refine ⟨?_, ?_, ?_⟩ <;> rw [claims]
  · exact fun g p own => players p (h.groups g p own)
  · exact fun a p own => players p (h.axes a p own)
  · exact fun v p own => players p (h.voices v p own)

theorem Engine.ClaimsHeld.unclaimed {e : Engine} (groups : ∀ (g : Fin 16) (p : Fin 8), e.claims.groups[g] ≠ .player p)
    (axes : ∀ a : Fin 8, e.claims.axes[a] = none) (voices : ∀ v : Fin 4, e.claims.voices[v] = none) : e.ClaimsHeld :=
  ⟨fun g p own => absurd own (groups g p), fun a _ own => (nomatch (axes a).symm.trans own),
   fun v _ own => (nomatch (voices v).symm.trans own)⟩

theorem Claims.reset_group (g : Fin 16) : Claims.reset.groups[g] = .none := by simp [Claims.reset]
theorem Claims.reset_noPlayer (g : Fin 16) (p : Fin 8) : Claims.reset.groups[g] ≠ .player p := by
  rw [Claims.reset_group]
  nofun
theorem Claims.reset_axis (a : Fin 8) : Claims.reset.axes[a] = none := by simp [Claims.reset]
theorem Claims.reset_voice (v : Fin 4) : Claims.reset.voices[v] = none := by simp [Claims.reset]

theorem Claims.release_group (c : Claims) (p : Fin 8) (g : Fin 16) :
    (c.release p).groups[g] = if c.groups[g] = .player p then .none else c.groups[g] := by simp [Claims.release]
theorem Claims.release_axis (c : Claims) (p : Fin 8) (a : Fin 8) :
    (c.release p).axes[a] = if c.axes[a] = some p then none else c.axes[a] := by simp [Claims.release]
theorem Claims.release_voice (c : Claims) (p : Fin 8) (v : Fin 4) :
    (c.release p).voices[v] = if c.voices[v] = some p then none else c.voices[v] := by simp [Claims.release]

theorem Claims.claim_group (c : Claims) (r : SceneRec) (voice : Option (Fin 4)) (p : Fin 8) (g : Fin 16) :
    (c.claim r voice p).groups[g] = if r.groupMask.getLsbD g then .player p else c.groups[g] := by simp [Claims.claim]
theorem Claims.claim_axis (c : Claims) (r : SceneRec) (voice : Option (Fin 4)) (p : Fin 8) (a : Fin 8) :
    (c.claim r voice p).axes[a] = if r.axisMask.getLsbD a then some p else c.axes[a] := by simp [Claims.claim]
theorem Claims.claim_voice (c : Claims) (r : SceneRec) (voice : Option (Fin 4)) (p : Fin 8) (v : Fin 4) :
    (c.claim r voice p).voices[v] = if voice = some v then some p else c.voices[v] := by simp [Claims.claim]

theorem lowerOrders_get (players : Vector (Option Run) 8) (p : Fin 8) (order : Nat) (q : Fin 8) :
    (lowerOrders players p order)[q] =
      if q = p then none else players[q].map fun r => r.closedUp order := by
  simp only [lowerOrders, Fin.getElem_fin, Vector.getElem_ofFn, Fin.eta]
  rfl

theorem Engine.ClaimsHeld.halt {s : State} (h : s.engine.ClaimsHeld) (p : Fin 8) (reason : StopReason) :
    (s.halt p reason).engine.ClaimsHeld := by
  cases hr : s.engine.players[p] with
  | none => rw [show s.halt p reason = s by rw [State.halt, hr]]; exact h
  | some r =>
    rw [s.halt_engine p reason hr]
    have held (q : Fin 8) (other : q ≠ p) (run : s.engine.players[q].isSome = true) :
        (lowerOrders s.engine.players p r.order)[q].isSome = true := by
      rw [lowerOrders_get, if_neg other, Option.isSome_map]
      exact run
    refine ⟨fun g q own => ?_, fun a q own => ?_, fun v q own => ?_⟩
    · rw [Claims.release_group] at own
      split at own
      · cases own
      · next keep => exact held q (fun e => keep (e ▸ own)) (h.groups g q own)
    · rw [Claims.release_axis] at own
      split at own
      · cases own
      · next keep => exact held q (fun e => keep (e ▸ own)) (h.axes a q own)
    · rw [Claims.release_voice] at own
      split at own
      · cases own
      · next keep => exact held q (fun e => keep (e ▸ own)) (h.voices v q own)

theorem Engine.ClaimsHeld.startOn {s : State} (h : s.engine.ClaimsHeld) (sc : Fin 64) (src : Source)
    (voice : Option (Fin 4)) (p : Fin 8) : (s.startOn sc src voice p).engine.ClaimsHeld := by
  have held (q : Fin 8) (run : q = p ∨ s.engine.players[q].isSome = true) :
      (s.startOn sc src voice p).engine.players[q].isSome = true := by
    show (s.engine.players.set p (some _))[q].isSome = true
    rw [Vector.getElem_setFin]
    split
    · rfl
    · exact run.resolve_left fun e => by simp_all
  refine ⟨fun g q own => held q ?_, fun a q own => held q ?_, fun v q own => held q ?_⟩
  · change (Claims.claim ..).groups[g] = _ at own
    rw [Claims.claim_group] at own
    split at own
    · exact .inl (by cases own; rfl)
    · exact .inr (h.groups g q own)
  · change (Claims.claim ..).axes[a] = _ at own
    rw [Claims.claim_axis] at own
    split at own
    · exact .inl (by cases own; rfl)
    · exact .inr (h.axes a q own)
  · change (Claims.claim ..).voices[v] = _ at own
    rw [Claims.claim_voice] at own
    split at own
    · exact .inl (by cases own; rfl)
    · exact .inr (h.voices v q own)

/-- A player that runs goes on as another record. -/
theorem set_isSome {players : Vector (Option Run) 8} (p : Fin 8) (x : Run) (q : Fin 8)
    (h : players[q].isSome = true) : (players.set p (some x))[q].isSome = true := by
  rw [Vector.getElem_setFin]
  split
  · rfl
  · exact h

theorem State.offer_claims_players (s : State) (sc : Fin 64) (src : Source) :
    (s.offer sc src).1.engine.claims = s.engine.claims ∧ (s.offer sc src).1.engine.players = s.engine.players := by
  unfold State.offer
  dsimp only
  split
  · exact ⟨rfl, rfl⟩
  · split
    · exact ⟨rfl, rfl⟩
    · split
      · split <;> exact ⟨rfl, rfl⟩
      · exact ⟨rfl, rfl⟩

theorem Act.claimsHeld {s t : State} (act : Act s t) (h : s.engine.ClaimsHeld) : t.engine.ClaimsHeld := by
  cases act with
  | stored =>
    obtain ⟨u, -, ⟨-, rfl⟩ | ⟨z, -, -, rfl⟩ | ⟨-, -, rfl⟩⟩ := State.storeRecord?_some ‹_› <;> exact h
  | halt p reason => exact h.halt p reason
  | startOn sc src voice p free => exact h.startOn sc src voice p
  | offer sc src =>
    obtain ⟨claims, players⟩ := s.offer_claims_players sc src
    exact h.of claims fun p run => by rw [players]; exact run
  | owner g o other =>
    refine ⟨fun c p own => ?_, h.axes, h.voices⟩
    change (s.engine.claims.groups.set g o)[c] = _ at own
    rw [Vector.getElem_setFin] at own
    split at own
    · exact absurd own (other p)
    · exact h.groups c p own
  | player p r q run same order loops => exact h.of rfl fun c held => set_isSome p q c held
  | press b =>
    refine h.of rfl fun p run => ?_
    show (Vector.ofFn fun p => s.engine.players[p].map fun r => r.pressed b)[p].isSome = true
    simpa using run
  | engineReset =>
    exact .unclaimed Claims.reset_noPlayer Claims.reset_axis Claims.reset_voice
  | scene | scenes | queue | patience | counted | house | estop => exact h.of rfl fun p run => run
  | _ => exact h

theorem step_keeps_claimsNamePlayers {s t : State} (h : step s = .next t) : s.ClaimsNamePlayers → t.ClaimsNamePlayers := by
  rw [State.claimsNamePlayers_iff, State.claimsNamePlayers_iff]
  refine step_keeps (P := fun s => s.engine.ClaimsHeld) (fun _ _ h => h) (fun s t move h => ?_) h
  cases move with
  | act act => exact act.claimsHeld h
  | restart =>
    exact .unclaimed Claims.reset_noPlayer Claims.reset_axis Claims.reset_voice
  | _ => exact h

/-! ### Start orders -/

theorem State.playersOrdered_iff {s : State} : s.PlayersOrdered ↔ OrdersWithin s.engine.players := Iff.rfl

theorem OrdersWithin.none : OrdersWithin (Vector.replicate 8 none) :=
  ⟨fun p r h => by simp at h, fun p q r x h => by simp at h⟩

theorem Run.pressed_same (r : Run) (b : Fin 16) :
    (r.pressed b).order = r.order ∧ (r.pressed b).loops = r.loops ∧ (r.pressed b).scene = r.scene := by
  unfold Run.pressed
  split
  · split <;> exact ⟨rfl, rfl, rfl⟩
  · exact ⟨rfl, rfl, rfl⟩
  · exact ⟨rfl, rfl, rfl⟩

theorem Act.ordersWithin {s t : State} (act : Act s t) (h : OrdersWithin s.engine.players) :
    OrdersWithin t.engine.players := by
  cases act with
  | stored =>
    obtain ⟨u, -, ⟨-, rfl⟩ | ⟨z, -, -, rfl⟩ | ⟨-, -, rfl⟩⟩ := State.storeRecord?_some ‹_› <;> exact h
  | halt p reason =>
    cases hr : s.engine.players[p] with
    | none => rw [show s.halt p reason = s by rw [State.halt, hr]]; exact h
    | some r => rw [s.halt_engine p reason hr]; exact h.lower hr
  | startOn sc src voice p free => exact h.start free rfl (Nat.zero_le _)
  | offer sc src => rw [(s.offer_claims_players sc src).2]; exact h
  | player p r q run same order loops =>
    refine h.update (fun c y hy => ?_) fun c => ?_
    · change (s.engine.players.set p (some q))[c] = _ at hy
      rw [Vector.getElem_setFin] at hy
      split at hy
      · next own => cases hy; subst own; exact ⟨r, run, order, loops⟩
      · exact ⟨y, hy, rfl, id⟩
    · show (s.engine.players.set p (some q))[c].isSome = _
      rw [Vector.getElem_setFin]
      split
      · next own => subst own; rw [run]; rfl
      · rfl
  | press b =>
    have new (c : Fin 8) : (s.engine.press b).players[c] = s.engine.players[c].map fun r => r.pressed b := by
      simp [Engine.press]
    refine h.update (fun c y hy => ?_) fun c => by rw [new, Option.isSome_map]
    rw [new, Option.map_eq_some_iff] at hy
    obtain ⟨x, hx, rfl⟩ := hy
    obtain ⟨order, loops, -⟩ := x.pressed_same b
    exact ⟨x, hx, order, fun le => by rw [loops]; exact le⟩
  | engineReset => exact OrdersWithin.none
  | _ => exact h

theorem step_keeps_playersOrdered {s t : State} (h : step s = .next t) : s.PlayersOrdered → t.PlayersOrdered :=
  step_keeps (P := State.PlayersOrdered) (fun _ _ h => h) (fun s t move h => by
    cases move with
    | act act => exact act.ordersWithin h
    | restart => exact OrdersWithin.none
    | _ => exact h) h

end Sys2Proof.Machine
end

section
/-! Proofs about looks (R83), returns to attract (R78, R115) and the stop of a player whose scene rests (R34, R57, R65),
channel by channel and field by field. -/

namespace Sys2Proof.Machine

/-! ### Looks and returns to attract -/

/-- R83, R85: what the entries of a look make of one channel of an eligible group. -/
theorem Lighting.applyLook_channel (l : Lighting) (t : Tables) (look : Fin 128) (eligible : Fin 16 → Bool) (length : Nat)
    (curve : FadeCurve) (c : Fin 48) :
    (l.applyLook t look eligible length curve).channels[c] =
      if eligible (t.channel c).group then
        { l.channels[c] with fade := t.lookFade look c length curve l.channels[c].fade }
      else l.channels[c] := by
  unfold Lighting.applyLook Tables.lookFade
  induction t.lookEntries look generalizing l with
  | nil => simp
  | cons e es ih =>
    rw [List.foldl_cons, List.foldl_cons, ih]
    by_cases own : e.channel = c
    · subst own
      by_cases el : eligible (t.channel e.channel).group = true
      · simp only [el, if_true, Lighting.startFade_channel, Fade.begin]
      · simp only [el, if_false, Bool.false_eq_true]
    · have other : (if eligible (t.channel e.channel).group = true then l.startFade e.channel e.level length curve
          else l).channels[c] = l.channels[c] := by
        split
        · rw [Lighting.startFade_channel, if_neg own]
        · rfl
      rw [other, if_neg own]

theorem State.returnGroups_nil (s : State) : s.returnGroups [] = s := by
  unfold State.returnGroups
  have idle (l : Lighting) (gs : List (Fin 16)) : gs.foldl (fun l _ => l) l = l := by
    induction gs with
    | nil => rfl
    | cons _ _ ih => exact ih
  split
  · simp [idle]
  · rfl

/-- R78, R115: one group of an event returns to attract if the event has released it. -/
def Lighting.backIn (t : Tables) (claims : Claims) (released : List (Fin 16)) (l : Lighting) (g : Fin 16) : Lighting :=
  if released.contains g then l.returnGroup t claims g else l

/-- R115: the fade of a channel whose group returns to attract, while the cycle is at slot `slot`. -/
def Tables.backFade (t : Tables) (slot : Fin 16) (c : Fin 48) (x : Channel) : Channel :=
  { x with fade := t.lookFade (t.slot slot).look c (t.group (t.channel c).group).returnFade .linear x.fade }

theorem Lighting.backIn_slot (t : Tables) (claims : Claims) (released : List (Fin 16)) (l : Lighting) (g : Fin 16) :
    (l.backIn t claims released g).slot = l.slot := by
  unfold Lighting.backIn
  split
  · exact (congrArg Lighting.slot (l.returnGroup_rest t claims g) :)
  · rfl

theorem Lighting.backIn_channel (t : Tables) (claims : Claims) (released : List (Fin 16)) (l : Lighting) (g : Fin 16)
    (c : Fin 48) :
    (l.backIn t claims released g).channels[c] =
      if g = (t.channel c).group ∧ g ∈ released ∧ attractEligible t claims g = true then
        t.backFade l.slot c l.channels[c]
      else l.channels[c] := by
  unfold Lighting.backIn Lighting.returnGroup Tables.backFade
  by_cases inside : g ∈ released
  · rw [if_pos (List.contains_iff_mem.2 inside)]
    by_cases el : attractEligible t claims g = true
    · rw [if_pos el, Lighting.applyLook_channel]
      by_cases own : g = (t.channel c).group
      · subst own
        rw [if_pos (decide_eq_true rfl), if_pos ⟨rfl, inside, el⟩]
      · rw [if_neg fun h => own (of_decide_eq_true h).symm, if_neg fun h => own h.1]
    · rw [if_neg el, if_neg fun h => el h.2.2]
  · rw [if_neg fun h => inside (List.contains_iff_mem.1 h), if_neg fun h => inside h.2.1]

/-- R115: over distinct groups, a channel is reached when its own group is, and once. -/
theorem Lighting.foldl_backIn_channel (t : Tables) (claims : Claims) (released : List (Fin 16)) (c : Fin 48)
    (groups : List (Fin 16)) (once : groups.Nodup) (l : Lighting) :
    (groups.foldl (Lighting.backIn t claims released) l).channels[c] =
      if (t.channel c).group ∈ groups ∧ (t.channel c).group ∈ released
          ∧ attractEligible t claims (t.channel c).group = true then
        t.backFade l.slot c l.channels[c]
      else l.channels[c] := by
  induction groups generalizing l with
  | nil => simp
  | cons g groups ih =>
    obtain ⟨new, once⟩ := List.nodup_cons.1 once
    rw [List.foldl_cons, ih once, Lighting.backIn_slot, Lighting.backIn_channel]
    by_cases own : g = (t.channel c).group
    · subst own
      simp only [new, false_and, if_false, true_and, List.mem_cons, true_or]
    · simp only [own, Ne.symm own, false_and, if_false, List.mem_cons, false_or]

/-- R78, R115: the groups released that are unowned return to attract. -/
theorem State.returnGroups_returns (s : State) (released : List (Fin 16)) :
    s.ReturnsGroups (s.returnGroups released).light
      (fun g => g ∈ released ∧ s.engine.claims.groups[g] = .none) := by
  refine ⟨(s.returnGroups_rest released).2, fun c => ?_⟩
  dsimp only
  unfold State.returnGroups
  split
  · next running =>
    have done := Lighting.foldl_backIn_channel s.store.tables s.engine.claims released c (List.finRange 16)
      (List.nodup_finRange 16) s.light
    have whole : attractEligible s.store.tables s.engine.claims (s.store.tables.channel c).group = true ↔
        (s.store.tables.group (s.store.tables.channel c).group).attract = true
        ∧ s.engine.claims.groups[(s.store.tables.channel c).group] = .none := by
      simp [attractEligible]
    constructor
    · rintro ⟨-, enabled, inside, free⟩
      exact done.trans (if_pos ⟨List.mem_finRange _, inside, whole.2 ⟨enabled, free⟩⟩)
    · intro not
      refine done.trans (if_neg ?_)
      rintro ⟨-, inside, el⟩
      exact not ⟨running, (whole.1 el).1, inside, (whole.1 el).2⟩
  · next stopped =>
    exact ⟨fun h => absurd h.1 stopped, fun _ => rfl⟩

/-- The groups named matter only up to equivalence. -/
theorem State.ReturnsGroups.congr {s : State} {m : Lighting} {P Q : Fin 16 → Prop} (h : s.ReturnsGroups m P)
    (same : ∀ g, P g ↔ Q g) : s.ReturnsGroups m Q := by
  rwa [show Q = P from funext fun g => propext (same g).symm]

/-! ### Stops -/

theorem Engine.mem_groupsOf {e : Engine} {p : Fin 8} {g : Fin 16} : g ∈ e.groupsOf p ↔ e.claims.groups[g] = .player p := by
  simp [Engine.groupsOf]

/-- R35: no AGAIN trigger follows the stop of scene `sc`. -/
def State.NoAgain (s : State) (sc : Fin 64) (reason : StopReason) : Prop :=
  reason.dropsAgain = true ∨ s.engine.scenes[sc].again = false ∨ s.engine.house = true

/-- R34: the scene alone changes when it rests. -/
theorem State.sceneRests_eq (s : State) (sc : Fin 64) : s.sceneRests sc = s.setScene sc (s.restOf sc) := by
  unfold State.sceneRests State.restOf State.sceneTo
  dsimp only
  split <;> rfl

theorem State.endScene_rests {again : State → Fin 64 → State × TriggerOutcome} {s : State} {sc : Fin 64} {reason : StopReason}
    (h : s.NoAgain sc reason) : s.endScene again sc reason = s.sceneRests sc := by
  unfold State.endScene
  dsimp only
  rw [if_neg (by rcases h with h | h | h <;> rw [h] <;> simp)]
  rw [State.sceneRests_eq, State.sceneRests_eq]
  show (s.sceneTo sc .ready).setScene sc (s.restOf sc) = _
  simp [State.sceneTo, State.setScene]

/-- R57, R65: the stop of a player up to its report. -/
theorem State.halt_eq {s : State} {p : Fin 8} {r : Run} (hr : s.engine.players[p] = some r) (reason : StopReason) :
    s.halt p reason = State.raise
      { s with
        engine := { s.engine with
          scenes := s.engine.scenes.set r.scene { s.engine.scenes[r.scene] with state := .ready, cooldown := 0 }
          players := lowerOrders s.engine.players p r.order
          claims := s.engine.claims.release p }
        sound := { s.sound with voices := Vector.ofFn fun v =>
          if s.engine.claims.voices[v] = some p then s.sound.voices[v].fadeOut else s.sound.voices[v] }
        motion := { s.motion with axes := Vector.ofFn fun a =>
          if s.engine.claims.axes[a] = some p then s.motion.axes[a].stopRequest else s.motion.axes[a] } }
      (.sceneEnded r.scene p reason r.cue) := by
  rw [State.halt, hr]

/-- R34, R57, R78: the whole stop of a player whose scene is not triggered again, operation by operation. -/
theorem State.stopPlayer_eq {s : State} {p : Fin 8} {r : Run} (hr : s.engine.players[p] = some r)
    {reason : StopReason} (rests : s.NoAgain r.scene reason) :
    s.stopPlayer p reason =
      ((s.halt p reason).setScene r.scene (s.restOf r.scene)).returnGroups (s.engine.groupsOf p) := by
  have still : (s.halt p reason).NoAgain r.scene reason := by
    rcases rests with h | h | h
    · exact .inl h
    · refine .inr (.inl ?_)
      rw [s.halt_engine p reason hr]
      show ((s.engine.scenes.set r.scene _)[r.scene]).again = false
      rw [Vector.getElem_setFin, if_pos rfl]
      exact h
    · exact .inr (.inr (by rw [s.halt_engine p reason hr]; exact h))
  rw [State.stopPlayer, hr]
  dsimp only
  rw [State.sceneEnds, State.endScene_rests still, State.sceneRests_eq]
  congr 2
  rw [State.halt_eq hr]
  rfl

/-- R34, R57, R65, R78: what the halt of a player leaves when its scene then rests and its groups return. -/
theorem State.halt_stops {s : State} {p : Fin 8} {r : Run} (hr : s.engine.players[p] = some r) (reason : StopReason) :
    s.StopsPlayer (((s.halt p reason).setScene r.scene (s.restOf r.scene)).returnGroups (s.engine.groupsOf p)) p r
      reason := by
  have halted := State.halt_eq hr reason
  generalize rested : (s.halt p reason).setScene r.scene (s.restOf r.scene) = u
  obtain ⟨rest, light⟩ := u.returnGroups_rest (s.engine.groupsOf p)
  have returns := u.returnGroups_returns (s.engine.groupsOf p)
  have engine := u.returnGroups_engine (s.engine.groupsOf p)
  have link : (u.returnGroups (s.engine.groupsOf p)).link = u.link := (congrArg State.link rest :)
  have sound : (u.returnGroups (s.engine.groupsOf p)).sound = u.sound := (congrArg State.sound rest :)
  have motion : (u.returnGroups (s.engine.groupsOf p)).motion = u.motion := (congrArg State.motion rest :)
  have others := congrArg (fun x : State => { x with
    link := s.link, engine := s.engine, light := s.light, sound := s.sound, motion := s.motion }) rest
  subst rested
  rw [halted] at returns engine link sound motion others light
  rw [halted]
  refine ⟨others, link, by rw [engine]; rfl, ?_, ?_, fun q other => ?_, fun g => ?_, fun a => ?_, fun v => ?_, ?_,
    by rw [sound]; rfl, fun v => ?_, by rw [motion]; rfl, fun a => ?_⟩
  · rw [engine]
    show (s.engine.scenes.set r.scene _).set r.scene _ = _
    simp
  · rw [engine]
    show (lowerOrders s.engine.players p r.order)[p] = none
    rw [lowerOrders_get, if_pos rfl]
  · rw [engine]
    show (lowerOrders s.engine.players p r.order)[q] = _
    rw [lowerOrders_get, if_neg other]
  · rw [engine]
    exact Claims.release_group ..
  · rw [engine]
    exact Claims.release_axis ..
  · rw [engine]
    exact Claims.release_voice ..
  · refine State.ReturnsGroups.congr (s := s) returns fun g => ?_
    rw [Engine.mem_groupsOf]
    show _ ∧ (s.engine.claims.release p).groups[g] = .none ↔ _
    rw [Claims.release_group]
    exact ⟨fun h => h.1, fun h => ⟨h, if_pos h⟩⟩
  · rw [sound]
    show (Vector.ofFn _)[v] = _
    simp
  · rw [motion]
    show (Vector.ofFn _)[a] = _
    simp

/-- R34, R57, R65, R78: the whole stop of a player whose scene is not triggered again. -/
theorem State.stopPlayer_stops {s : State} {p : Fin 8} {r : Run} (hr : s.engine.players[p] = some r)
    {reason : StopReason} (rests : s.NoAgain r.scene reason) :
    s.StopsPlayer (s.stopPlayer p reason) p r reason := by
  rw [State.stopPlayer_eq hr rests]
  exact State.halt_stops hr reason

end Sys2Proof.Machine
end

section
/-! Proofs about the commands that stay within their show state: they leave the tables, the show state and the load, keep
an idle engine idle outside SHOW (R9, R10, R63), the scenes in step with the queue and the players (R20), and the attract
cycle at rest (R116). -/

namespace Sys2Proof.Machine

/-- The part `t` comes of `s` by events within one show state. -/
structure Steady (s t : State) : Prop where
  store : t.store = s.store
  rests : s.store.attractRunning = false → t.light.slot = s.light.slot ∧ t.light.hold = s.light.hold
  idle : s.store.mode ≠ .running → s.engine.Idle → t.engine.Idle
  agrees : (s.store.mode ≠ .running → s.engine.Idle) → s.engine.Agrees settled → t.engine.Agrees settled

theorem Engine.Idle.of {e f : Engine} (h : e.Idle) (players : f.players = e.players) (queue : f.queue = e.queue)
    (claims : f.claims = e.claims) : f.Idle :=
  ⟨by rw [players]; exact h.players, queue.trans h.queue, by rw [claims]; exact h.groups, by rw [claims]; exact h.axes,
   by rw [claims]; exact h.voices⟩

theorem Engine.Idle.holder {e : Engine} (h : e.Idle) (sc : Fin 64) : e.holder sc = none := by
  simp only [Engine.holder, List.find?_eq_none, decide_eq_true_eq]
  intro p _
  rw [h.players p]
  nofun

theorem Engine.Idle.axesOf {e : Engine} (h : e.Idle) : e.anyAxisClaimed = false := by
  simp only [Engine.anyAxisClaimed, List.any_eq_false]
  intro p _
  rw [h.players p]
  nofun

namespace Steady

variable {s t u : State}

theorem of (engine : t.engine = s.engine) (store : t.store = s.store) (slot : t.light.slot = s.light.slot)
    (hold : t.light.hold = s.light.hold) : Steady s t :=
  ⟨store, fun _ => ⟨slot, hold⟩, fun _ h => engine ▸ h, fun _ h => engine ▸ h⟩

theorem refl (s : State) : Steady s s := of rfl rfl rfl rfl

theorem trans (h : Steady s t) (k : Steady t u) : Steady s u where
  store := k.store.trans h.store
  rests off := ⟨(k.rests (by rw [h.store]; exact off)).1.trans (h.rests off).1,
    (k.rests (by rw [h.store]; exact off)).2.trans (h.rests off).2⟩
  idle out e := k.idle (by rw [h.store]; exact out) (h.idle out e)
  agrees e a := k.agrees (fun out => h.idle (by rwa [h.store] at out) (e (by rwa [h.store] at out))) (h.agrees e a)

theorem foldl {β : Type} (f : State → β → State) (hf : ∀ s x, Steady s (f s x)) (xs : List β) (s : State) :
    Steady s (xs.foldl f s) := by
  induction xs generalizing s with
  | nil => exact refl s
  | cons x xs ih => exact (hf s x).trans (ih _)

/-- An operation of the Scene Engine that does nothing on an idle engine outside SHOW. -/
theorem engine (only : EngineOnly s t) (rest : s.store.mode ≠ .running → s.engine.Idle → t = s)
    (agrees : s.engine.Agrees settled → t.engine.Agrees settled) : Steady s t :=
  ⟨only.store, fun _ => ⟨only.slot, only.hold⟩, fun out e => by rw [rest out e]; exact e, fun _ => agrees⟩

theorem live (k : State → State) (h : Steady s (k s)) : Steady s (s.live k) := by
  unfold State.live
  split
  · exact refl s
  · exact h

theorem frameStep (f : Nat) (last : Option Nat) (brink : Bool) (k : State → State)
    (h : ∀ s, brink = true → Steady s (k s)) : Steady s (s.frameStep f last brink k) := by
  refine live _ ?_
  split
  · next due =>
    rw [Bool.and_eq_true] at due
    exact (of (s := s) (t := s.atFrame f) rfl rfl rfl rfl).trans (h _ due.1)
  · exact refl s

theorem raise (s : State) (r : Report) : Steady s (s.raise r) := of rfl rfl rfl rfl
theorem finishLink (s : State) : Steady s s.finishLink := of rfl rfl rfl rfl
theorem finish (s : State) : Steady s s.finish := of rfl rfl rfl rfl

/-! ### Scenes and players -/

theorem rescan (s : State) : Steady s s.rescan :=
  engine (.rescan s) (fun out _ => if_neg (by simp [out])) fun h => State.rescan_agrees h

theorem raiseTriggers (s : State) (src : Source) : Steady s (s.raiseTriggers src).1 :=
  engine (.raiseTriggers s src) (fun out _ => by rw [State.raiseTriggers, if_neg (by simp [out])])
    fun h => State.raiseTriggers_agrees h src

theorem stopAndRescan (s : State) (p : Fin 8) (reason : StopReason) : Steady s (s.stopAndRescan p reason) :=
  engine (.stopAndRescan s p reason) (fun _ e => by rw [State.stopAndRescan, e.players p])
    fun h => State.stopAndRescan_agrees h p reason

theorem playerFrame (s : State) (p : Fin 8) (f : Nat) : Steady s (s.playerFrame p f) where
  store := (PlayerOnly.playerFrame s p f).store
  rests _ := ⟨(PlayerOnly.playerFrame s p f).slot, (PlayerOnly.playerFrame s p f).hold⟩
  idle _ e := by rw [State.playerFrame, e.players p]; exact e
  agrees _ h := State.playerFrame_agrees h p f

theorem cancel (s : State) (sc : Fin 64) : Steady s (s.cancel sc).1 := by
  refine engine (.cancel s sc) (fun _ e => ?_) fun h => ?_
  · unfold State.cancel
    split
    · rw [e.queue]; rfl
    · rw [e.holder]
    all_goals rfl
  · unfold State.cancel
    split
    · split
      · next x found => exact State.dropEntry_agrees h (List.mem_of_find?_eq_some found) _
      · exact h
    · split
      · exact State.stopAndRescan_agrees h ..
      · exact h
    all_goals exact h


end Steady

/-- R29: entries dropped one after another; each is still queued when its turn comes, for no two are of one scene. -/
theorem State.foldl_dropEntry_agrees (reason : DropReason) (entries : List Entry) {s : State} (h : s.engine.Agrees settled)
    (queued : ∀ x ∈ entries, x ∈ s.engine.queue) (apart : entries.Pairwise fun a b => a.scene ≠ b.scene) :
    (entries.foldl (fun t e => State.dropEntry t e reason) s).engine.Agrees settled := by
  induction entries generalizing s with
  | nil => exact h
  | cons x rest ih =>
    obtain ⟨first, apart⟩ := List.pairwise_cons.1 apart
    refine ih (State.dropEntry_agrees h (queued x List.mem_cons_self) _) (fun y hy => ?_) apart
    exact List.mem_filter.2 ⟨queued y (List.mem_cons_of_mem _ hy), decide_eq_true (first y hy).symm⟩

theorem State.foldl_idle {β : Type} (f : State → β → State) {s : State} (h : ∀ x, f s x = s) (xs : List β) :
    xs.foldl f s = s := by
  induction xs with
  | nil => rfl
  | cons x xs ih => rw [List.foldl_cons, h, ih]

/-- R179: HOUSE in every block, and on its release the rescan. -/
theorem State.publishHouse_eq (s : State) (asserted : Bool) : s.publishHouse asserted =
    if asserted then (s.houseTaken asserted).holdsChanged s else ((s.houseTaken asserted).holdsChanged s).rescan := rfl

/-- R59, R179: ESTOP in the Motion and Scene Engines, and on its assertion the stops. -/
theorem State.publishEstop_eq (s : State) (asserted : Bool) : s.publishEstop asserted =
    if asserted && (s.estopTaken asserted).engine.anyAxisClaimed then (s.estopTaken asserted).estopPlayers.rescan
    else s.estopTaken asserted := rfl

namespace Steady

variable {s t u : State}

theorem stopEverything (s : State) : Steady s s.stopEverything := by
  refine engine (.stopEverything s) (fun _ e => ?_) fun h => ?_
  · unfold State.stopEverything
    rw [e.queue]
    exact State.foldl_idle (s := s) _ (fun p => by rw [State.stopPlayer, e.players p]) _
  · exact foldl_keeps (P := fun s : State => s.engine.Agrees settled) _
      (fun _ p k => State.stopPlayer_agrees k p _) _ _
      (State.foldl_dropEntry_agrees _ _ h (fun _ hx => hx) h.entries)

theorem setGroupOwner (s : State) (g : Fin 16) {o : GroupOwner} (other : ∀ p, o ≠ .player p) :
    Steady s (s.setGroupOwner g o) where
  store := rfl
  rests _ := ⟨rfl, rfl⟩
  idle _ e := ⟨e.players, e.queue, fun c p own => by
    change (s.engine.claims.groups.set g o)[c] = _ at own
    rw [Vector.getElem_setFin] at own
    split at own
    · exact other p own
    · exact e.groups c p own, e.axes, e.voices⟩
  agrees _ h := h.of rfl rfl fun _ => rfl

theorem returnGroups (s : State) (released : List (Fin 16)) : Steady s (s.returnGroups released) := by
  have only := EngineOnly.returnGroups s released
  exact of (s.returnGroups_engine released) only.store only.slot only.hold

theorem freeGroup (s : State) (g : Fin 16) : Steady s (s.freeGroup g) :=
  ((setGroupOwner s g (o := .none) fun _ => nofun).trans (returnGroups _ _)).trans (rescan _)

theorem dropExpired (s : State) (sc : Fin 64) (f : Nat) : Steady s
    (match s.expiring sc f with
      | some e => (s.dropEntry e .patience).finishLink
      | none => s) := by
  split
  · next x found =>
    refine (engine (.dropEntry s x _) (fun out => ?_) fun h => State.dropEntry_agrees h ?_ _).trans (finishLink _)
    · rw [State.expiring, if_neg out] at found
      cases found
    · unfold State.expiring at found
      split at found
      · exact List.mem_of_find?_eq_some found
      · cases found
  · exact refl s

theorem cooldownEnds (s : State) (sc : Fin 64) (f : Nat) (due : s.cooldownEnds sc f = true) :
    Steady s (s.sceneTo sc .ready) where
  store := rfl
  rests _ := ⟨rfl, rfl⟩
  idle _ e := e.of rfl rfl rfl
  agrees _ h := by
    have cooling : s.engine.scenes[sc].state = .cooldown := by
      simp only [State.cooldownEnds, SceneRun.counts, Bool.and_eq_true, decide_eq_true_eq] at due
      exact due.1.2.1
    exact (h.rest sc ⟨.ready, 0, false, none⟩ (by rw [cooling]; nofun) (by rw [cooling]; nofun) nofun nofun
      (fun _ => rfl) rfl).congr fun c => ⟨fun k => k.1, False.elim⟩

theorem countScenes (s : State) (f : Nat) : Steady s (s.countScenes f) where
  store := ((EngineOnly.countPatience s f).trans (.countCooldowns _ f)).store
  rests _ := ⟨((EngineOnly.countPatience s f).trans (.countCooldowns _ f)).slot,
    ((EngineOnly.countPatience s f).trans (.countCooldowns _ f)).hold⟩
  idle out e := by
    rw [State.countScenes, State.countPatience, if_neg out]
    unfold State.countCooldowns
    dsimp only
    split <;> exact e.of rfl rfl rfl
  agrees _ h := (State.countCooldowns_agrees (State.countPatience_agrees h f) f).of rfl rfl fun _ => rfl

/-! ### The motion and the sound -/

theorem mapAxes (s : State) (k : Fin 8 → Axis → Axis) : Steady s (s.mapAxes k) := of rfl rfl rfl rfl
theorem setAxis (s : State) (a : Fin 8) (x : Axis) : Steady s (s.setAxis a x) := of rfl rfl rfl rfl

theorem tookAxis (s : State) (a : Fin 8) (taken : Option Axis) : Steady s (s.tookAxis a taken).1 := by
  unfold State.tookAxis
  split
  · exact setAxis ..
  · exact refl s

theorem axisNews (s : State) (a : Fin 8) (news : AxisNews) : Steady s (s.axisNews a news) := by
  cases news with
  | quiet => exact refl s
  | homed => exact raise ..
  | fault cause =>
    unfold State.axisNews
    dsimp only
    split
    · split
      · exact (raise ..).trans (stopAndRescan ..)
      · exact raise ..
    · exact raise ..

theorem voiceFrame (s : State) (v : Fin 4) (f : Nat) : Steady s (s.voiceFrame v f) := by
  have counted : Steady s { s with sound := s.sound.voiceFrame v f } := of rfl rfl rfl rfl
  unfold State.voiceFrame
  extract_lets x
  split
  · exact counted.trans (raise ..)
  · exact counted

theorem bedFrame (s : State) (b : Fin 4) (f : Nat) : Steady s (s.bedFrame b f) := of rfl rfl rfl rfl

theorem soundFrame (s : State) (f : Nat) : Steady s (s.soundFrame f) :=
  (foldl _ (fun s v => voiceFrame s v f) _ _).trans (foldl _ (fun s b => bedFrame s b f) _ _)

/-! ### The lighting -/

theorem lightingFrame (s : State) (f : Nat) : Steady s (s.lightingFrame f) where
  store := rfl
  rests off := by
    show (s.light.frameEvent s.store s.engine.claims f).slot = _ ∧ (s.light.frameEvent s.store s.engine.claims f).hold = _
    unfold Lighting.frameEvent
    split
    · exact ⟨rfl, rfl⟩
    · dsimp only
      rw [if_neg (by simp [off])]
      simp
  idle _ e := e
  agrees _ h := h

/-! ### The zone monitor -/

theorem lampFrame (s : State) (b : Fin 16) (f : Nat) : Steady s (s.lampFrame b f) := by
  unfold State.lampFrame
  dsimp only
  split <;> exact of rfl rfl rfl rfl

theorem zoneFrame (s : State) (z : Fin 12) (raw : Bool) (f : Nat) : Steady s (s.zoneFrame z raw f) := by
  unfold State.zoneFrame
  dsimp only
  split
  · exact refl s
  · refine trans (t := State.holdsChanged (s.zoneStepped z raw f) s) (of rfl rfl rfl rfl) ?_
    unfold State.zoneNews
    split
    · exact (raise ..).trans (raiseTriggers ..)
    · exact (raise ..).trans (raiseTriggers ..)
    all_goals exact refl _

theorem press (s : State) (b : Fin 16) : Steady s (s.press b) := by
  have seen (s : State) : Steady s { s with engine := s.engine.press b } := by
    refine ⟨rfl, fun _ => ⟨rfl, rfl⟩, fun _ e => ⟨fun p => ?_, e.queue, e.groups, e.axes, e.voices⟩,
      fun _ h => Engine.press_agrees h b⟩
    show (s.engine.press b).players[p] = none
    simp only [Engine.press, Fin.getElem_fin, Vector.getElem_ofFn]
    rw [show s.engine.players[p.val] = none from e.players p]
    rfl
  unfold State.press
  dsimp only
  refine trans ?_ (seen _)
  split
  · split
    · exact (raiseTriggers ..).trans (of rfl rfl rfl rfl)
    · exact raiseTriggers ..
  · unfold State.languagePress
    dsimp only
    split
    · exact refl s
    · exact of rfl rfl rfl rfl

theorem buttonFrame (s : State) (b : Fin 16) (pressed : Bool) (f : Nat) : Steady s (s.buttonFrame b pressed f) := by
  unfold State.buttonFrame
  extract_lets x y _ stepped
  have taken : Steady s stepped := of rfl rfl rfl rfl
  split
  · exact refl s
  · split
    · exact taken.trans (press ..)
    · exact taken

/-- The copies of HOUSE and ESTOP are nothing to the scenes. -/
theorem safety (s : State) {t : State} (store : t.store = s.store) (slot : t.light.slot = s.light.slot)
    (hold : t.light.hold = s.light.hold) (scenes : t.engine.scenes = s.engine.scenes) (queue : t.engine.queue = s.engine.queue)
    (players : t.engine.players = s.engine.players) (claims : t.engine.claims = s.engine.claims) : Steady s t :=
  ⟨store, fun _ => ⟨slot, hold⟩, fun _ e => e.of players queue claims,
   fun _ h => h.of scenes queue fun p => by rw [players]⟩

theorem publishHouse (s : State) (asserted : Bool) : Steady s (s.publishHouse asserted) := by
  have taken : Steady s (State.holdsChanged (s.houseTaken asserted) s) :=
    safety s rfl (Lighting.houseEvent_slot ..) (Lighting.houseEvent_hold ..) rfl rfl rfl rfl
  rw [State.publishHouse_eq]
  split
  · exact taken
  · exact taken.trans (rescan _)

theorem publishEstop (s : State) (asserted : Bool) : Steady s (s.publishEstop asserted) := by
  have taken : Steady s (s.estopTaken asserted) := safety s rfl rfl rfl rfl rfl rfl rfl
  rw [State.publishEstop_eq]
  split
  · next claimed =>
    refine taken.trans (trans (t := (s.estopTaken asserted).estopPlayers) ?_ (rescan _))
    refine engine (.estopPlayers _) (fun _ e => ?_) fun h => ?_
    · rw [e.axesOf, Bool.and_false] at claimed
      cases claimed
    · refine foldl_keeps (P := fun s : State => s.engine.Agrees settled) _ (fun t p k => ?_) _ _ h
      split
      · exact k
      · exact State.stopPlayer_agrees k p _
  · exact taken

theorem houseFrame (s : State) (sample : Bool) (f : Nat) : Steady s (s.houseFrame sample f) := by
  unfold State.houseFrame
  extract_lets x y _ stepped published
  have taken : Steady s stepped := of rfl rfl rfl rfl
  have told : Steady s published := taken.trans (publishHouse ..)
  split
  · exact refl s
  · split
    · split
      · exact told.trans (raise ..)
      · exact told
    · exact taken

theorem estopFrame (s : State) (sample : Bool) (f : Nat) : Steady s (s.estopFrame sample f) := by
  unfold State.estopFrame
  extract_lets x y _ stepped published
  have taken : Steady s stepped := of rfl rfl rfl rfl
  have told : Steady s published := taken.trans (publishEstop ..)
  split
  · exact refl s
  · split
    · split
      · exact told.trans (raise ..)
      · exact told
    · exact taken

theorem seeding (s : State) : Steady s { s with monitor := { s.monitor with seeded := true } } := of rfl rfl rfl rfl

theorem takeSample (s : State) (levels : InputLevels) (f : Nat) : Steady s (s.takeSample levels f) := by
  unfold State.takeSample
  extract_lets active _ sampled lamps zones buttons _ seeded
  have h1 : Steady s sampled := of rfl rfl rfl rfl
  have h2 : Steady sampled lamps := foldl _ (fun s b => lampFrame s b f) _ _
  have h3 : Steady lamps zones := foldl _ (fun s z => zoneFrame s z _ f) _ _
  have h4 : Steady zones buttons := foldl _ (fun s b => buttonFrame s b _ f) _ _
  have h5 : Steady buttons seeded := seeding buttons
  exact ((((h1.trans h2).trans h3).trans h4).trans h5).trans ((houseFrame ..).trans (estopFrame ..))

end Steady

end Sys2Proof.Machine
end

section
/-! Proofs about what every command keeps: the load in LOADING (R14, R17), the engine idle outside SHOW (R9, R10, R63),
the scenes in step with the queue and the players (R20), and the attract cycle at rest (R116). -/

namespace Sys2Proof.Machine

theorem State.idleOutsideShow_iff {s : State} : s.IdleOutsideShow ↔ (s.store.mode ≠ .running → s.engine.Idle) :=
  ⟨fun h out => have ⟨p, q, g, a, v⟩ := h out; ⟨p, q, g, a, v⟩, fun h out => have ⟨p, q, g, a, v⟩ := h out; ⟨p, q, g, a, v⟩⟩

theorem State.scenesAgree_iff {s : State} : s.ScenesAgree ↔ s.engine.Agrees settled := by
  constructor
  · rintro ⟨scenes, entries, players⟩
    exact ⟨fun sc => (scenes sc).1, fun sc => (scenes sc).2.1, fun sc => (scenes sc).2.2.1, fun sc _ => (scenes sc).2.2.2,
      fun _ => False.elim, entries, players⟩
  · rintro ⟨pending, running, cooldown, again, -, entries, players⟩
    exact ⟨fun sc => ⟨pending sc, running sc, cooldown sc, again sc id⟩, entries, players⟩

/-- What every command keeps of the load, the engine and the attract cycle. -/
structure Keeps (s t : State) : Prop where
  loads : s.LoadsInLoading → t.LoadsInLoading
  idle : s.LoadsInLoading → s.engine.ClaimsHeld → (s.store.mode ≠ .running → s.engine.Idle) →
    t.store.mode ≠ .running → t.engine.Idle
  agrees : s.LoadsInLoading → (s.store.mode ≠ .running → s.engine.Idle) → s.engine.Agrees settled → t.engine.Agrees settled
  rests : s.LoadsInLoading → s.AttractRests → t.AttractRests

theorem Steady.keeps {s t : State} (h : Steady s t) : Keeps s t where
  loads l := by rw [State.LoadsInLoading, h.store]; exact l
  idle _ _ e out := by
    rw [h.store] at out
    exact h.idle out (e out)
  agrees _ := h.agrees
  rests _ r off := by
    rw [h.store] at off
    obtain ⟨slot, hold⟩ := h.rests off
    rw [slot, hold]
    exact r off

/-- Nothing but the store, the engine and the lighting matters. -/
theorem Keeps.of {s t u v : State} (h : Keeps u v) (su : s.store = u.store) (eu : s.engine = u.engine)
    (lu : s.light = u.light) (st : t.store = v.store) (et : t.engine = v.engine) (lt : t.light = v.light) : Keeps s t := by
  obtain ⟨loads, idle, agrees, rests⟩ := h
  unfold State.LoadsInLoading State.AttractRests at *
  rw [← su] at loads idle agrees rests
  rw [← st] at loads idle rests
  rw [← eu] at idle agrees
  rw [← et] at idle agrees
  rw [← lu, ← lt] at rests
  exact ⟨loads, idle, agrees, rests⟩

/-- A part as it is after a reset. -/
theorem Keeps.fresh {s t : State} (loads : t.LoadsInLoading) (idle : t.engine.Idle) (agrees : t.engine.Agrees settled)
    (slot : t.light.slot = 0) (hold : t.light.hold = 0) : Keeps s t :=
  ⟨fun _ => loads, fun _ _ _ _ => idle, fun _ _ _ => agrees, fun _ _ _ => ⟨slot, hold⟩⟩

/-! ### Requests -/

/-- R184: a command either finds no request of its own, or takes one, answers it by its rule or refuses it, and ends. -/
theorem State.serve_cases (fin : State → State) (kind : Byte) (inLoading : Bool) (lengthOk : State → List Byte → Bool)
    (body : List Byte → State → State × List Byte) (s : State) :
    State.serve fin kind inLoading lengthOk body s = s
    ∨ ∃ l m x, State.serve fin kind inLoading lengthOk body s = fin { x with link := m }
        ∧ (x = { s with link := l }
          ∨ ∃ bs, (inLoading = true ∨ s.store.mode ≠ .loading) ∧ x = (body bs { s with link := l }).1) := by
  unfold State.serve State.live
  split
  · exact .inl rfl
  · dsimp only
    split
    · exact .inl rfl
    · next r l taken =>
      split
      · refine .inr ⟨l, _, _, rfl, ?_⟩
        unfold State.answer
        split
        · exact .inl rfl
        · next allowed =>
          split
          · exact .inl rfl
          · refine .inr ⟨_, ?_, rfl⟩
            cases inLoading
            · exact .inr fun loading => allowed (by simp [loading])
            · exact .inl rfl
      · exact .inl rfl

theorem Steady.serve {fin : State → State} (hfin : ∀ s, Steady s (fin s)) (kind : Byte) (inLoading : Bool)
    (lengthOk : State → List Byte → Bool) {body : List Byte → State → State × List Byte}
    (hbody : ∀ bs s, Steady s (body bs s).1) (s : State) : Steady s (State.serve fin kind inLoading lengthOk body s) := by
  have linked (s : State) (l : Link) : Steady s { s with link := l } := .of rfl rfl rfl rfl
  rcases s.serve_cases fin kind inLoading lengthOk body with same | ⟨l, m, x, served, own⟩
  · rw [same]; exact .refl s
  · rw [served]
    refine Steady.trans ?_ ((linked x m).trans (hfin _))
    rcases own with rfl | ⟨bs, -, rfl⟩
    · exact linked s l
    · exact (linked s l).trans (hbody ..)

theorem Keeps.serve {fin : State → State}
    (hfin : ∀ s, (fin s).store = s.store ∧ (fin s).engine = s.engine ∧ (fin s).light = s.light) (kind : Byte)
    (lengthOk : State → List Byte → Bool) {body : List Byte → State → State × List Byte}
    (hbody : ∀ bs s, s.store.mode ≠ .loading → Keeps s (body bs s).1) (s : State) :
    Keeps s (State.serve fin kind false lengthOk body s) := by
  rcases s.serve_cases fin kind false lengthOk body with same | ⟨l, m, x, served, own⟩
  · rw [same]; exact (Steady.refl s).keeps
  · rw [served]
    obtain ⟨store, engine, light⟩ := hfin { x with link := m }
    have body : Keeps { s with link := l } x := by
      rcases own with rfl | ⟨bs, mode, rfl⟩
      · exact (Steady.refl _).keeps
      · exact hbody bs _ (mode.resolve_left nofun)
    exact body.of rfl rfl rfl store engine light

/-! ### Resets -/

theorem Engine.reset_idle : Engine.reset.Idle :=
  ⟨fun p => by simp [Engine.reset], rfl, Claims.reset_noPlayer, Claims.reset_axis, Claims.reset_voice⟩

theorem Engine.reset_agrees : Engine.reset.Agrees settled :=
  Engine.reset_idle.agrees fun sc => by simp [Engine.reset, SceneRun.reset]

theorem Keeps.heldInReset (s : State) : Keeps s s.heldInReset :=
  .fresh (iff_of_false Bool.false_ne_true nofun) Engine.reset_idle Engine.reset_agrees rfl rfl

theorem Keeps.afterReset (s : State) (cause : StartCause) (m1 m0 fast : Bool) : Keeps s (s.afterReset cause m1 m0 fast) := by
  unfold State.afterReset
  extract_lets link base
  split
  · exact .fresh (iff_of_false Bool.false_ne_true nofun) Engine.reset_idle Engine.reset_agrees rfl rfl
  · exact .fresh (iff_of_true rfl rfl) Engine.reset_idle Engine.reset_agrees rfl rfl

/-! ### Lamps -/

/-- R174: the initial modes are set in the monitor alone. -/
theorem State.initialLamps_rest (s : State) : { s.initialLamps with monitor := s.monitor } = s := by
  unfold State.initialLamps
  induction List.finRange 16 generalizing s with
  | nil => rfl
  | cons b bs ih => exact (congrArg (fun x : State => { x with monitor := s.monitor }) (ih (s.initialLamp b))).trans rfl

/-- What changes in the monitor alone leaves the other blocks. -/
theorem State.monitor_only {s t : State} (h : { t with monitor := s.monitor } = s) :
    t.store = s.store ∧ t.engine = s.engine ∧ t.light = s.light ∧ t.sound = s.sound ∧ t.motion = s.motion ∧ t.link = s.link :=
  ⟨(congrArg State.store h :), (congrArg State.engine h :), (congrArg State.light h :), (congrArg State.sound h :),
   (congrArg State.motion h :), (congrArg State.link h :)⟩

theorem State.initialLamps_store (s : State) : s.initialLamps.store = s.store := (monitor_only s.initialLamps_rest).1
theorem State.initialLamps_engine (s : State) : s.initialLamps.engine = s.engine := (monitor_only s.initialLamps_rest).2.1
theorem State.initialLamps_light (s : State) : s.initialLamps.light = s.light := (monitor_only s.initialLamps_rest).2.2.1

/-! ### SOFT RESET -/

theorem SceneRec.initial_rests (r : SceneRec) :
    r.initial.state ≠ .pending ∧ r.initial.state ≠ .running ∧ (r.initial.state ≠ .cooldown → r.initial.cooldown = 0)
    ∧ r.initial.again = false := by
  unfold SceneRec.initial
  split <;> exact ⟨nofun, nofun, fun _ => rfl, rfl⟩

theorem Engine.initialScenes_get (e : Engine) (t : Tables) (sc : Fin 64) :
    (e.initialScenes t).scenes[sc] = (t.scene sc).initial := by simp [Engine.initialScenes]

/-- R21: in an idle engine every scene as its record says. -/
theorem Engine.Idle.initialScenes {e : Engine} (h : e.Idle) (t : Tables) :
    (e.initialScenes t).Idle ∧ (e.initialScenes t).Agrees settled := by
  have idle : (e.initialScenes t).Idle := by
    unfold Engine.initialScenes
    exact h.of rfl rfl rfl
  refine ⟨idle, idle.agrees fun sc => ?_⟩
  rw [Engine.initialScenes_get]
  exact (t.scene sc).initial_rests

theorem Keeps.softReset (s : State) (mode : s.store.mode ≠ .loading) : Keeps s s.softReset := by
  have free : Engine.Idle { s.engine with queue := [], players := Vector.replicate 8 none, claims := Claims.reset } :=
    ⟨fun p => by simp, rfl, Claims.reset_noPlayer, Claims.reset_axis, Claims.reset_voice⟩
  obtain ⟨idle, agrees⟩ := free.initialScenes s.store.tables
  have engine : s.softReset.engine = s.engine.softReset s.store.tables := State.initialLamps_engine _
  have light : s.softReset.light = s.light.softReset s.store.tables := State.initialLamps_light _
  refine ⟨fun loads => ?_, fun _ _ _ _ => engine ▸ idle, fun _ _ _ => engine ▸ agrees,
    fun _ _ _ => by rw [light]; exact ⟨rfl, rfl⟩⟩
  rw [State.LoadsInLoading, show s.softReset.store = _ from State.initialLamps_store _]
  exact iff_of_false (fun on => mode (loads.1 on)) nofun

end Sys2Proof.Machine
end

section
/-! Proofs about the changes of show state, the tables' writes and the loads, and the invariants that no step breaks. -/

namespace Sys2Proof.Machine

/-! ### Changes of show state -/

/-- R116: when the cycle does not run after the change, its slot and hold are 0. -/
theorem State.attractFollows_rests {s : State} {was : Bool}
    (h : was = false → s.light.slot = 0 ∧ s.light.hold = 0) : (s.attractFollows was).AttractRests := by
  intro off
  replace off : s.store.attractRunning = false := off
  show (s.light.attractChange _ _ was s.store.attractRunning).slot = 0 ∧ (s.light.attractChange _ _ was s.store.attractRunning).hold = 0
  rw [off, Lighting.attractChange]
  split
  · next same => exact h same
  · exact ⟨rfl, rfl⟩

theorem Keeps.enterShow (s : State) (triggers attract : Bool) (mode : s.store.mode = .standby) :
    Keeps s (s.enterShow triggers attract) where
  loads loads := iff_of_false (fun on => by rw [loads.1 on] at mode; cases mode) nofun
  idle _ _ _ out := absurd rfl out
  agrees _ _ h := h
  rests _ rests := State.attractFollows_rests rests

theorem Keeps.setShow (s : State) (triggers attract : Bool) (mode : s.store.mode = .running) :
    Keeps s ((s.setMode .running triggers attract).attractFollows s.store.attractRunning) where
  loads loads := iff_of_false (fun on => by rw [loads.1 on] at mode; cases mode) nofun
  idle _ _ _ out := absurd rfl out
  agrees _ _ h := h
  rests _ rests := State.attractFollows_rests rests

theorem Acts.claimsHeld {s t : State} (run : Acts s t) (h : s.engine.ClaimsHeld) : t.engine.ClaimsHeld := by
  induction run with
  | refl => exact h
  | tail _ act ih => exact act.claimsHeld ih

theorem Engine.ClaimsHeld.idle {e : Engine} (h : e.ClaimsHeld) (free : ∀ p : Fin 8, e.players[p] = none)
    (queue : e.queue = []) : e.Idle :=
  have empty (p : Fin 8) : ¬ e.players[p].isSome = true := by rw [free p]; nofun
  ⟨free, queue, fun g p own => empty p (h.groups g p own),
   fun a => Option.eq_none_iff_forall_ne_some.2 fun p own => empty p (h.axes a p own),
   fun v => Option.eq_none_iff_forall_ne_some.2 fun p own => empty p (h.voices v p own)⟩

/-- A player that stops for good is FREE, and nobody starts. -/
theorem State.stopPlayer_free {s : State} {reason : StopReason} (drops : reason.dropsAgain = true) (p q : Fin 8)
    (h : q = p ∨ s.engine.players[q] = none) : (s.stopPlayer p reason).engine.players[q] = none := by
  cases hr : s.engine.players[p] with
  | none =>
    rw [show s.stopPlayer p reason = s by rw [State.stopPlayer, hr]]
    rcases h with rfl | h
    · exact hr
    · exact h
  | some r =>
    obtain ⟨-, -, -, -, stopped, others, -⟩ := State.stopPlayer_stops hr (.inl drops)
    by_cases own : q = p
    · rw [own]; exact stopped
    · rw [others q own, h.resolve_left own]; rfl

theorem State.foldl_stopPlayer_free {reason : StopReason} (drops : reason.dropsAgain = true) (players : List (Fin 8))
    {s : State} {q : Fin 8} (h : q ∈ players ∨ s.engine.players[q] = none) :
    (players.foldl (fun t p => State.stopPlayer t p reason) s).engine.players[q] = none := by
  induction players generalizing s with
  | nil => exact h.resolve_left List.not_mem_nil
  | cons p players ih =>
    refine ih ?_
    rcases h with h | h
    · rcases List.mem_cons.1 h with h | h
      · exact .inr (State.stopPlayer_free drops p q (.inl h))
      · exact .inl h
    · exact .inr (State.stopPlayer_free drops p q (.inr h))

/-- R10: the scenes of the queue become READY. -/
theorem State.foldl_sceneReady (entries : List Entry) (s : State) :
    (entries.foldl (fun t e => State.sceneTo t e.scene .ready) s).engine.players = s.engine.players
    ∧ (entries.foldl (fun t e => State.sceneTo t e.scene .ready) s).engine.claims = s.engine.claims := by
  induction entries generalizing s with
  | nil => exact ⟨rfl, rfl⟩
  | cons x rest ih => exact ih (s.sceneTo x.scene .ready)

theorem State.setQueue_players (s : State) (q : List Entry) : (s.setQueue q).engine.players = s.engine.players := rfl

/-- R10, R20: the queue is emptied, and its scenes are READY. -/
theorem State.emptyQueue_agrees (entries : List Entry) {s : State}
    (h : Engine.Agrees { s.engine with queue := entries } settled) :
    ((entries.foldl (fun t e => State.sceneTo t e.scene .ready) s).setQueue []).engine.Agrees settled := by
  induction entries generalizing s with
  | nil => exact h
  | cons x rest ih =>
    refine ih (s := s.sceneTo x.scene .ready) (h.drop List.mem_cons_self (List.sublist_cons_self x rest) fun y hy => ?_)
    have apart := (List.pairwise_cons.1 h.entries).1
    constructor
    · exact fun inside => (apart y inside).symm
    · intro other
      rcases List.mem_cons.1 hy with rfl | inside
      · exact absurd rfl other
      · exact inside

/-- R10: the given players stop with reason STANDBY, and the queue is emptied; `leaveShow` is this for every player. -/
def State.standDown (s : State) (players : List (Fin 8)) : State :=
  let stopped := players.foldl (fun t p => State.stopPlayer t p .standby) s
  (stopped.engine.queue.foldl (fun t e => State.sceneTo t e.scene .ready) stopped).setQueue []

theorem State.leaveShow_eq (s : State) : s.leaveShow = s.standDown (List.finRange 8) := by
  unfold State.leaveShow State.standDown
  rfl

theorem State.standDown_agrees {s : State} (h : s.engine.Agrees settled) (players : List (Fin 8)) :
    (s.standDown players).engine.Agrees settled := by
  unfold State.standDown
  extract_lets stopped
  refine State.emptyQueue_agrees _ (s := stopped) ?_
  exact foldl_keeps (P := fun s : State => s.engine.Agrees settled) _ (fun _ p k => State.stopPlayer_agrees k p _) _ _ h

theorem State.standDown_free (s : State) {players : List (Fin 8)} {p : Fin 8} (h : p ∈ players) :
    (s.standDown players).engine.players[p] = none := by
  unfold State.standDown
  extract_lets stopped
  rw [State.setQueue_players, (State.foldl_sceneReady _ stopped).1]
  exact State.foldl_stopPlayer_free rfl _ (.inl h)

theorem State.standDown_queue (s : State) (players : List (Fin 8)) : (s.standDown players).engine.queue = [] := rfl

theorem State.leaveShow_idle {s : State} (h : s.engine.ClaimsHeld) : s.leaveShow.engine.Idle := by
  have held := (Acts.leaveShow s).claimsHeld h
  rw [State.leaveShow_eq] at held ⊢
  exact held.idle (fun p => s.standDown_free (List.mem_finRange p)) (s.standDown_queue _)

/-- R10: what follows the stops of the change from SHOW to STANDBY: the beds, the axes and the attract cycle. -/
def State.showEnded (left : State) (was : Bool) : State :=
  State.attractFollows { left with sound := left.sound.stopBeds, motion := left.motion.stopAll } was

theorem State.showToStandby_eq (s : State) :
    s.showToStandby = (s.setMode .standby false false).leaveShow.showEnded s.store.attractRunning := by
  unfold State.showToStandby State.showEnded
  rfl

theorem Keeps.showEnded {s left : State} {was : Bool} (only : EngineOnly s left) (mode : s.store.mode = .standby)
    (idle : s.engine.ClaimsHeld → left.engine.Idle)
    (agrees : s.engine.Agrees settled → left.engine.Agrees settled) (running : State)
    (same : running.store.load = s.store.load ∧ running.store.mode ≠ .loading ∧ running.engine = s.engine)
    (rests : running.AttractRests → was = false → s.light.slot = 0 ∧ s.light.hold = 0) :
    Keeps running (left.showEnded was) where
  loads loads := by
    have none : left.store.load.isSome ≠ true := by
      rw [only.store, ← same.1]
      exact fun on => same.2.1 (loads.1 on)
    have left : left.store.mode ≠ .loading := by rw [only.store, mode]; nofun
    exact iff_of_false none left
  idle _ held _ _ := idle (same.2.2 ▸ held)
  agrees _ _ h := agrees (same.2.2 ▸ h)
  rests _ h := State.attractFollows_rests fun off => by
    show left.light.slot = 0 ∧ left.light.hold = 0
    rw [only.slot, only.hold]
    exact rests h off

theorem Keeps.showToStandby (s : State) (mode : s.store.mode = .running) : Keeps s s.showToStandby := by
  rw [State.showToStandby_eq]
  refine Keeps.showEnded (.leaveShow _) rfl State.leaveShow_idle (fun h => ?_) s
    ⟨rfl, by rw [mode]; nofun, rfl⟩ fun rests => rests
  rw [State.leaveShow_eq]
  exact State.standDown_agrees h _

theorem Keeps.answerShowMode (bs : List Byte) (s : State) : Keeps s (s.answerShowMode bs).1 := by
  unfold State.answerShowMode
  dsimp only
  split
  · exact (Steady.refl s).keeps
  · dsimp only
    split
    · exact Keeps.enterShow _ _ _ ‹_›
    · exact Keeps.setShow _ _ _ ‹_›
    · exact Keeps.showToStandby _ ‹_›
    all_goals exact (Steady.refl s).keeps

theorem Keeps.answerLoadImage (bs : List Byte) (s : State) : Keeps s (s.answerLoadImage bs).1 := by
  unfold State.answerLoadImage
  split
  · exact (Steady.refl s).keeps
  · next mode =>
    split
    · exact (Steady.refl s).keeps
    · refine ⟨fun _ => iff_of_true rfl rfl, fun _ _ idle _ => idle ?_, fun _ _ h => h, fun _ _ _ => ⟨rfl, rfl⟩⟩
      rw [Classical.not_not.1 mode]
      nofun

/-! ### Records written -/

/-- R6: what a record stored in STANDBY leaves: the show state, the load, the lighting, and the engine but for a scene. -/
structure Written (s t : State) : Prop where
  mode : t.store.mode = s.store.mode
  load : t.store.load = s.store.load
  light : t.light = s.light
  idle : s.engine.Idle → t.engine.Idle
  agrees : s.engine.Idle → s.engine.Agrees settled → t.engine.Agrees settled

theorem Written.refl (s : State) : Written s s := ⟨rfl, rfl, rfl, id, fun _ => id⟩

theorem Written.trans {s t u : State} (h : Written s t) (k : Written t u) : Written s u :=
  ⟨k.mode.trans h.mode, k.load.trans h.load, k.light.trans h.light, fun e => k.idle (h.idle e),
   fun e a => k.agrees (h.idle e) (h.agrees e a)⟩

theorem Written.of {s t : State} (mode : t.store.mode = s.store.mode) (load : t.store.load = s.store.load)
    (light : t.light = s.light) (engine : t.engine = s.engine) : Written s t :=
  ⟨mode, load, light, fun e => engine ▸ e, fun _ a => engine ▸ a⟩

theorem Written.storeRecord? {s t : State} {table : Fin 14} {i : Nat} {bs : List Byte}
    (h : s.storeRecord? table i bs = some t) : Written s t := by
  obtain ⟨u, -, ⟨-, rfl⟩ | ⟨z, -, -, rfl⟩ | ⟨-, -, rfl⟩⟩ := State.storeRecord?_some h <;> exact .of rfl rfl rfl rfl

theorem Written.recordWritten (s : State) (table : Fin 14) (i : Nat) : Written s (s.recordWritten table i) := by
  unfold State.recordWritten
  split
  · split
    · next sc _ =>
      exact ⟨rfl, rfl, rfl, fun e => e.of rfl rfl rfl, fun e a => e.rewritten a sc _⟩
    · exact .refl s
  · split
    · split
      · exact .of rfl rfl rfl rfl
      · exact .refl s
    · split
      · split
        · split
          · exact .of rfl rfl rfl rfl
          · exact .refl s
        · exact .refl s
      · exact .refl s

theorem Written.writeRecords (table : Fin 14) (n : Nat) (s : State) (i : Nat) (bs : List Byte) (stored : Nat) :
    Written s (State.writeRecords table n s i bs stored).1 := by
  induction n generalizing s i bs stored with
  | zero => exact .refl s
  | succ n ih =>
    unfold State.writeRecords
    split
    · exact .refl s
    · split
      · exact .refl s
      · next t taken => exact ((Written.storeRecord? taken).trans (.recordWritten ..)).trans (ih ..)

theorem Written.advanceCursor (s : State) (n : Nat) : Written s (s.advanceCursor n) := by
  unfold State.advanceCursor
  dsimp only
  split
  · exact .of rfl rfl rfl rfl
  · exact .refl s

/-- R111: outside SHOW the attract cycle does not run. -/
theorem Store.attractRunning_off {s : Store} (h : s.mode ≠ .running) : s.attractRunning = false := by
  simp [Store.attractRunning, h]

theorem Written.keeps {s t : State} (h : Written s t) (mode : s.store.mode ≠ .running) : Keeps s t where
  loads loads := by rw [State.LoadsInLoading, h.load, h.mode]; exact loads
  idle _ _ idle _ := h.idle (idle mode)
  agrees _ idle := h.agrees (idle mode)
  rests _ rests _ := by rw [h.light]; exact rests (Store.attractRunning_off mode)

theorem Keeps.answerTableWrite (bs : List Byte) (s : State) : Keeps s (s.answerTableWrite bs).1 := by
  unfold State.answerTableWrite
  split
  · exact (Steady.refl s).keeps
  · next mode =>
    refine ((Written.writeRecords ..).trans (.advanceCursor ..)).keeps ?_
    rw [Classical.not_not.1 mode]
    nofun

/-! ### Loads -/

/-- R15, R16: a byte is taken by the pass that asked for it. -/
def State.takeByte (s : State) (pass : LoadPass) (ld : Load) (b : Byte) : State :=
  match pass with
  | .verify => s.verifyByte ld b
  | .apply => s.applyByte ld b

/-- R15, R16: the first byte of an image read is taken while its pass lasts. -/
theorem State.feedImage_cons {s : State} {ld : Load} (h : s.store.load = some ld) (pass : LoadPass) (b : Byte)
    (rest : List Byte) : State.feedImage pass (b :: rest) s =
      if ld.pass = pass then State.feedImage pass rest (s.takeByte pass ld b) else s := by
  rw [State.feedImage, h]
  rfl

theorem State.feedImage_idle {s : State} (h : s.store.load = none) (pass : LoadPass) (data : List Byte) :
    State.feedImage pass data s = s := by
  cases data with
  | nil => rfl
  | cons => rw [State.feedImage, h]

/-- What a byte of an image leads to: the load goes on, or it is over and every scene is as its record says. -/
inductive LoadStep (s t : State) : Prop
  | going (load : t.store.load.isSome = true) (mode : t.store.mode = s.store.mode) (engine : t.engine = s.engine)
      (light : t.light = s.light)
  | ended (load : t.store.load = none) (mode : t.store.mode ≠ .loading)
      (engine : ∃ tables, t.engine = s.engine.initialScenes tables)
      (rests : t.store.attractRunning = false → t.light.slot = s.light.slot ∧ t.light.hold = s.light.hold)

theorem State.loadSettles_store (s : State) : s.loadSettles.store = s.store := State.initialLamps_store _
theorem State.loadSettles_engine (s : State) : s.loadSettles.engine = s.engine.initialScenes s.store.tables :=
  State.initialLamps_engine _
theorem State.loadSettles_light (s : State) : s.loadSettles.light = s.light := State.initialLamps_light _

namespace LoadStep

variable {s t u : State}

/-- Only the show state, the engine and the lighting before the byte matter. -/
theorem from' (h : LoadStep u t) (mode : u.store.mode = s.store.mode) (engine : u.engine = s.engine)
    (light : u.light = s.light) : LoadStep s t := by
  cases h with
  | going load mode' engine' light' => exact .going load (mode'.trans mode) (engine'.trans engine) (light'.trans light)
  | ended load mode' engine' rests => exact .ended load mode' (engine ▸ engine') (light ▸ rests)

theorem setLoad (s : State) (ld : Load) : LoadStep s (s.setLoad ld) := .going rfl rfl rfl rfl

/-- R17: a load whose end sets this show state is over. -/
theorem settles {s u : State} (load : u.store.load = none) (mode : u.store.mode ≠ .loading) (engine : u.engine = s.engine)
    (light : u.light = s.light) : LoadStep s u.loadSettles := by
  refine .ended ?_ ?_ ⟨u.store.tables, ?_⟩ fun _ => ?_
  · rw [State.loadSettles_store]; exact load
  · rw [State.loadSettles_store]; exact mode
  · rw [State.loadSettles_engine, engine]
  · rw [State.loadSettles_light, light]; exact ⟨rfl, rfl⟩

theorem loadFails (s : State) (ld : Load) (cause : LoadCause) (sect entry : Option Nat) :
    LoadStep s (s.loadFails ld cause sect entry) := by
  unfold State.loadFails
  exact settles rfl nofun rfl rfl

/-- R17: a load that ends in SHOW starts the beds and the attract cycle. -/
theorem starts {u : State} (h : LoadStep s u) (load : u.store.load = none) (x : Sound) :
    LoadStep s (State.attractFollows { u with sound := x } false) := by
  cases h with
  | going on => rw [load] at on; cases on
  | ended load mode engine rests =>
    refine .ended load mode engine fun off => ?_
    replace off : u.store.attractRunning = false := off
    show (u.light.attractChange _ _ false u.store.attractRunning).slot = _
      ∧ (u.light.attractChange _ _ false u.store.attractRunning).hold = _
    rw [off, Lighting.attractChange, if_pos rfl]
    exact rests off

theorem loadSucceeds (s : State) (ld : Load) : LoadStep s (s.loadSucceeds ld) := by
  unfold State.loadSucceeds
  extract_lets ended
  split
  · exact settles rfl nofun rfl rfl
  · next triggers attract _ =>
    have settled : LoadStep s (ended.setMode .running triggers attract).loadSettles := settles rfl nofun rfl rfl
    exact starts settled (by rw [State.loadSettles_store]; rfl) _

theorem beginSection (s : State) (ld : Load) : LoadStep s (s.beginSection ld) := by
  unfold State.beginSection
  split
  · exact loadFails ..
  · exact setLoad ..

theorem checkCrc (s : State) (ld : Load) : LoadStep s (s.checkCrc ld) := by
  unfold State.checkCrc State.beginApply
  split
  · exact (beginSection _ _).from' rfl rfl rfl
  · exact loadFails ..

theorem verifyByte (s : State) (ld : Load) (b : Byte) : LoadStep s (s.verifyByte ld b) := by
  unfold State.verifyByte
  split
  · dsimp only
    split
    · exact loadFails ..
    · split
      · exact loadFails ..
      · split
        · exact loadFails ..
        · split
          · exact checkCrc ..
          · exact setLoad ..
  · dsimp only
    split
    · exact checkCrc ..
    · exact setLoad ..

theorem endSection (s : State) (ld : Load) : LoadStep s (s.endSection ld) := by
  unfold State.endSection
  dsimp only
  split
  · exact beginSection ..
  · split
    · exact loadFails ..
    · exact loadSucceeds ..

theorem takeDescriptor (s : State) (ld : Load) : LoadStep s (s.takeDescriptor ld) := by
  unfold State.takeDescriptor
  dsimp only
  split
  · exact loadFails ..
  · split
    · exact loadFails ..
    · split
      · exact endSection ..
      · exact setLoad ..

theorem takeRecord (s : State) (ld : Load) (table : Fin 14) : LoadStep s (s.takeRecord ld table) := by
  unfold State.takeRecord
  split
  · exact loadFails ..
  · next t taken =>
    have left : t.store.mode = s.store.mode ∧ t.engine = s.engine ∧ t.light = s.light := by
      obtain ⟨u, -, ⟨-, rfl⟩ | ⟨z, -, -, rfl⟩ | ⟨-, -, rfl⟩⟩ := State.storeRecord?_some taken <;> exact ⟨rfl, rfl, rfl⟩
    obtain ⟨mode, engine, light⟩ := left
    split
    · exact (endSection t ld).from' mode engine light
    · exact (setLoad t _).from' mode engine light

theorem applyByte (s : State) (ld : Load) (b : Byte) : LoadStep s (s.applyByte ld b) := by
  unfold State.applyByte
  dsimp only
  split
  · split
    · exact setLoad ..
    · exact takeDescriptor ..
  · split
    · exact setLoad ..
    · exact takeRecord ..

/-- R15, R16: one byte in the pass that asked for it. -/
theorem byte (pass : LoadPass) (s : State) (ld : Load) (b : Byte) : LoadStep s (s.takeByte pass ld b) := by
  cases pass
  · exact verifyByte ..
  · exact applyByte ..

/-- R15, R16: the bytes of an image read, up to the end of the load. -/
theorem feedImage (pass : LoadPass) (data : List Byte) {s : State} (loading : s.store.load.isSome = true) :
    LoadStep s (State.feedImage pass data s) := by
  induction data generalizing s with
  | nil => exact .going loading rfl rfl rfl
  | cons b rest ih =>
    obtain ⟨ld, hld⟩ := Option.isSome_iff_exists.1 loading
    rw [State.feedImage_cons hld]
    split
    · have taken := byte pass s ld b
      generalize s.takeByte pass ld b = t at taken ⊢
      cases taken with
      | going load mode engine light => exact (ih load).from' mode engine light
      | ended load mode engine rests =>
        rw [State.feedImage_idle load]
        exact .ended load mode engine rests
    · exact .going loading rfl rfl rfl

theorem keeps (h : LoadStep s t) (loading : s.store.load.isSome = true) : Keeps s t := by
  have mode (loads : s.LoadsInLoading) : s.store.mode ≠ .running := by rw [loads.1 loading]; nofun
  cases h with
  | going load same engine light =>
    refine ⟨fun loads => iff_of_true load (same.trans (loads.1 loading)), fun loads _ idle _ => engine ▸ idle (mode loads),
      fun _ _ h => engine ▸ h, fun loads rests _ => light ▸ rests (Store.attractRunning_off (mode loads))⟩
  | ended load left engine rested =>
    obtain ⟨tables, engine⟩ := engine
    refine ⟨fun _ => iff_of_false (by rw [load]; nofun) left,
      fun loads _ idle _ => engine ▸ ((idle (mode loads)).initialScenes tables).1,
      fun loads idle _ => engine ▸ ((idle (mode loads)).initialScenes tables).2, fun loads rests off => ?_⟩
    rw [(rested off).1, (rested off).2]
    exact rests (Store.attractRunning_off (mode loads))

end LoadStep

end Sys2Proof.Machine
end

section
/-! The invariants of the show store, the Scene Engine and the Lighting Engine that every step keeps. -/

namespace Sys2Proof.Machine

/-- A command that is carried out on the lighting alone, outside the attract cycle. -/
theorem Steady.lit {s : State} {l : Lighting} (slot : l.slot = s.light.slot) (hold : l.hold = s.light.hold) :
    Steady s { s with light := l } := .of rfl rfl slot hold

namespace Steady

theorem answerQuery (bs : List Byte) (s : State) : Steady s (s.answerQuery bs).1 := by
  unfold State.answerQuery
  split <;> exact refl s

theorem answerReportLevel (bs : List Byte) (s : State) : Steady s (s.answerReportLevel bs).1 := by
  unfold State.answerReportLevel
  split
  · exact refl s
  · exact of rfl rfl rfl rfl

theorem advanceCursor (s : State) (n : Nat) : Steady s (s.advanceCursor n) := by
  unfold State.advanceCursor
  dsimp only
  split
  · exact of rfl rfl rfl rfl
  · exact refl s

theorem answerTableOpen (bs : List Byte) (s : State) : Steady s (s.answerTableOpen bs).1 := by
  unfold State.answerTableOpen
  split
  · exact refl s
  · exact of rfl rfl rfl rfl

theorem answerTableRead (bs : List Byte) (s : State) : Steady s (s.answerTableRead bs).1 := by
  unfold State.answerTableRead
  split
  · exact refl s
  · exact advanceCursor ..

theorem answerTrigger (bs : List Byte) (s : State) : Steady s (s.answerTrigger bs).1 := by
  unfold State.answerTrigger
  split
  · exact refl s
  · next mode =>
    split
    · exact refl s
    · exact engine (.trigger ..) (fun out => absurd (Classical.not_not.1 mode) out) fun h => State.trigger_agrees h ..

theorem answerCancel (bs : List Byte) (s : State) : Steady s (s.answerCancel bs).1 := by
  unfold State.answerCancel
  split
  · exact refl s
  · exact cancel ..

theorem answerStopAll (bs : List Byte) (s : State) : Steady s (s.answerStopAll bs).1 := by
  have quiet := stopEverything s
  unfold State.answerStopAll
  dsimp only
  assumption

theorem answerHoldGroup (bs : List Byte) (s : State) : Steady s (s.answerHoldGroup bs).1 := by
  unfold State.answerHoldGroup
  split
  · exact refl s
  · dsimp only
    split
    · exact setGroupOwner _ _ nofun
    · exact setGroupOwner _ _ nofun
    · exact refl s

theorem answerFreeGroup (bs : List Byte) (s : State) : Steady s (s.answerFreeGroup bs).1 := by
  unfold State.answerFreeGroup
  split
  · exact refl s
  · split
    · exact freeGroup ..
    · exact refl s

theorem answerSetLevel (bs : List Byte) (s : State) : Steady s (s.answerSetLevel bs).1 := by
  unfold State.answerSetLevel
  split
  · exact refl s
  · split
    · exact lit rfl rfl
    · exact refl s

theorem answerSetMaster (bs : List Byte) (s : State) : Steady s (s.answerSetMaster bs).1 := by
  unfold State.answerSetMaster
  split
  · exact refl s
  · split
    · exact lit rfl rfl
    · exact refl s

theorem answerSetGrand (bs : List Byte) (s : State) : Steady s (s.answerSetGrand bs).1 := lit rfl rfl

theorem answerSetBed (bs : List Byte) (s : State) : Steady s (s.answerSetBed bs).1 := by
  unfold State.answerSetBed
  split
  · exact refl s
  · exact of rfl rfl rfl rfl

theorem answerSetLanguage (bs : List Byte) (s : State) : Steady s (s.answerSetLanguage bs).1 := by
  unfold State.answerSetLanguage
  split
  · exact refl s
  · split
    · exact of rfl rfl rfl rfl
    · exact refl s

theorem answerSetLamp (bs : List Byte) (s : State) : Steady s (s.answerSetLamp bs).1 := by
  unfold State.answerSetLamp
  split
  · exact refl s
  · exact of rfl rfl rfl rfl

theorem answerMoveAxis (bs : List Byte) (s : State) : Steady s (s.answerMoveAxis bs).1 := by
  unfold State.answerMoveAxis
  split
  · exact refl s
  · split
    · exact refl s
    · exact tookAxis ..

theorem answerHomeAxis (bs : List Byte) (s : State) : Steady s (s.answerHomeAxis bs).1 := by
  unfold State.answerHomeAxis
  split
  · exact refl s
  · split
    · exact refl s
    · exact tookAxis ..

theorem axisInterval (s : State) (a : Fin 8) (home limit : Bool) : Steady s (s.axisInterval a home limit) :=
  (setAxis ..).trans (axisNews ..)

/-- The link alone changes. -/
theorem linked (s : State) (l : Link) : Steady s { s with link := l } := of rfl rfl rfl rfl

end Steady

/-- Every command keeps the load in LOADING, the engine idle outside SHOW, the scenes in step, and attract at rest. -/
theorem exec_keeps (c : Instr) (s : State) : ∃ t, exec c s = .next t ∧ Keeps s t := by
  have request (kind : Byte) (il : Bool) (len : State → List Byte → Bool) {body : List Byte → State → State × List Byte}
      (h : ∀ bs s, Steady s (body bs s).1) := (Steady.serve Steady.finishLink kind il len h s).keeps
  have ends (s : State) : s.finish.store = s.store ∧ s.finish.engine = s.engine ∧ s.finish.light = s.light :=
    ⟨rfl, rfl, rfl⟩
  cases c <;> refine ⟨_, rfl, ?_⟩
  case powerOnReset => exact Keeps.afterReset ..
  case resetN => exact Keeps.afterReset ..
  case resetBegins => exact Keeps.heldInReset s
  case softReset =>
    exact Keeps.serve (fin := State.finish) ends _ _ (body := fun _ s => (s.softReset, okWith []))
      (fun _ s mode => Keeps.softReset s mode) s
  case showMode => exact Keeps.serve (fin := State.finish) ends _ _ (fun bs s _ => Keeps.answerShowMode bs s) s
  case loadImage => exact Keeps.serve (fin := State.finish) ends _ _ (fun bs s _ => Keeps.answerLoadImage bs s) s
  case tableWrite =>
    exact Keeps.serve (fin := State.finishLink) (fun _ => ⟨rfl, rfl, rfl⟩) _ _ (fun bs s _ => Keeps.answerTableWrite bs s) s
  case imageReadComplete data =>
    unfold State.live
    split
    · exact (Steady.refl s).keeps
    · dsimp only
      split
      · next ld _ load =>
        have fed := LoadStep.feedImage ld.pass data (s := { s with sound := { s.sound with flight := none } })
          (show s.store.load.isSome = true by rw [load]; rfl)
        exact (fed.keeps (by rw [load]; rfl)).of rfl rfl rfl rfl rfl rfl
      · exact (Steady.refl s).keeps
  case ident => exact request _ _ _ fun _ s => .refl s
  case status => exact request _ _ _ fun _ s => .refl s
  case query => exact request _ _ _ Steady.answerQuery
  case reportLevel => exact request _ _ _ Steady.answerReportLevel
  case tableOpen => exact request _ _ _ Steady.answerTableOpen
  case tableRead => exact request _ _ _ Steady.answerTableRead
  case trigger => exact request _ _ _ Steady.answerTrigger
  case cancel => exact request _ _ _ Steady.answerCancel
  case stopAll => exact request _ _ _ Steady.answerStopAll
  case holdGroup => exact request _ _ _ Steady.answerHoldGroup
  case freeGroup => exact request _ _ _ Steady.answerFreeGroup
  case setLevel => exact request _ _ _ Steady.answerSetLevel
  case setMaster => exact request _ _ _ Steady.answerSetMaster
  case setGrand => exact request _ _ _ Steady.answerSetGrand
  case setBed => exact (Steady.serve Steady.finish _ _ _ Steady.answerSetBed s).keeps
  case setLanguage => exact request _ _ _ Steady.answerSetLanguage
  case setLamp => exact request _ _ _ Steady.answerSetLamp
  case moveAxis => exact request _ _ _ Steady.answerMoveAxis
  case homeAxis => exact request _ _ _ Steady.answerHomeAxis
  all_goals refine Steady.keeps ?_
  case arrival kind payload =>
    refine Steady.live _ ?_
    dsimp only
    split
    · exact .of rfl rfl rfl rfl
    · exact .refl s
  case gapTimeout =>
    refine Steady.live _ ?_
    dsimp only
    split
    · exact .refl s
    · exact .linked ..
  case transmitEnd =>
    refine Steady.live _ ?_
    dsimp only
    split
    · exact .refl s
    · exact .of rfl rfl rfl rfl
  case unknownRequest =>
    refine Steady.live _ ?_
    split
    · exact .refl s
    · split
      · exact .refl s
      · exact .of rfl rfl rfl rfl
  case byteReceived b stopOk =>
    refine Steady.live _ ?_
    dsimp only
    split <;> exact .of rfl rfl rfl rfl
  case patienceExpiry sc f => exact .frameStep _ _ _ _ fun s _ => .dropExpired s sc f
  case cooldownEnd sc f =>
    unfold State.frameStep
    refine Steady.live _ ?_
    dsimp only
    split
    · next due =>
      rw [Bool.and_eq_true] at due
      exact Steady.trans (t := s.atFrame f) (.of rfl rfl rfl rfl) (.cooldownEnds (s.atFrame f) sc f due.1)
    · exact .refl s
  case playerFrameEvent => exact .frameStep _ _ _ _ fun s _ => (Steady.playerFrame ..).trans (.finish _)
  case cueDelayExpiry => exact .frameStep _ _ _ _ fun s _ => (Steady.playerFrame ..).trans (.finish _)
  case awaitTimeout => exact .frameStep _ _ _ _ fun s _ => (Steady.playerFrame ..).trans (.finish _)
  case lightingFrameEvent => exact .frameStep _ _ _ _ fun s _ => .lightingFrame ..
  case attractHoldExpiry => exact .frameStep _ _ _ _ fun s _ => .lightingFrame ..
  case pwmPeriodStart => exact .live _ (.lit (Lighting.periodStart_slot ..) (Lighting.periodStart_hold ..))
  case houseEvent => exact .frameStep _ _ _ _ fun s _ => (Steady.houseFrame ..).trans (.finishLink _)
  case estopEvent => exact .frameStep _ _ _ _ fun s _ => (Steady.estopFrame ..).trans (.finishLink _)
  case burstComplete data =>
    refine Steady.live _ ?_
    split
    · exact .of rfl rfl rfl rfl
    all_goals exact .refl s
  case sampleEvent => exact .live _ (.of rfl rfl rfl rfl)
  case soundFrameEvent => exact .frameStep _ _ _ _ fun s _ => (Steady.soundFrame ..).trans (.finishLink _)
  case fadeOutEnd => exact .frameStep _ _ _ _ fun s _ => .voiceFrame ..
  case stallTimeout => exact .frameStep _ _ _ _ fun s _ => (Steady.voiceFrame ..).trans (.finishLink _)
  case duckStep => exact .frameStep _ _ _ _ fun s _ => .bedFrame ..
  case profileIntervalEvent => exact .live _ ((Steady.axisInterval ..).trans (.finishLink _))
  case motionFrameEvent => exact .frameStep _ _ _ _ fun s _ => .mapAxes ..
  case resumeWaitExpiry => exact .frameStep _ _ _ _ fun s _ => .setAxis ..
  case inputSample => exact .frameStep _ _ _ _ fun s _ => (Steady.takeSample ..).trans (.finishLink _)
  case zoneBecomesOccupied => exact .frameStep _ _ _ _ fun s _ => (Steady.zoneFrame ..).trans (.finishLink _)
  case zoneBecomesClear => exact .frameStep _ _ _ _ fun s _ => (Steady.zoneFrame ..).trans (.finishLink _)
  case press => exact .frameStep _ _ _ _ fun s _ => (Steady.buttonFrame ..).trans (.finishLink _)
  case buttonRelease => exact .frameStep _ _ _ _ fun s _ => .buttonFrame ..
  case flashEnd => exact .frameStep _ _ _ _ fun s _ => .lampFrame ..
  case patienceAndCooldownCount => exact .frameStep _ _ _ _ fun s _ => (Steady.countScenes ..).trans (.finishLink _)

theorem step_keeps_all {s t : State} (h : step s = .next t) : Keeps s t := by
  unfold step at h
  split at h
  · cases h; exact (Steady.refl s).keeps
  · next c rest _ =>
    obtain ⟨u, hu, keeps⟩ := exec_keeps c { s with pending := rest }
    rw [hu] at h
    cases h
    exact keeps.of rfl rfl rfl rfl rfl rfl

/-- Settles O55: acts keep the tables and the flags, and each command the load in LOADING. -/
theorem stepKeepsStoreSound : Obligations.StepKeepsStoreSound := fun _ _ h =>
  ⟨step_keeps_tablesCanonical h, step_keeps_flagsOff h, (step_keeps_all h).loads⟩

/-- Settles O56: acts keep the queue, the claims and the start orders, and each command the rest. -/
theorem stepKeepsEngineSound : Obligations.StepKeepsEngineSound := by
  intro s t h
  have keeps := step_keeps_all h
  refine ⟨step_keeps_queueOrdered h, step_keeps_claimsNamePlayers h, step_keeps_playersOrdered h,
    fun loads claims idle => ?_, fun loads idle agree => ?_⟩
  · rw [State.idleOutsideShow_iff] at idle ⊢
    exact keeps.idle loads (State.claimsNamePlayers_iff.1 claims) idle
  · rw [State.idleOutsideShow_iff] at idle
    rw [State.scenesAgree_iff] at agree ⊢
    exact keeps.agrees loads idle agree

/-- Settles O57: each move of the lighting keeps the fades between their ends and the flicker register running. -/
theorem stepKeepsFadesBetween : Obligations.StepKeepsFadesBetween := fun _ _ h =>
  ⟨step_keeps_light (P := Lighting.FadesWithin) (fun _ _ _ _ => LightMove.fadesWithin) Lighting.reset_within h,
   step_keeps_light (P := fun l => l.flicker ≠ 0) (fun _ _ _ _ => LightMove.flickerRuns) flickerSeed_ne_zero h,
   (step_keeps_all h).rests⟩

end Sys2Proof.Machine
end

section
/-! Proofs about steps, resets and the link: the receiver (R182), arrivals (R183), the checks of a request (R184) and the
transmitter (R185). -/

namespace Sys2Proof.Machine

/-! ### Steps and resets -/

/-- Settles O1. -/
theorem stepTakesFrontCommand : Obligations.StepTakesFrontCommand := by
  refine ⟨fun s c rest front => ?_, fun s idle => ?_⟩
  · rw [step, front]
  · rw [step, idle]

theorem PartMove.pending {s t : State} (move : PartMove s t) : t.pending = s.pending := by
  cases move with
  | act act => exact act.quiet.pending
  | _ => rfl

theorem PartRun.pending {s t : State} (run : PartRun s t) : t.pending = s.pending := by
  induction run with
  | refl => rfl
  | tail _ move ih => exact move.pending.trans ih

/-- Settles O2: every command is a run of moves, and none touches the waiting commands. -/
theorem everyCommandCompletes : Obligations.EveryCommandCompletes := by
  intro c s
  obtain ⟨t, done, run⟩ := exec_runs c s
  exact ⟨t, done, run.pending⟩

/-- R12: while the part is held in reset nothing but a reset acts on it. -/
theorem exec_held {s : State} {c : Instr} (held : s.inReset = true) (notReset : c.isReset = false) :
    exec c s = .next s := by
  cases c
  case powerOnReset | resetN | resetBegins => cases notReset
  all_goals exact congrArg Host.Outcome.next (State.live_held _ held)

/-- R12: when a reset ends with the mode pins at 00, the part has its reset values. -/
theorem State.afterReset_idle (s : State) (cause : StartCause) (fast : Bool) :
    s.afterReset cause false false fast =
      { State.reset with
        pending := s.pending
        link := { Link.reset with fastBaud := fast, mode1 := false, mode0 := false, cause := cause } } := rfl

/-- R96, R107: a lighting at reset is as at reset when LOADING is entered. -/
theorem Lighting.reset_enterLoading : Lighting.reset.enterLoading = Lighting.reset := by
  unfold Lighting.enterLoading
  have channels : (Vector.ofFn fun c : Fin 48 => { Lighting.reset.channels[c] with fade := Fade.reset })
      = Lighting.reset.channels := by
    ext c hc
    simp [Lighting.reset, Channel.reset]
  rw [channels]
  rfl

theorem Motion.reset_stopAll : Motion.reset.stopAll = Motion.reset := by decide

theorem Sound.reset_loading : Sound.reset.enterLoading.grant true = { Sound.reset with flight := some .image } := by decide

/-- R12, R14: when a reset ends with another mode, the load of the image at address 0 has begun. -/
theorem State.afterReset_loads (s : State) (cause : StartCause) {m1 m0 : Bool} (fast : Bool) {goal : LoadGoal}
    (h : startUpGoal m1 m0 = some goal) :
    s.afterReset cause m1 m0 fast =
      { State.reset with
        pending := s.pending
        link := { Link.reset with fastBaud := fast, mode1 := m1, mode0 := m0, cause := cause }
        store := { Store.reset with
          mode := .loading, status := .verifying,
          load := some ⟨0, goal, .verify, [], 0, 0xFFFF, 0, [], none, 0, 0⟩ }
        sound := { Sound.reset with flight := some .image } } := by
  rw [State.afterReset, h, ← Sound.reset_loading]
  unfold State.beginLoad State.finish
  dsimp only [State.reset]
  rw [Lighting.reset_enterLoading, Motion.reset_stopAll]
  rfl

/-- Settles O3. -/
theorem resetsGiveResetValues : Obligations.ResetsGiveResetValues := by
  refine ⟨⟨fun s => rfl, fun s c => exec_held, fun s held => by rw [State.transmitting, if_pos held]⟩,
    fun s m1 m0 fast c cause which => ?_⟩
  have run : exec c s = .next (s.afterReset cause m1 m0 fast) := by
    rcases which with ⟨rfl, rfl⟩ | ⟨rfl, rfl⟩ <;> rfl
  intro link
  rw [run]
  refine ⟨?_, fun set => ?_⟩
  · rintro rfl rfl
    rw [State.afterReset_idle]
  · have goal : startUpGoal m1 m0 = some (if m1 then .running (!m0) true else .standby) := by
      revert set
      cases m1 <;> cases m0 <;> simp [startUpGoal]
    rw [State.afterReset_loads s cause fast goal]
    exact ⟨_, rfl, rfl, rfl, rfl, rfl, rfl, rfl, rfl, rfl, rfl, rfl, rfl, rfl, rfl, _, rfl, rfl, rfl, rfl, rfl⟩

theorem reset_withinSoftLimits : State.reset.WithinSoftLimits := by
  rw [State.withinSoftLimits_iff]
  intro a
  obtain ⟨encloses, axis, -⟩ := reset_axis a
  rw [axis]
  exact ⟨encloses, nofun, nofun⟩

theorem reset_heldAxesStill : State.reset.HeldAxesStill := by
  rw [State.heldAxesStill_iff]
  intro a _
  rw [(reset_axis a).2.1]
  exact .of (.inr (.inr (.inl rfl)))

theorem reset_estopFaultsAxes : State.reset.EstopFaultsAxes := by
  rw [State.estopFaultsAxes_iff]
  intro a
  rw [(reset_axis a).2.1, (reset_axis a).2.2]
  exact ⟨by simp [Axis.reset], nofun⟩

theorem reset_linkBounded : State.reset.LinkBounded :=
  State.linkBounded_iff.2 ⟨Receiver.reset_sound, Nat.zero_le _, Nat.zero_le _, Nat.zero_le _,
    ⟨Nat.zero_le _, Nat.zero_le _, Nat.zero_le _⟩⟩

/-- Settles O5. -/
theorem resetMeetsInvariants : Obligations.ResetMeetsInvariants := by
  exact ⟨reset_linkBounded, Tables.wf_empty, fun _ => ⟨rfl, rfl⟩, iff_of_false Bool.false_ne_true nofun, ⟨Nat.zero_le _, .nil⟩,
    State.claimsNamePlayers_iff.2 (.unclaimed Claims.reset_noPlayer Claims.reset_axis Claims.reset_voice),
    OrdersWithin.none, State.idleOutsideShow_iff.2 fun _ => Engine.reset_idle,
    State.scenesAgree_iff.2 Engine.reset_agrees, fun _ => ⟨rfl, rfl⟩, Lighting.reset_within, flickerSeed_ne_zero,
    State.soundBounded_iff.2 SoundBounds.reset, reset_withinSoftLimits, reset_heldAxesStill, reset_estopFaultsAxes,
    reset_offers⟩

/-! ### The receiver -/

/-- The part with another receiver. -/
def State.receiving (s : State) (x : Receiver) : State := { s with link := { s.link with receiver := x } }

theorem exec_byteReceived {s : State} (live : s.inReset = false) {b : Byte} {stopOk : Bool} {x : Receiver}
    (h : s.link.receiver.receive b stopOk = (x, none)) : exec (.byteReceived b stopOk) s = .next (s.receiving x) := by
  show Host.Outcome.next (s.live _) = _
  rw [State.live_running _ live]
  dsimp only
  rw [h]
  rfl

theorem exec_byteReceived_arrives {s : State} (live : s.inReset = false) {b : Byte} {stopOk : Bool} {x : Receiver}
    {kind : Byte} {payload : List Byte} (h : s.link.receiver.receive b stopOk = (x, some (kind, payload))) :
    exec (.byteReceived b stopOk) s = .next ((s.receiving x).arrive kind payload) := by
  show Host.Outcome.next (s.live _) = _
  rw [State.live_running _ live]
  dsimp only
  rw [h]
  rfl

theorem exec_arrival {s : State} (live : s.inReset = false) (kind : Byte) {payload : List Byte} (short : payload.length ≤ 199) :
    exec (.arrival kind payload) s = .next ((s.receiving Receiver.reset).arrive kind payload) := by
  show Host.Outcome.next (s.live _) = _
  rw [State.live_running _ live]
  dsimp only
  rw [if_pos short]
  rfl

theorem exec_receiving {s : State} (live : s.inReset = false) {b : Byte} {stopOk : Bool} {x y : Receiver}
    (h : x.receive b stopOk = (y, none)) : exec (.byteReceived b stopOk) (s.receiving x) = .next (s.receiving y) :=
  exec_byteReceived (s := s.receiving x) live h

theorem Receiver.receive_hunt {x : Receiver} (h : x.state = .hunt) (b : Byte) :
    x.receive b true = (if b = 0x5A then ⟨.length, 0, [], 0⟩ else Receiver.reset, none) := by
  simp only [Receiver.receive, h, Bool.not_true, Bool.false_eq_true, if_false]
  split <;> rfl

theorem Receiver.receive_length {x : Receiver} (h : x.state = .length) (b : Byte) :
    x.receive b true =
      (if 1 ≤ b.toNat ∧ b.toNat ≤ 200 then ⟨.body, b.toNat, [], b⟩ else Receiver.reset, none) := by
  simp only [Receiver.receive, h, Bool.not_true, Bool.false_eq_true, if_false]
  split <;> rfl

/-- R182: a byte of the body is added to it and to the sum. -/
theorem Receiver.receive_body {x : Receiver} (h : x.state = .body) (b : Byte) :
    x.receive b true =
      (⟨if x.length ≤ x.body.length + 1 then .check else .body, x.length, x.body ++ [b], x.sum + b⟩, none) := by
  simp [Receiver.receive, h]

/-- R182: the bytes of the body, up to the last. -/
theorem runCommands_body {s : State} (live : s.inReset = false) (n : Nat) (body : List Byte) (sum : Byte) (b : Byte)
    (rest : List Byte) (room : body.length + (b :: rest).length = n) (then' : List Instr) :
    runCommands (((b :: rest).map fun b => .byteReceived b true) ++ then') (s.receiving ⟨.body, n, body, sum⟩) =
      runCommands then' (s.receiving ⟨.check, n, body ++ b :: rest, sum + byteSum (b :: rest)⟩) := by
  induction rest generalizing body sum b with
  | nil =>
    have full : n ≤ body.length + 1 := by simp at room; omega
    rw [List.map_singleton, List.singleton_append, runCommands,
      exec_receiving live (Receiver.receive_body rfl b)]
    simp only [if_pos full]
    simp [State.receiving, byteSum]
  | cons c rest ih =>
    have more : ¬ n ≤ body.length + 1 := by simp at room; omega
    rw [List.map_cons, List.cons_append, runCommands,
      exec_receiving live (Receiver.receive_body rfl b)]
    simp only [if_neg more]
    show runCommands _ (s.receiving ⟨.body, n, body ++ [b], sum + b⟩) = _
    rw [ih (body ++ [b]) (sum + b) c (by simp at room ⊢; omega), List.append_assoc, List.singleton_append,
      show b :: c :: rest = [b] ++ c :: rest from rfl, byteSum_append, BitVec.add_assoc]
    simp [byteSum]

/-- Settles O6: the receiver takes the sync byte, the length byte and the body byte by byte, and the check byte makes the
sum 0. -/
theorem framedBytesArrive : Obligations.FramedBytesArrive := by
  intro s kind payload live hunting short
  have length : (BitVec.ofNat 8 (payload.length + 1)).toNat = payload.length + 1 := by
    rw [BitVec.toNat_ofNat, Nat.mod_eq_of_lt (by omega)]
  have sync : s.link.receiver.receive 0x5A true = (⟨.length, 0, [], 0⟩, none) := by rw [hunting]; rfl
  have counted : (⟨.length, 0, [], 0⟩ : Receiver).receive (BitVec.ofNat 8 (payload.length + 1)) true =
      (⟨.body, payload.length + 1, [], BitVec.ofNat 8 (payload.length + 1)⟩, none) := by
    rw [Receiver.receive_length rfl, length, if_pos (by omega)]
  have checked (sum : Byte) :
      (⟨.check, payload.length + 1, kind :: payload, sum⟩ : Receiver).receive (0 - sum) true =
        (Receiver.reset, some (kind, payload)) := by
    show (_, if sum + (0 - sum) = 0 then _ else _) = _
    rw [if_pos (by bv_omega)]
  rw [exec_arrival live kind short, linkFrame, List.cons_append, List.map_cons, runCommands, exec_byteReceived live sync,
    List.cons_append, List.map_cons]
  show runCommands _ (s.receiving ⟨.length, 0, [], 0⟩) = _
  rw [runCommands, exec_receiving live counted, List.map_append]
  show runCommands _ (s.receiving ⟨.body, payload.length + 1, [], BitVec.ofNat 8 (payload.length + 1)⟩) = _
  rw [runCommands_body live _ _ _ _ _ (by simp), List.map_singleton, runCommands]
  have sum : byteSum (BitVec.ofNat 8 (payload.length + 1) :: kind :: payload) =
      BitVec.ofNat 8 (payload.length + 1) + byteSum (kind :: payload) := by
    rw [← List.singleton_append, byteSum_append]
    simp [byteSum]
  rw [sum, List.nil_append,
    exec_byteReceived_arrives (s := s.receiving ⟨.check, payload.length + 1, kind :: payload, _⟩) live (checked _)]
  rfl

/-- Settles O7: the receiver by its states, and an arrival by the room in the request queue and the reply list. -/
theorem receiverTakesBytesAndFrames : Obligations.ReceiverTakesBytesAndFrames := by
  refine ⟨fun s b live => ⟨exec_byteReceived live rfl, fun hunt => ?_, fun length => ?_, fun body => ?_,
      fun kind payload check front => ?_, fun partially => ?_, fun hunt => ?_⟩,
    fun s kind payload live short => ?_⟩
  · exact exec_byteReceived live (Receiver.receive_hunt hunt b)
  · exact exec_byteReceived live (Receiver.receive_length length b)
  · exact exec_byteReceived live (Receiver.receive_body body b)
  · by_cases zero : s.link.receiver.sum + b = 0
    · rw [if_pos zero]
      refine exec_byteReceived_arrives live ?_
      simp [Receiver.receive, check, front, zero]
    · rw [if_neg zero]
      refine exec_byteReceived live ?_
      simpa [Receiver.receive, check, front] using zero
  · show Host.Outcome.next (s.live _) = _
    rw [State.live_running _ live]
    dsimp only
    rw [if_neg partially]
  · show Host.Outcome.next (s.live _) = _
    rw [State.live_running _ live]
    dsimp only
    rw [if_pos hunt]
  · intro idle
    rw [exec_arrival live kind short]
    unfold State.arrive Link.arrive
    refine ⟨fun room => ?_, fun full busy => ?_, fun full busy => ?_⟩
    · rw [if_pos (show (s.receiving Receiver.reset).link.requests.length < Config.requestMax from room)]
      rfl
    · rw [if_neg (show ¬ (s.receiving Receiver.reset).link.requests.length < Config.requestMax from Nat.not_lt.2 full),
        if_pos (show ((s.receiving Receiver.reset).link.replies.filter (·.busy)).length < Config.busyMax from busy)]
      rfl
    · rw [if_neg (show ¬ (s.receiving Receiver.reset).link.requests.length < Config.requestMax from Nat.not_lt.2 full),
        if_neg (show ¬ ((s.receiving Receiver.reset).link.replies.filter (·.busy)).length < Config.busyMax
          from Nat.not_lt.2 busy)]
      rfl

/-! ### The transmitter -/

/-- Settles O8. -/
theorem transmitterChoosesNext : Obligations.TransmitterChoosesNext := by
  intro s frame live sending
  have run : exec .transmitEnd s = .next (State.finishLink { s with link := { s.link with sending := none } }) := by
    show Host.Outcome.next (s.live _) = _
    rw [State.live_running _ live]
    dsimp only
    rw [sending]
  rw [run]
  unfold State.finishLink Link.transmit
  refine ⟨fun r rest replies => ?_, fun r rest replies reports => ?_, fun replies reports => ?_⟩
  · simp only [replies]
  · simp only [replies, reports]
    rfl
  · simp only [replies, reports]

/-! ### The checks of a request -/

/-- Section 11.4, R11, R192: the command of a request kind takes a request of that kind, with the check in LOADING and of
the length that its row gives, and then its own rule. -/
theorem request_served {c : Instr} {kind : Byte} (h : c.requestKind? = some kind) :
    ∃ fin lengthOk body, (fin = State.finishLink ∨ fin = State.finish)
      ∧ (∀ s, exec c s = .next (State.serve fin kind c.answeredInLoading lengthOk body s))
      ∧ ∀ n, c.payloadLength? = some n → lengthOk = exactly n := by
  cases c
  case tableWrite =>
    cases h
    exact ⟨State.finishLink, wholeRecords, State.answerTableWrite, .inl rfl, fun _ => rfl, nofun⟩
  case softReset | showMode | loadImage | setBed =>
    cases h
    exact ⟨State.finish, _, _, .inr rfl, fun _ => rfl, fun | _, rfl => rfl⟩
  all_goals
    cases h <;> exact ⟨State.finishLink, _, _, .inl rfl, fun _ => rfl, fun | _, rfl => rfl⟩

/-- A command whose request is not the one in front changes nothing (log entry 3). -/
theorem State.serve_other {s : State} {kind : Byte} (other : ∀ r, s.link.requests.head? = some r → r.kind ≠ kind)
    (fin : State → State) (inLoading : Bool) (lengthOk : State → List Byte → Bool)
    (body : List Byte → State → State × List Byte) : State.serve fin kind inLoading lengthOk body s = s := by
  unfold State.serve State.live
  split
  · rfl
  · dsimp only
    split
    · rfl
    · next r l ready =>
      rw [if_neg (other r (by rw [(Link.ready?_eq ready).1]; rfl))]

theorem Link.ready?_waits {l : Link} (h : l.replies.any (!·.busy) = true) : l.ready? = none := by
  unfold Link.ready?
  split
  · rw [if_neg]
    intro all
    rw [List.any_eq_true] at h
    obtain ⟨r, hr, hb⟩ := h
    simp [List.all_eq_true.1 all r hr] at hb
  · rfl

/-- Settles O9: by the shape that all the requests share. -/
theorem requestsWaitAndAreChecked : Obligations.RequestsWaitAndAreChecked := by
  refine ⟨⟨fun c s request live waits => ?_, fun s kind payload rest next unknown => ?_⟩,
    fun c kind s payload rest own next => ?_, fun c kind s own other => ?_⟩
  · rcases request with request | rfl
    · obtain ⟨kind, own⟩ := Option.isSome_iff_exists.1 request
      obtain ⟨fin, lengthOk, body, -, served, -⟩ := request_served own
      rw [served, State.serve_waits waits]
    · show Host.Outcome.next (s.live _) = _
      rw [State.live_running _ live, Link.ready?_waits waits]
  · show Host.Outcome.next (s.live _) = _
    rw [State.live_running _ next.1, Link.ready?_of_next next]
    dsimp only
    rw [if_neg (by simp [isRequestKind]; omega)]
    rfl
  · obtain ⟨fin, lengthOk, body, ends, served, length⟩ := request_served own
    rw [served, State.serve_next next]
    intro answered
    have done (status : Byte) : answered status (fin ((s.took rest).replied kind [status])) := by
      rcases ends with rfl | rfl
      · exact .inl rfl
      · exact .inr rfl
    refine ⟨fun refused loading => ⟨_, rfl, ?_⟩, fun n fixed wrong allowed => ⟨_, rfl, ?_⟩⟩
    · rw [refused, State.answer_inLoading (s := s.took rest) loading]
      exact done 4
    · have short : lengthOk (s.took rest) payload = false := by
        rw [length n fixed]
        exact decide_eq_false wrong
      rw [State.answer_badLength (s := s.took rest) allowed short]
      exact done 2
  · obtain ⟨fin, lengthOk, body, -, served, -⟩ := request_served own
    rw [served, State.serve_other other]

end Sys2Proof.Machine
end

section
/-! Proofs about the requests that set one thing: the answers of a request in general (R184), TABLE OPEN and TABLE READ
(R5, R7), SET LEVEL and SET MASTER (R97, R98), SET LANGUAGE and SET LAMP (R177, R178). -/

namespace Sys2Proof.Machine

/-! ### A request and its command -/

/-- R184: the command takes the request of this kind, with these checks, and answers it by `body`. -/
def Serves (c : Instr) (fin : State → State) (kind : Byte) (inLoading : Bool) (lengthOk : State → List Byte → Bool)
    (body : List Byte → State → State × List Byte) : Prop :=
  ∀ s, exec c s = .next (State.serve fin kind inLoading lengthOk body s)

section Serves

variable {c : Instr} {fin : State → State} {kind : Byte} {inLoading : Bool} {lengthOk : State → List Byte → Bool}
  {body : List Byte → State → State × List Byte} {s : State} {payload : List Byte} {rest : List Request}

/-- R11: the request is refused in LOADING. -/
theorem Serves.refused (h : Serves c fin kind false lengthOk body) (next : s.RequestNext kind payload rest)
    (mode : s.store.mode = .loading) : exec c s = .next (fin ((s.took rest).replied kind [4])) := by
  rw [h, State.serve_next next, State.answer_inLoading (s := s.took rest) mode]

/-- R184: the request is answered by its own rule. -/
theorem Serves.own (h : Serves c fin kind inLoading lengthOk body) (next : s.RequestNext kind payload rest)
    (allowed : inLoading = true ∨ s.store.mode ≠ .loading) (length : lengthOk (s.took rest) payload = true)
    {y : State} {reply : List Byte} (answers : body payload (s.took rest) = (y, reply)) :
    exec c s = .next (fin (y.replied kind reply)) := by
  rw [h, State.serve_next next, State.answer_own (s := s.took rest) allowed length, answers]

end Serves

/-! ### Operands -/

section Operands

variable {n k : Nat}

theorem index?_val {i : Fin n} (h : k = i.val) : index? n k = some i := by
  subst h
  exact dif_pos i.isLt

theorem index?_ge (h : n ≤ k) : index? n k = none := dif_neg (Nat.not_lt.2 h)

theorem fadeCurve_ofCode {curve : FadeCurve} (h : k = curve.code) : FadeCurve.ofCode? k = some curve := by
  subst h
  cases curve <;> rfl

theorem fadeCurve_ofCode_ge (h : 2 ≤ k) : FadeCurve.ofCode? k = none :=
  match k, h with
  | _ + 2, _ => rfl

end Operands

section TableOpen

variable {id low high flags : Byte}

theorem openOperands?_badTable (h : 14 ≤ id.toNat) : openOperands? [id, low, high, flags] = none := by
  rw [openOperands?, show byteAt [id, low, high, flags] 0 = id.toNat from rfl, index?_ge h]
  rfl

theorem openOperands?_table {table : Fin 14} (h : id.toNat = table.val) :
    openOperands? [id, low, high, flags] =
      if low.toNat + 256 * high.toNat < tableEntries table then
        some (table, low.toNat + 256 * high.toNat, flags.getLsbD 0)
      else none := by
  rw [openOperands?, show byteAt [id, low, high, flags] 0 = id.toNat from rfl, index?_val h]
  rfl

end TableOpen

/-- R7: the cursor moves on by the count read. -/
theorem State.advanceCursor_eq (s : State) (n : Nat) :
    s.advanceCursor n = { s with link := { s.link with
      cursor := { s.link.cursor with index := if s.link.cursor.auto then s.link.cursor.index + n else s.link.cursor.index } } } := by
  unfold State.advanceCursor State.setCursor
  dsimp only
  split <;> rfl

theorem countOperand?_of_ne {requested : Byte} (h : requested ≠ 0) : countOperand? [requested] = some requested.toNat := by
  have positive : 1 ≤ requested.toNat := by
    rw [Nat.one_le_iff_ne_zero]
    exact fun zero => h (BitVec.eq_of_toNat_eq zero)
  exact if_pos ⟨positive, by have := requested.isLt; show requested.toNat ≤ 255; omega⟩

/-- Settles O17. -/
theorem tableOpenAndReadUseTheCursor : Obligations.TableOpenAndReadUseTheCursor := by
  refine ⟨fun s id low high flags rest next => ?_, fun s requested rest next => ⟨fun zero => ?_, fun nonzero => ?_⟩⟩
  · have served : Serves .tableOpen State.finishLink 0x08 false (exactly 4) State.answerTableOpen := fun _ => rfl
    refine ⟨served.refused next, fun mode bad => served.own next (.inr mode) rfl ?_,
      fun table mode own => ⟨fun beyond => served.own next (.inr mode) rfl ?_,
        fun within => served.own next (.inr mode) rfl ?_⟩⟩
    · rw [State.answerTableOpen, openOperands?_badTable bad]
      rfl
    · rw [State.answerTableOpen, openOperands?_table own, if_neg (Nat.not_lt.2 beyond)]
      rfl
    · rw [State.answerTableOpen, openOperands?_table own, if_pos within]
      rfl
  · have served : Serves .tableRead State.finishLink 0x0A true (exactly 1) State.answerTableRead := fun _ => rfl
    subst zero
    exact served.own next (.inl rfl) rfl rfl
  · have served : Serves .tableRead State.finishLink 0x0A true (exactly 1) State.answerTableRead := fun _ => rfl
    refine served.own next (.inl rfl) rfl ?_
    rw [State.answerTableRead, countOperand?_of_ne nonzero]
    dsimp only
    rw [State.advanceCursor_eq]
    rfl

/-! ### SET LEVEL and SET MASTER -/

section Levels

variable {n level low high shape : Byte}

theorem levelOperands?_bad (h : 48 ≤ n.toNat ∨ 2 ≤ shape.toNat) : levelOperands? [n, level, low, high, shape] = none := by
  rw [levelOperands?, show byteAt [n, level, low, high, shape] 0 = n.toNat from rfl,
    show byteAt [n, level, low, high, shape] 4 = shape.toNat from rfl]
  rcases h with channel | curve
  · rw [index?_ge channel]
    rfl
  · rw [fadeCurve_ofCode_ge curve]
    cases index? 48 n.toNat <;> rfl

theorem levelOperands?_some {c : Fin 48} {curve : FadeCurve} (channel : n.toNat = c.val)
    (shaped : shape.toNat = curve.code) :
    levelOperands? [n, level, low, high, shape] = some (c, level.toNat, low.toNat + 256 * high.toNat, curve) := by
  rw [levelOperands?, show byteAt [n, level, low, high, shape] 0 = n.toNat from rfl,
    show byteAt [n, level, low, high, shape] 4 = shape.toNat from rfl, index?_val channel, fadeCurve_ofCode shaped]
  rfl

theorem masterOperands?_bad (h : 16 ≤ n.toNat) : masterOperands? [n, level, low, high] = none := by
  rw [masterOperands?, show byteAt [n, level, low, high] 0 = n.toNat from rfl, index?_ge h]
  rfl

theorem masterOperands?_some {g : Fin 16} (group : n.toNat = g.val) :
    masterOperands? [n, level, low, high] = some (g, level.toNat, low.toNat + 256 * high.toNat) := by
  rw [masterOperands?, show byteAt [n, level, low, high] 0 = n.toNat from rfl, index?_val group]
  rfl

end Levels

/-- Settles O31. -/
theorem directLevelsStartFades : Obligations.DirectLevelsStartFades := by
  refine fun s n level low high rest => ⟨fun shape next => ?_, fun next => ?_⟩
  · have served : Serves .setLevel State.finishLink 0x10 false (exactly 5) State.answerSetLevel := fun _ => rfl
    refine ⟨served.refused next, fun mode bad => served.own next (.inr mode) rfl ?_, fun c curve mode channel shaped =>
      ⟨fun other => served.own next (.inr mode) rfl ?_, fun direct => served.own next (.inr mode) rfl ?_⟩⟩
    · rw [State.answerSetLevel, levelOperands?_bad bad]
      rfl
    · rw [State.answerSetLevel, levelOperands?_some channel shaped]
      exact if_neg other
    · rw [State.answerSetLevel, levelOperands?_some channel shaped]
      exact if_pos direct
  · have served : Serves .setMaster State.finishLink 0x11 false (exactly 4) State.answerSetMaster := fun _ => rfl
    refine ⟨served.refused next, fun mode bad => served.own next (.inr mode) rfl ?_, fun g mode group =>
      ⟨fun other => served.own next (.inr mode) rfl ?_, fun direct => served.own next (.inr mode) rfl ?_⟩⟩
    · rw [State.answerSetMaster, masterOperands?_bad bad]
      rfl
    · rw [State.answerSetMaster, masterOperands?_some group]
      exact if_neg other
    · rw [State.answerSetMaster, masterOperands?_some group]
      exact if_pos direct

/-! ### SET LANGUAGE and SET LAMP -/

section Lamps

variable {n m : Byte}

theorem languageOperands?_bad (h : 12 ≤ n.toNat ∨ 4 ≤ m.toNat) : languageOperands? [n, m] = none := by
  rw [languageOperands?, show byteAt [n, m] 0 = n.toNat from rfl, show byteAt [n, m] 1 = m.toNat from rfl]
  rcases h with zone | language
  · rw [index?_ge zone]
    rfl
  · rw [index?_ge language]
    cases index? 12 n.toNat <;> rfl

theorem languageOperands?_some {z : Fin 12} {l : Fin 4} (zone : n.toNat = z.val) (language : m.toNat = l.val) :
    languageOperands? [n, m] = some (z, l) := by
  rw [languageOperands?, show byteAt [n, m] 0 = n.toNat from rfl, show byteAt [n, m] 1 = m.toNat from rfl,
    index?_val zone, index?_val language]
  rfl

/-- R192: the code of a mode in SET LAMP. -/
def LampMode.requestCode : LampMode → Nat
  | .off => 0 | .on => 1 | .slow => 2 | .fast => 3 | .auto => 4

theorem lampMode_ofRequestCode {mode : LampMode} {k : Nat} (h : k = mode.requestCode) :
    LampMode.ofRequestCode? k = some mode := by
  subst h
  cases mode <;> rfl

theorem lampMode_ofRequestCode_ge {k : Nat} (h : 5 ≤ k) : LampMode.ofRequestCode? k = none :=
  match k, h with
  | _ + 5, _ => rfl

theorem lampOperands?_bad (h : 16 ≤ n.toNat ∨ 5 ≤ m.toNat) : lampOperands? [n, m] = none := by
  rw [lampOperands?, show byteAt [n, m] 0 = n.toNat from rfl, show byteAt [n, m] 1 = m.toNat from rfl]
  rcases h with button | mode
  · rw [index?_ge button]
    rfl
  · rw [lampMode_ofRequestCode_ge mode]
    cases index? 16 n.toNat <;> rfl

theorem lampOperands?_some {b : Fin 16} {mode : LampMode} (button : n.toNat = b.val)
    (code : m.toNat = mode.requestCode) : lampOperands? [n, m] = some (b, mode) := by
  rw [lampOperands?, show byteAt [n, m] 0 = n.toNat from rfl, show byteAt [n, m] 1 = m.toNat from rfl,
    index?_val button, lampMode_ofRequestCode code]
  rfl

end Lamps

/-- Settles O50. -/
theorem languagesAndLampsAreSet : Obligations.LanguagesAndLampsAreSet := by
  refine fun s n m rest => ⟨fun next => ?_, fun next => ?_⟩
  · have served : Serves .setLanguage State.finishLink 0x14 false (exactly 2) State.answerSetLanguage := fun _ => rfl
    refine ⟨served.refused next, fun mode bad => served.own next (.inr mode) rfl ?_, fun z l mode zone language =>
      ⟨fun other => served.own next (.inr mode) rfl ?_, fun offered => served.own next (.inr mode) rfl ?_⟩⟩
    · rw [State.answerSetLanguage, languageOperands?_bad bad]
      rfl
    · rw [State.answerSetLanguage, languageOperands?_some zone language]
      exact if_neg (by rw [show (s.took rest).store = s.store from rfl, other]; decide)
    · rw [State.answerSetLanguage, languageOperands?_some zone language]
      refine (if_pos offered).trans ?_
      rw [← language, put8_toNat]
      rfl
  · have served : Serves .setLamp State.finishLink 0x15 false (exactly 2) State.answerSetLamp := fun _ => rfl
    refine ⟨served.refused next, fun mode bad => served.own next (.inr mode) rfl ?_,
      fun b mode showing button code => served.own next (.inr showing) rfl ?_⟩
    · rw [State.answerSetLamp, lampOperands?_bad bad]
      rfl
    · rw [State.answerSetLamp, lampOperands?_some (mode := mode) button (code.trans (by cases mode <;> rfl))]
      cases mode <;> rfl

end Sys2Proof.Machine
end

section
/-! Proofs about SHOW MODE (R8, R9), LOAD IMAGE (R14) and SOFT RESET (R18). -/

namespace Sys2Proof.Machine

/-! ### SHOW MODE -/

theorem showTarget?_other {target flags : Byte} (standby : target ≠ 1) (running : target ≠ 2) :
    showTarget? [target, flags] = none := by
  unfold showTarget?
  split
  · next one => exact absurd (BitVec.eq_of_toNat_eq (show target.toNat = (1 : Byte).toNat from one)) standby
  · next two => exact absurd (BitVec.eq_of_toNat_eq (show target.toNat = (2 : Byte).toNat from two)) running
  · rfl

theorem Store.attractRunning_running (st : Store) (triggers attract : Bool) :
    Store.attractRunning { st with mode := .running, triggersOn := triggers, attractOn := attract } =
      (attract && decide (1 ≤ st.tables.slotCount)) := rfl

theorem Store.attractRunning_standby {st : Store} (mode : st.mode = .standby) : st.attractRunning = false := by
  rw [Store.attractRunning, mode]
  rfl

theorem Lighting.attractChange_from_rest (l : Lighting) (t : Tables) (claims : Claims) (now : Bool) :
    l.attractChange t claims false now = if now then l.enterSlot t claims 0 else l := by
  cases now <;> rfl

/-- Settles O12. -/
theorem showModeSetsStateAndFlags : Obligations.ShowModeSetsStateAndFlags := by
  intro s target flags rest next
  have served : Serves .showMode State.finish 0x06 false (exactly 2) State.answerShowMode := fun _ => rfl
  refine ⟨served.refused next, fun mode standby running => served.own next (.inr mode) rfl ?_, fun mode standby => ?_,
    fun mode running => ?_, fun mode running => ?_⟩
  · rw [State.answerShowMode, showTarget?_other standby running]
    rfl
  · subst standby
    refine served.own next (.inr (by rw [mode]; decide)) rfl ?_
    show ((match (s.took rest).store.mode, false with
      | .standby, true => _ | .running, true => _ | .running, false => _ | .standby, false | .loading, _ => _), _) = _
    rw [show (s.took rest).store.mode = .standby from mode]
    rfl
  · subst running
    refine served.own next (.inr (by rw [mode]; decide)) rfl ?_
    show ((match (s.took rest).store.mode, true with
      | .standby, true => _ | .running, true => _ | .running, false => _ | .standby, false | .loading, _ => _), _) = _
    rw [show (s.took rest).store.mode = .standby from mode]
    dsimp only [State.enterShow]
    unfold State.attractFollows
    rw [show (s.took rest).store.attractRunning = false from Store.attractRunning_standby mode,
      Lighting.attractChange_from_rest]
    rfl
  · subst running
    refine served.own next (.inr (by rw [mode]; decide)) rfl ?_
    show ((match (s.took rest).store.mode, true with
      | .standby, true => _ | .running, true => _ | .running, false => _ | .standby, false | .loading, _ => _), _) = _
    rw [show (s.took rest).store.mode = .running from mode]
    dsimp only
    unfold State.attractFollows Lighting.attractChange
    congr 2
    simp only [eq_comm (a := (s.took rest).store.attractRunning)]
    rfl

/-! ### LOAD IMAGE -/

theorem get32_four (a b c d : Byte) :
    get32 [a, b, c, d] 0 = a.toNat + 256 * b.toNat + 65536 * c.toNat + 16777216 * d.toNat := by
  show a.toNat + 256 * b.toNat + 65536 * (c.toNat + 256 * d.toNat) = _
  omega

/-- R162: an axis with a stop request neither moves nor homes on, and is not held. -/
theorem Axis.stopRequest_rests (x : Axis) :
    x.stopRequest.state ≠ .moving ∧ x.stopRequest.state ≠ .homing ∧ x.stopRequest.state ≠ .held := by
  unfold Axis.stopRequest
  split <;> simp_all [Axis.idle]

theorem Voice.enterLoading_idle (v : Voice) : (if v.state = .idle then v else v.drop).state = .idle := by
  split
  · assumption
  · rfl

/-- Settles O14. -/
theorem loadImageBeginsTheLoad : Obligations.LoadImageBeginsTheLoad := by
  intro s a b c d rest next
  have served : Serves .loadImage State.finish 0x07 false (exactly 4) State.answerLoadImage := fun _ => rfl
  refine ⟨fun other => ?_, fun mode beyond => ?_, fun mode within => ?_⟩
  · by_cases loading : s.store.mode = .loading
    · exact served.refused next loading
    · exact served.own next (.inr loading) rfl (if_pos other)
  · refine served.own next (.inr (by rw [mode]; decide)) rfl ?_
    rw [State.answerLoadImage, if_neg (show ¬ (s.took rest).store.mode ≠ .standby from Classical.not_not.2 mode), loadAddress?, get32_four, inRange?, if_neg (by omega)]
    rfl
  · refine ⟨(s.took rest).beginLoad (a.toNat + 256 * b.toNat + 65536 * c.toNat + 16777216 * d.toNat) .standby,
      served.own next (.inr (by rw [mode]; decide)) rfl ?_, rfl, rfl, rfl, rfl, rfl, rfl, rfl, rfl, rfl,
      ⟨_, rfl, rfl, rfl, rfl, rfl⟩, fun ch => ?_, fun g => ?_, rfl, fun v => ?_, fun ax => ?_⟩
    · rw [State.answerLoadImage, if_neg (show ¬ (s.took rest).store.mode ≠ .standby from Classical.not_not.2 mode), loadAddress?, get32_four, inRange?, if_pos (by omega)]
      rfl
    · simp [State.beginLoad, Lighting.enterLoading, State.took]
    · simp [State.beginLoad, Lighting.enterLoading]
    · have voice : ((s.took rest).beginLoad (a.toNat + 256 * b.toNat + 65536 * c.toNat + 16777216 * d.toNat) .standby).sound.voices[v]
          = if s.sound.voices[v].state = .idle then s.sound.voices[v] else s.sound.voices[v].drop := by
        simp [State.beginLoad, Sound.enterLoading, State.took]
        rfl
      rw [voice]
      exact Voice.enterLoading_idle _
    · have axis : ((s.took rest).beginLoad (a.toNat + 256 * b.toNat + 65536 * c.toNat + 16777216 * d.toNat) .standby).motion.axes[ax]
          = s.motion.axes[ax].stopRequest := by
        simp [State.beginLoad, Motion.stopAll, State.took]
      rw [axis]
      exact Axis.stopRequest_rests _

/-! ### SOFT RESET -/

/-- R174: the lamp of a button in its initial mode. -/
def State.lampReset (s : State) (b : Fin 16) (x : Lamp) : Lamp :=
  x.setMode (s.store.tables.button b).initialMode (autoPattern s.store s.engine.scenes s.monitor.house.asserted b)

theorem State.initialLamp_lamp (s : State) (b c : Fin 16) :
    (s.initialLamp b).monitor.lamps[c] = if b = c then s.lampReset c s.monitor.lamps[c] else s.monitor.lamps[c] := by
  by_cases same : b = c
  · subst same
    simp [State.initialLamp, State.lampReset]
  · have apart : (b : Nat) ≠ c := fun h => same (Fin.ext h)
    simp [State.initialLamp, same, apart]

theorem State.lampReset_twice (s : State) (b : Fin 16) (x : Lamp) : s.lampReset b (s.lampReset b x) = s.lampReset b x := rfl

theorem State.initialLamp_lampReset (s : State) (b c : Fin 16) (x : Lamp) :
    (s.initialLamp b).lampReset c x = s.lampReset c x := rfl

theorem State.foldl_initialLamp_lamp (bs : List (Fin 16)) (s : State) (c : Fin 16) :
    (bs.foldl State.initialLamp s).monitor.lamps[c] =
      if c ∈ bs then s.lampReset c s.monitor.lamps[c] else s.monitor.lamps[c] := by
  induction bs generalizing s with
  | nil => simp
  | cons b bs ih =>
    rw [List.foldl_cons, ih, State.initialLamp_lamp, State.initialLamp_lampReset]
    by_cases same : b = c
    · simp [same, State.lampReset_twice]
    · simp [same, Ne.symm same]

/-- R174: every lamp takes its initial mode. -/
theorem State.initialLamps_lamp (s : State) (c : Fin 16) :
    s.initialLamps.monitor.lamps[c] = s.lampReset c s.monitor.lamps[c] := by
  unfold State.initialLamps
  rw [State.foldl_initialLamp_lamp, if_pos (List.mem_finRange c)]

theorem State.foldl_initialLamp_zones (bs : List (Fin 16)) (s : State) :
    (bs.foldl State.initialLamp s).monitor.zones = s.monitor.zones := by
  induction bs generalizing s with
  | nil => rfl
  | cons b bs ih => exact ih (s.initialLamp b)

theorem State.initialLamps_zones (s : State) : s.initialLamps.monitor.zones = s.monitor.zones := by
  unfold State.initialLamps
  exact State.foldl_initialLamp_zones _ s

theorem State.initialLamps_link (s : State) : s.initialLamps.link = s.link :=
  (monitor_only s.initialLamps_rest).2.2.2.2.2

theorem State.initialLamps_sound (s : State) : s.initialLamps.sound = s.sound :=
  (monitor_only s.initialLamps_rest).2.2.2.1

theorem State.initialLamps_motion (s : State) : s.initialLamps.motion = s.motion :=
  (monitor_only s.initialLamps_rest).2.2.2.2.1

/-- What changes in the monitor alone leaves the waiting commands and the show frame. -/
theorem State.monitor_only_clock {s t : State} (h : { t with monitor := s.monitor } = s) :
    t.pending = s.pending ∧ t.frame = s.frame :=
  ⟨(congrArg State.pending h :), (congrArg State.frame h :)⟩

theorem State.initialLamps_pending (s : State) : s.initialLamps.pending = s.pending :=
  (monitor_only_clock s.initialLamps_rest).1

/-- R18: the part that SOFT RESET restarts, before the lamps take their initial modes. -/
def State.reinitialised (s : State) : State :=
  { s with
    link := { s.link with cursor := Cursor.reset, cause := .softReset }
    store := { s.store with mode := .standby, triggersOn := false, attractOn := false }
    engine := s.engine.softReset s.store.tables
    light := s.light.softReset s.store.tables
    sound := s.sound.softReset s.store.tables
    motion := { s.motion with axes := Vector.ofFn fun a => s.motion.axes[a].softReset s.motion.estop }
    monitor := s.monitor.defaultLanguages s.store.tables }

theorem State.softReset_eq (s : State) : s.softReset = s.reinitialised.initialLamps := by
  unfold State.softReset State.reinitialised
  rfl

theorem Axis.softReset_rests (x : Axis) (estop : Bool) :
    (x.softReset estop).homed = false ∧
      if estop then (x.softReset estop).state = .fault ∧ (x.softReset estop).cause = some .estop
      else (x.softReset estop).state = .unhomed := by
  cases estop
  · exact ⟨rfl, rfl⟩
  · exact ⟨rfl, rfl, rfl⟩

theorem Lighting.softReset_channel (l : Lighting) (t : Tables) (c : Fin 48) :
    (l.softReset t).channels[c] =
      { l.channels[c] with fade := Fade.reset, base := 0, gated := 0, staged := (t.channel c).stage l.house 0,
                           active := (t.channel c).stage l.house 0 } := by
  simp [Lighting.softReset]

theorem Lighting.softReset_house (l : Lighting) (t : Tables) : (l.softReset t).house = l.house := by
  unfold Lighting.softReset Lighting.enterLoading
  dsimp only

/-- Settles O4: the part restarts block by block, and then the lamps take their initial modes. -/
theorem softResetRestartsThePart : Obligations.SoftResetRestartsThePart := by
  intro s rest next mode
  have served : Serves .softReset State.finish 0x05 false (exactly 0) (fun _ s => (s.softReset, okWith [])) := fun _ => rfl
  refine ⟨(s.took rest).reinitialised.initialLamps, served.own next (.inr mode) rfl ?_, ?_⟩
  · rw [State.softReset_eq]
    rfl
  rw [State.initialLamps_pending, State.initialLamps_store, State.initialLamps_link, State.initialLamps_engine,
    State.initialLamps_light, State.initialLamps_sound, State.initialLamps_motion, State.initialLamps_zones]
  refine ⟨rfl, rfl, rfl, rfl, rfl, rfl, rfl, fun p => ?_, rfl, fun sc => ?_, fun c => ?_, fun g => ?_, rfl, rfl, rfl,
    Lighting.softReset_house _ _, fun c => ?_, fun a => ?_, fun v => ?_, fun b => ?_, fun z => ?_, fun b => ?_⟩
  · simp [State.reinitialised, Engine.softReset]
  · have scene : (s.took rest).reinitialised.engine.scenes[sc] = (s.store.tables.scene sc).initial :=
      Engine.initialScenes_get s.engine s.store.tables sc
    rw [scene]
    rfl
  · have channel := Lighting.softReset_channel s.light s.store.tables c
    exact congrArg Channel.fade channel
  · simp [State.reinitialised, Lighting.softReset, Lighting.enterLoading]
  · have channel : (s.took rest).reinitialised.light.channels[c] = _ := Lighting.softReset_channel s.light s.store.tables c
    dsimp only
    rw [channel]
    exact ⟨rfl, rfl, rfl, rfl⟩
  · have axis : (s.took rest).reinitialised.motion.axes[a] = s.motion.axes[a].softReset s.motion.estop := by
      simp [State.reinitialised, State.took]
    rw [axis]
    exact Axis.softReset_rests _ _
  · simp [State.reinitialised, Sound.softReset, Voice.reset]
  · simp [State.reinitialised, Sound.softReset, Bed.load, Bed.reset]
  · simp [State.reinitialised, Monitor.defaultLanguages, State.took]
  · dsimp only
    rw [State.initialLamps_lamp]
    exact ⟨rfl, rfl, rfl, rfl⟩

end Sys2Proof.Machine
end

section
/-! Proofs about the lighting frame event (R86, R101, R107, R113), the attract cycle (R112, R114) and the PWM outputs (R104
to R106). -/

namespace Sys2Proof.Machine

/-! ### The lighting frame event -/

/-- R107: a frame count of a carrier outside LOADING. -/
theorem Lighting.advanceCarriers_count (l : Lighting) (t : Tables) (mode : ShowState) (k : Fin 4) :
    (l.advanceCarriers t mode).counts[k] = if mode = .loading then l.counts[k] else (t.carrier k).advance l.counts[k] := by
  unfold Lighting.advanceCarriers
  split
  · rfl
  · simp

theorem Lighting.advanceCarriers_phases (l : Lighting) (t : Tables) (mode : ShowState) :
    (l.advanceCarriers t mode).phases = l.phases := by
  unfold Lighting.advanceCarriers
  split <;> rfl

/-- R102, R110: the phase of the carrier that a channel has. -/
theorem Lighting.decided_phase (l : Lighting) (t : Tables) (mode : ShowState) (c : Fin 48) :
    (l.decidePhases t mode).phaseOf t mode c =
      if mode = .loading then none
      else (t.channel c).carrier.map fun k => (t.carrier k).onPhase l.counts[k] l.flicker := by
  unfold Lighting.phaseOf Lighting.decidePhases
  split
  · rfl
  · simp only [Fin.getElem_fin, Vector.getElem_ofFn]

section Frame

variable (l : Lighting) (st : Store) (claims : Claims)

/-- R112, R113: counting the attract hold reaches the channels, the slot and the hold alone. -/
theorem Lighting.counted_rest :
    { l.counted st claims with channels := l.channels, slot := l.slot, hold := l.hold } = l := by
  unfold Lighting.counted Lighting.countHold Lighting.enterSlot
  split
  · split
    · exact (congrArg (fun x : Lighting => { x with slot := l.slot, hold := l.hold }) (l.applyLook_rest ..) :)
    · rfl
  · rfl

theorem Lighting.counted_masters : (l.counted st claims).masters = l.masters :=
  (congrArg Lighting.masters (l.counted_rest st claims) :)

theorem Lighting.counted_house : (l.counted st claims).house = l.house :=
  (congrArg Lighting.house (l.counted_rest st claims) :)

theorem Lighting.counted_period : (l.counted st claims).period = l.period :=
  (congrArg Lighting.period (l.counted_rest st claims) :)

theorem Lighting.counted_flicker : (l.counted st claims).flicker = l.flicker :=
  (congrArg Lighting.flicker (l.counted_rest st claims) :)

theorem Lighting.counted_counts : (l.counted st claims).counts = l.counts :=
  (congrArg Lighting.counts (l.counted_rest st claims) :)

variable {l st claims}

/-- R113: with no slot to enter, the hold alone falls. -/
theorem Lighting.counted_holds (waits : st.attractRunning = false ∨ 1 < l.hold) :
    l.counted st claims = { l with hold := if st.attractRunning then l.hold - 1 else l.hold } := by
  unfold Lighting.counted Lighting.countHold
  split
  · next running =>
    rw [if_neg (Nat.not_le.2 (waits.resolve_left (by rw [running]; decide)))]
  · rfl

/-- R113: at the end of the hold the next slot is entered. -/
theorem Lighting.counted_enters (running : st.attractRunning = true) (ends : l.hold ≤ 1) :
    l.counted st claims = l.enterSlot st.tables claims (nextSlot st.tables.slotCount l.slot) := by
  rw [Lighting.counted, if_pos running, Lighting.countHold, if_pos ends]

variable {f : Nat} (new : l.frame ≠ some f)
include new

theorem Lighting.frameEvent_flicker : (l.frameEvent st claims f).flicker =
    if st.mode = .loading then l.flicker else flickerStep l.flicker := by
  rw [Lighting.frameEvent_new new]
  show ((l.counted st claims).stepFades.formDuties st.tables st.mode |>.advanceCarriers st.tables st.mode).flicker = _
  rw [Lighting.advanceCarriers_flicker, Lighting.formDuties_flicker, Lighting.stepFades_flicker, Lighting.counted_flicker]

theorem Lighting.frameEvent_counts : (l.frameEvent st claims f).counts =
    (((l.counted st claims).stepFades.formDuties st.tables st.mode).advanceCarriers st.tables st.mode).counts := by
  rw [Lighting.frameEvent_new new]

theorem Lighting.frameEvent_phases : (l.frameEvent st claims f).phases =
    ((l.counted st claims).stepFades.formDuties st.tables st.mode).phases := by
  rw [Lighting.frameEvent_new new]
  exact Lighting.advanceCarriers_phases ..

theorem Lighting.frameEvent_count (k : Fin 4) : (l.frameEvent st claims f).counts[k] =
    if st.mode = .loading then l.counts[k]
    else if (st.tables.carrier k).period ≤ l.counts[k] + 1 then 0 else l.counts[k] + 1 := by
  rw [Lighting.frameEvent_counts new, Lighting.advanceCarriers_count, Lighting.formDuties_counts,
    Lighting.stepFades_counts, Lighting.counted_counts]
  rfl

theorem Lighting.frameEvent_phase (mode : st.mode ≠ .loading) (k : Fin 4) : (l.frameEvent st claims f).phases[k] =
    (st.tables.carrier k).onPhase l.counts[k] l.flicker := by
  rw [Lighting.frameEvent_phases new, Lighting.formDuties_phase, if_neg mode, Lighting.stepFades_counts,
    Lighting.stepFades_flicker, Lighting.counted_counts, Lighting.counted_flicker]

theorem Lighting.frameEvent_slot : (l.frameEvent st claims f).slot = (l.counted st claims).slot := by
  rw [Lighting.frameEvent_new new]
  simp only [Lighting.advanceCarriers_slot, Lighting.formDuties_slot, Lighting.stepFades_slot]

theorem Lighting.frameEvent_hold : (l.frameEvent st claims f).hold = (l.counted st claims).hold := by
  rw [Lighting.frameEvent_new new]
  simp only [Lighting.advanceCarriers_hold, Lighting.formDuties_hold, Lighting.stepFades_hold]

theorem Lighting.frameEvent_house : (l.frameEvent st claims f).house = l.house := by
  rw [Lighting.frameEvent_new new]
  simp only [Lighting.advanceCarriers_house, Lighting.formDuties_house, Lighting.stepFades_house,
    Lighting.counted_house]

theorem Lighting.frameEvent_period : (l.frameEvent st claims f).period = l.period := by
  rw [Lighting.frameEvent_new new]
  simp only [Lighting.advanceCarriers_period, Lighting.formDuties_period, Lighting.stepFades_period,
    Lighting.counted_period]

theorem Lighting.frameEvent_frame : (l.frameEvent st claims f).frame = some f := by
  rw [Lighting.frameEvent_new new]

theorem Lighting.frameEvent_master (g : Fin 16) : (l.frameEvent st claims f).masters[g] = l.masters[g].step := by
  rw [Lighting.frameEvent_masters new, Lighting.formDuties_masters, Lighting.stepFades_master, Lighting.counted_masters]

theorem Lighting.frameEvent_channel (c : Fin 48) :
    let r := st.tables.channel c
    let x := (l.counted st claims).channels[c]
    let base := r.baseDuty x.fade.step.intent l.masters[r.group].step.level l.grand
    let phase := if st.mode = .loading then none
      else r.carrier.map fun k => (st.tables.carrier k).onPhase l.counts[k] l.flicker
    (l.frameEvent st claims f).channels[c] =
      { x with fade := x.fade.step, base := base, gated := r.gate base phase,
               staged := r.stage l.house (r.gate base phase) } := by
  intro r x base phase
  rw [Lighting.frameEvent_channels new, Lighting.formDuties_channel, Lighting.formChannel]
  simp only [Lighting.decidePhases_channels, Lighting.decidePhases_masters, Lighting.decidePhases_grand,
    Lighting.decidePhases_house, Lighting.stepFades_channel, Lighting.stepFades_master, Lighting.stepFades_grand,
    Lighting.stepFades_house, Lighting.counted_masters, Lighting.counted_grand, Lighting.counted_house,
    Lighting.decided_phase, Lighting.stepFades_counts, Lighting.stepFades_flicker, Lighting.counted_counts,
    Lighting.counted_flicker]
  rfl

/-- R86, R101: a channel at a frame event that enters no slot. -/
theorem Lighting.frameEvent_channel_holds (waits : st.attractRunning = false ∨ 1 < l.hold) (c : Fin 48) :
    let r := st.tables.channel c
    let x := (l.frameEvent st claims f).channels[c]
    let base := r.baseDuty x.fade.intent ((l.frameEvent st claims f).masters[r.group]).level l.grand
    let phase := if st.mode = .loading then none
      else r.carrier.map fun k => (st.tables.carrier k).onPhase l.counts[k] l.flicker
    x = { l.channels[c] with fade := l.channels[c].fade.step, base := base, gated := r.gate base phase,
                             staged := r.stage l.house (r.gate base phase) } := by
  intro r x base phase
  have channel := Lighting.frameEvent_channel (st := st) (claims := claims) new c
  rw [Lighting.counted_holds waits] at channel
  have fade : x.fade = l.channels[c].fade.step := congrArg Channel.fade channel
  have formed : base = r.baseDuty l.channels[c].fade.step.intent l.masters[r.group].step.level l.grand := by
    simp only [base, fade, Lighting.frameEvent_master new]
  rw [formed]
  exact channel

/-- R112, R114: the fade of a channel at a frame event that enters a slot. -/
theorem Lighting.frameEvent_fade_enters (running : st.attractRunning = true) (ends : l.hold ≤ 1) (c : Fin 48) :
    let slot := st.tables.slot (nextSlot st.tables.slotCount l.slot)
    ((l.frameEvent st claims f).channels[c]).fade =
      (if attractEligible st.tables claims (st.tables.channel c).group then
        st.tables.lookFade slot.look c slot.fade .linear l.channels[c].fade
      else l.channels[c].fade).step := by
  intro slot
  have entered := congrArg Channel.fade
    (l.applyLook_channel st.tables slot.look (attractEligible st.tables claims) slot.fade .linear c)
  have counted : (l.counted st claims).channels =
      (l.applyLook st.tables slot.look (attractEligible st.tables claims) slot.fade .linear).channels := by
    rw [Lighting.counted_enters running ends]
    rfl
  rw [← counted] at entered
  have channel := congrArg Channel.fade (Lighting.frameEvent_channel (st := st) (claims := claims) new c)
  refine channel.trans (congrArg Fade.step (entered.trans ?_))
  split <;> rfl

end Frame

/-! ### The event as a command -/

section Event

variable {s : State} {f : Nat}

theorem exec_lightingFrameEvent (live : s.inReset = false) (new : s.light.frame ≠ some f) :
    exec (.lightingFrameEvent f) s = .next ((s.atFrame f).lightingFrame f) :=
  congrArg Host.Outcome.next (State.frameStep_due _ live rfl new)

theorem exec_attractHoldExpiry (live : s.inReset = false) (new : s.light.frame ≠ some f)
    (running : s.store.attractRunning = true) (ends : s.light.hold ≤ 1) :
    exec (.attractHoldExpiry f) s = .next ((s.atFrame f).lightingFrame f) :=
  congrArg Host.Outcome.next (State.frameStep_due _ live (by simp [running, ends]) new)

end Event

/-- Settles O33. -/
theorem lightingFrameStepsEveryFade : Obligations.LightingFrameStepsEveryFade := by
  refine fun s f live => ⟨fun taken => ?_, fun new => ⟨_, exec_lightingFrameEvent live new, rfl, rfl,
    Lighting.frameEvent_frame new, Lighting.frameEvent_house new, Lighting.frameEvent_grand _ _ _,
    Lighting.frameEvent_period new, Lighting.frameEvent_flicker new, fun k => Lighting.frameEvent_count new k,
    fun mode k => Lighting.frameEvent_phase new mode k, fun waits => ⟨?_, ?_, fun g => ?_, fun c => ?_⟩⟩⟩
  · exact congrArg Host.Outcome.next (State.frameStep_idle _ (.inr (.inr taken)))
  · have slot := Lighting.frameEvent_slot (st := s.store) (claims := s.engine.claims) new
    rw [Lighting.counted_holds waits] at slot
    exact slot
  · have hold := Lighting.frameEvent_hold (st := s.store) (claims := s.engine.claims) new
    rw [Lighting.counted_holds waits] at hold
    exact hold
  · exact Lighting.frameEvent_master new g
  · exact Lighting.frameEvent_channel_holds new waits c

/-! ### The attract cycle -/

/-- R83: the fade that a look starts on a channel is made by its entries of that channel. -/
theorem Tables.lookFade_filter (t : Tables) (look : Fin 128) (c : Fin 48) (length : Nat) (curve : FadeCurve)
    (was : Fade) :
    t.lookFade look c length curve was =
      ((t.lookEntries look).filter fun e => decide (e.channel = c)).foldl
        (fun x e => ⟨x.intent, e.level * 257, length, 0, curve, if length = 0 then e.level * 257 else x.intent⟩) was := by
  simp only [Tables.lookFade, List.foldl_filter, decide_eq_true_eq]

theorem Tables.lookFade_unlisted {t : Tables} {look : Fin 128} {c : Fin 48}
    (unlisted : ∀ e : PoolRec, ¬ (e ∈ t.lookEntries look ∧ e.channel = c)) (length : Nat) (curve : FadeCurve)
    (was : Fade) : t.lookFade look c length curve was = was := by
  have empty : (t.lookEntries look).filter (fun e => decide (e.channel = c)) = [] :=
    List.filter_eq_nil_iff.2 fun e listed own => unlisted e ⟨listed, of_decide_eq_true own⟩
  rw [Tables.lookFade_filter, empty, List.foldl_nil]

/-- R113: the slot after the current one. -/
theorem nextSlot_val (count : Nat) (slot : Fin 16) :
    (nextSlot count slot).val = (if count ≤ slot.val + 1 then 0 else slot.val + 1) % 16 := by
  unfold nextSlot
  split <;> rfl

theorem attractEligible_iff {t : Tables} {claims : Claims} {g : Fin 16} :
    attractEligible t claims g = true ↔ (t.group g).attract = true ∧ claims.groups[g] = .none := by
  simp [attractEligible]

/-- Settles O34: the slot is entered, its look starts its fades, and the frame event steps them. -/
theorem attractEntersTheNextSlot : Obligations.AttractEntersTheNextSlot := by
  intro s f live new
  refine ⟨fun waits => ?_, fun running ends => ⟨_, exec_attractHoldExpiry live new running ends,
    exec_lightingFrameEvent live new, rfl, ?_⟩⟩
  · refine congrArg Host.Outcome.next (State.frameStep_idle _ (.inr (.inl ?_)))
    rcases waits with stopped | waits
    · rw [stopped, Bool.false_and]
    · rw [decide_eq_false (Nat.not_le.2 waits), Bool.and_false]
  · have enters := Lighting.counted_enters (claims := s.engine.claims) running ends
    have slot : (s.light.frameEvent s.store s.engine.claims f).slot = nextSlot s.store.tables.slotCount s.light.slot :=
      (Lighting.frameEvent_slot new).trans (congrArg Lighting.slot enters)
    have hold := (Lighting.frameEvent_hold (st := s.store) (claims := s.engine.claims) new).trans
      (congrArg Lighting.hold enters)
    show (s.light.frameEvent s.store s.engine.claims f).slot.val = _
      ∧ (s.light.frameEvent s.store s.engine.claims f).hold =
          2 * (s.store.tables.slot (s.light.frameEvent s.store s.engine.claims f).slot).hold
      ∧ (∀ g : Fin 16, (s.light.frameEvent s.store s.engine.claims f).masters[g] = _) ∧ ∀ c : Fin 48, _
    refine ⟨slot ▸ nextSlot_val _ _, ?_, Lighting.frameEvent_master new, fun c => ?_⟩
    · rw [slot, hold, Nat.mul_comm]
      rfl
    · have fade := Lighting.frameEvent_fade_enters (claims := s.engine.claims) new running ends c
      dsimp only at fade ⊢
      rw [← slot] at fade
      rw [← attractEligible_iff]
      refine ⟨fun other => fade.trans (congrArg Fade.step ?_), fun e eligible single =>
        fade.trans (congrArg Fade.step ?_), fun eligible => fade.trans (congrArg Fade.step (if_pos eligible))⟩
      · split
        · next eligible => exact Tables.lookFade_unlisted (other.resolve_right (Classical.not_not.2 eligible)) _ _ _
        · rfl
      · rw [if_pos eligible, Tables.lookFade_filter]
        exact congrArg (List.foldl _ _) single

/-! ### PWM outputs -/

/-- How many of the numbers below `n` a test holds for, when it holds for those of an interval. -/
theorem countP_interval {p : Nat → Bool} {low high bound : Nat}
    (h : ∀ m, m < bound → (p m = true ↔ low ≤ m ∧ m < high)) {n : Nat} (within : n ≤ bound) :
    (List.range n).countP p = min high n - low := by
  induction n with
  | zero => simp
  | succ n ih =>
    rw [List.range_succ, List.countP_append, List.countP_singleton, ih (by omega)]
    have member := h n (by omega)
    by_cases own : p n = true
    · have := member.1 own
      rw [if_pos own]
      omega
    · have := mt member.2 own
      rw [if_neg own]
      omega

/-- A count over one whole period does not depend on where it begins. -/
theorem countP_periodic {p : Nat → Bool} {period : Nat} (h : ∀ m, p (period + m) = p m) (start : Nat) :
    (List.range period).countP (fun m => p (start + m)) = (List.range period).countP p := by
  have parts (a b : Nat) : (List.range (a + b)).countP p = (List.range a).countP p + (List.range b).countP fun m => p (a + m) := by
    rw [List.range_add, List.countP_append, List.countP_map]
    rfl
  have whole : (List.range (start + period)).countP p = (List.range (period + start)).countP p := by rw [Nat.add_comm]
  have shifted : (List.range start).countP (fun m => p (period + m)) = (List.range start).countP p := by simp only [h]
  rw [parts, parts, shifted] at whole
  omega

theorem pwmOn_edge {d : Nat} (on : d ≠ 0) (part : d < 4095) (position : Nat) :
    pwmOn d .edge position = true ↔ position < d := by
  simp [pwmOn, on, Nat.not_le.2 part]

theorem pwmOn_centre {d : Nat} (on : d ≠ 0) (part : d < 4095) (position : Nat) :
    pwmOn d .centre position = true ↔ (4096 - d) / 2 ≤ position ∧ position < (4096 - d) / 2 + d := by
  simp only [pwmOn, if_neg on, if_neg (Nat.not_le.2 part), Bool.and_eq_true]
  exact and_congr decide_eq_true_iff decide_eq_true_iff

/-- R106: an output is on over one interval of the period, of its active duty. -/
theorem pwmOn_interval {d : Nat} (within : d ≤ 4095) (align : Alignment) :
    ∃ low high, high ≤ 4096 ∧ high - low = (if d = 4095 then 4096 else d)
      ∧ ∀ position, position < 4096 → (pwmOn d align position = true ↔ low ≤ position ∧ position < high) := by
  by_cases off : d = 0
  · refine ⟨0, 0, by decide, by rw [off]; decide, fun position _ => ?_⟩
    simp [pwmOn, off]
  by_cases full : d = 4095
  · refine ⟨0, 4096, Nat.le_refl _, by rw [if_pos full], fun position h => ?_⟩
    simp [pwmOn, full, h]
  have part : d < 4095 := by omega
  cases align with
  | edge =>
    refine ⟨0, d, by omega, by rw [if_neg full]; omega, fun position _ => ?_⟩
    rw [pwmOn_edge off part]
    exact ⟨fun h => ⟨Nat.zero_le _, h⟩, And.right⟩
  | centre =>
    refine ⟨(4096 - d) / 2, (4096 - d) / 2 + d, by omega, by rw [if_neg full]; omega, fun position _ =>
      pwmOn_centre off part position⟩

/-- R105, R106: over one round of the period counter a pin is on for its active duty. -/
theorem Channel.pin_count {x : Channel} (within : x.active.duty ≤ 4095) :
    ((List.range 4096).filter x.pin).length = if x.active.duty = 4095 then 4096 else x.active.duty := by
  obtain ⟨low, high, bound, size, on_iff⟩ := pwmOn_interval within x.align
  have offset : x.slot.val * 512 ≤ 4096 := by have := x.slot.isLt; omega
  have turned (m : Nat) : x.pin m = pwmOn x.active.duty x.align ((4096 - x.slot.val * 512 + m) % 4096) := by
    unfold Channel.pin Channel.position
    congr 1
    show (m + 4096 - x.slot.val * 512) % 4096 = _
    congr 1
    omega
  rw [← List.countP_eq_length_filter, show x.pin = fun m => pwmOn x.active.duty x.align
    ((4096 - x.slot.val * 512 + m) % 4096) from funext turned]
  rw [countP_periodic (p := fun m => pwmOn x.active.duty x.align (m % 4096)) (fun m => by rw [Nat.add_mod_left]),
    countP_interval (bound := 4096) (fun m h => by rw [Nat.mod_eq_of_lt h]; exact on_iff m h) (Nat.le_refl _), ← size,
    Nat.min_eq_left bound]

/-- Settles O38. -/
theorem pwmFollowsTheStagedDuty : Obligations.PwmFollowsTheStagedDuty := by
  refine ⟨fun s c live => ?_, fun d position within => ⟨fun off align => ?_, fun full align => ?_, fun low high => ?_⟩,
    fun x => Channel.pin_count⟩
  · exact congrArg Host.Outcome.next (State.live_running _ live)
  · simp [pwmOn, off]
  · simp [pwmOn, full]
  · have on : d ≠ 0 := by omega
    have part : d < 4095 := by omega
    exact ⟨pwmOn_edge on part position, pwmOn_centre on part position⟩

end Sys2Proof.Machine
end

section
/-! Proofs about the motion frame event (R146, R160), MOVE AXIS (R147, R163) and the profile interval event (R146). -/

namespace Sys2Proof.Machine

/-! ### The motion frame event -/

section Wait

variable {x : Axis} {r : AxisRec} {f : Nat}

theorem Axis.countWait_rests (h : x.state ≠ .held ∨ x.wait = none) : x.countWait r = x := by
  unfold Axis.countWait
  split
  · next held waits => exact (h.elim (absurd held) fun none => by rw [none] at waits; cases waits)
  · rfl

theorem Axis.countWait_waits {w : Nat} (held : x.state = .held) (waits : x.wait = some w) (long : 1 < w) :
    x.countWait r = { x with wait := some (w - 1) } := by
  simp only [Axis.countWait, held, waits, if_neg (Nat.not_le.2 long)]

theorem Axis.countWait_ends {w : Nat} (held : x.state = .held) (waits : x.wait = some w) (last : w ≤ 1) :
    x.countWait r = x.resume r := by
  simp only [Axis.countWait, held, waits, if_pos last]

theorem Axis.frameEvent_taken (taken : x.frame = some f) : x.frameEvent r f = x := if_pos taken

theorem Axis.frameEvent_new (new : x.frame ≠ some f) : x.frameEvent r f = Axis.countWait { x with frame := some f } r :=
  if_neg new

/-- R160: the resume wait of the axis ends in show frame f. -/
def Axis.WaitEnds (x : Axis) (f : Nat) : Prop :=
  x.frame ≠ some f ∧ x.state = .held ∧ ∃ w : Nat, x.wait = some w ∧ w ≤ 1

theorem Axis.frameEvent_ends (ends : x.WaitEnds f) : x.frameEvent r f = Axis.resume { x with frame := some f } r := by
  obtain ⟨new, held, w, waits, last⟩ := ends
  rw [Axis.frameEvent_new new]
  exact Axis.countWait_ends (x := { x with frame := some f }) held waits last

theorem Axis.waitEnds_iff : x.waitEnds = true ↔ x.state = .held ∧ ∃ w : Nat, x.wait = some w ∧ w ≤ 1 := by
  simp [Axis.waitEnds, Option.any_eq_true]

theorem Axis.resume_move {m : Move} (follows : x.follow = some (.move m)) :
    x.resume r = if x.homed then x.setOff r m else Axis.beginHoming { x with pendingMove := some (r.limitMove m) } 0 := by
  simp only [Axis.resume, follows]
  rfl

theorem Axis.resume_home (follows : x.follow = some .home) : x.resume r = x.beginHoming 0 := by
  simp only [Axis.resume, follows]
  rfl

end Wait

theorem State.mapAxes_axis (s : State) (k : Fin 8 → Axis → Axis) (a : Fin 8) :
    (s.mapAxes k).motion.axes[a] = k a s.motion.axes[a] := by
  simp [State.mapAxes]

section Ends

variable {x : Axis} {r : AxisRec} {f : Nat} (ends : x.WaitEnds f)
include ends

/-- R160: a held MOVE of a homed axis resumes. -/
theorem Axis.frameEvent_resumes {m : Move} (follows : x.follow = some (.move m)) (homed : x.homed = true) :
    x.frameEvent r f = Axis.setOff { x with frame := some f } r m := by
  rw [Axis.frameEvent_ends ends, Axis.resume_move (x := { x with frame := some f }) follows]
  exact if_pos homed

/-- R160: a held MOVE of an axis that is not homed becomes the pending move of a homing. -/
theorem Axis.frameEvent_homesFirst {m : Move} (follows : x.follow = some (.move m)) (lost : x.homed = false) :
    x.frameEvent r f = Axis.beginHoming { x with frame := some f, pendingMove := some (r.limitMove m) } 0 := by
  rw [Axis.frameEvent_ends ends, Axis.resume_move (x := { x with frame := some f }) follows]
  exact if_neg (by rw [lost]; decide)

/-- R160: a held HOME begins. -/
theorem Axis.frameEvent_homes (follows : x.follow = some .home) :
    x.frameEvent r f = Axis.beginHoming { x with frame := some f } 0 := by
  rw [Axis.frameEvent_ends ends, Axis.resume_home (x := { x with frame := some f }) follows]

end Ends

theorem exec_resumeWaitExpiry {s : State} {a : Fin 8} {f : Nat} (live : s.inReset = false)
    (ends : s.motion.axes[a].WaitEnds f) : exec (.resumeWaitExpiry a f) s = .next ((s.atFrame f).axisFrame a f) :=
  congrArg Host.Outcome.next (State.frameStep_due _ live (Axis.waitEnds_iff.2 ends.2) ends.1)

/-- Settles O48: an axis at a time, by its frame stamp, its state and its wait. -/
theorem resumeWaitsCount : Obligations.ResumeWaitsCount := by
  intro s f live
  refine ⟨_, congrArg Host.Outcome.next (State.frameStep_due _ live rfl nofun), rfl, rfl, rfl, fun a => ?_⟩
  dsimp only
  rw [State.mapAxes_axis]
  refine ⟨Axis.frameEvent_taken, fun new rests => ?_, fun w new held waits long => ?_,
    fun m ends follows homed => ⟨fun there => ?_, fun away => ?_⟩, fun m ends follows lost => ?_,
    fun ends follows => ?_, fun ends => exec_resumeWaitExpiry live ends, fun stays => ?_⟩
  · exact (Axis.frameEvent_new new).trans (Axis.countWait_rests rests)
  · exact (Axis.frameEvent_new new).trans
      (Axis.countWait_waits (x := { s.motion.axes[a] with frame := some f }) held waits long)
  · have idle := (Axis.frameEvent_resumes (r := s.store.tables.axis a) ends follows homed).trans (if_pos there)
    exact ⟨congrArg Axis.state idle, (congrArg Axis.position idle :), (congrArg Axis.homed idle).trans homed⟩
  · have moving := (Axis.frameEvent_resumes (r := s.store.tables.axis a) ends follows homed).trans (if_neg away)
    exact ⟨congrArg Axis.state moving, congrArg Axis.rate moving, (congrArg Axis.position moving :),
      (congrArg Axis.homed moving).trans homed, congrArg Axis.target moving, congrArg Axis.profile moving⟩
  · have homing := Axis.frameEvent_homesFirst (r := s.store.tables.axis a) ends follows lost
    exact ⟨congrArg Axis.state homing, congrArg Axis.rate homing, congrArg Axis.position homing,
      congrArg Axis.homed homing, (congrArg Axis.pendingMove homing :)⟩
  · have homing := Axis.frameEvent_homes (r := s.store.tables.axis a) ends follows
    exact ⟨congrArg Axis.state homing, congrArg Axis.rate homing, congrArg Axis.position homing,
      congrArg Axis.homed homing, (congrArg Axis.pendingMove homing :)⟩
  · refine congrArg Host.Outcome.next (State.frameStep_idle _ (.inr ?_))
    by_cases taken : s.motion.axes[a].frame = some f
    · exact .inr taken
    · exact .inl (Bool.eq_false_iff.2 fun last => stays ⟨taken, Axis.waitEnds_iff.1 last⟩)

/-! ### MOVE AXIS with limits out of order

A MOVE is clamped when it is taken and again when it sets off, and where the higher limit lies below the lower the two differ.
R4 lets no such record be stored, but the statement speaks of every state. -/

/-- An axis record whose higher limit lies below its lower one. -/
def crossedLimits : AxisRec := { AxisRec.empty with minPos := 10, maxPos := -10 }

/-- A homed axis, IDLE at the lower limit. -/
def idleAtTen : Axis := { Axis.reset with state := .idle, homed := true, position := 10 }

/-- The part in STANDBY with MOVE AXIS to position 0 of axis 0 in front. -/
def State.crossed : State :=
  { State.reset with
    store := { State.reset.store with
      mode := .standby
      tables := { Tables.empty with axes := Table.write AxisRec.empty Tables.empty.axes 0 crossedLimits } }
    motion := { State.reset.motion with axes := State.reset.motion.axes.set 0 idleAtTen }
    link := { State.reset.link with requests := [⟨0x16, [0, 0, 0, 0, 0, 0]⟩] } }

theorem State.crossed_next : State.crossed.RequestNext 0x16 [0, 0, 0, 0, 0, 0] [] := ⟨rfl, rfl, rfl⟩

theorem State.crossed_record : State.crossed.store.tables.axis 0 = crossedLimits := rfl

theorem State.crossed_axis : State.crossed.motion.axes[(0 : Fin 8)] = idleAtTen := rfl

theorem State.crossed_answer : (State.crossed.took []).answerMoveAxis [0, 0, 0, 0, 0, 0] =
    ((State.crossed.took []).setAxis 0 (idleAtTen.beginMove (-10) 0), [0, 0, 3]) := rfl

/-- Refutes O46: with crossed limits an IDLE axis at its clamped target does not stay IDLE but sets off. -/
theorem not_linkMovesAndHomesAxes : ¬ Obligations.LinkMovesAndHomesAxes := by
  intro h
  have served : Serves .moveAxis State.finishLink 0x16 false (exactly 6) State.answerMoveAxis := fun _ => rfl
  have model := served.own State.crossed_next (.inr nofun) rfl State.crossed_answer
  have claims := ((h State.crossed 0 []).1 0 0 0 0 0 State.crossed_next).2.2 0 0 rfl rfl (by decide) (by decide) (.inl rfl)
  have stays := claims.2.1 rfl rfl rfl rfl
  have same := Host.Outcome.next.inj (model.symm.trans stays)
  exact absurd (congrArg (fun s : State => s.motion.axes[(0 : Fin 8)].state) same) (by decide)

end Sys2Proof.Machine
end

section
/-! Proofs about the profile interval event of an axis (R146, R150 to R158). -/

namespace Sys2Proof.Machine

/-! ### How an axis comes to rest -/

section Rest

variable {s : State} {a : Fin 8} {home limit : Bool} {y : Axis}

/-- R146: PROFILE_INTERVAL_EVENT leaves this axis and this link. -/
def State.IntervalLeaves (s : State) (a : Fin 8) (home limit : Bool) (y : Axis) (link : Link) : Prop :=
  exec (.profileIntervalEvent a home limit) s = .next (State.finishLink { s.setAxis a y with link := link })

theorem State.interval_quiet (live : s.inReset = false) (hi : s.intervalOf a home limit = (y, .quiet)) :
    s.IntervalLeaves a home limit y s.link := exec_profileIntervalEvent_quiet live hi

theorem State.interval_homed (live : s.inReset = false) (hi : s.intervalOf a home limit = (y, .homed)) :
    s.IntervalLeaves a home limit y (s.link.raise (.axisHomed a s.engine.claims.axes[a])) :=
  exec_profileIntervalEvent_homed live hi

theorem State.interval_fault {cause : AxisCause} (live : s.inReset = false) (free : s.engine.claims.axes[a] = none)
    (hi : s.intervalOf a home limit = (y, .fault cause)) :
    s.IntervalLeaves a home limit y (s.link.raise (.axisFault a cause y.position none none)) :=
  exec_profileIntervalEvent_fault live free hi

/-- R153: what follows when an axis has come to rest, by its stop ending. -/
theorem State.interval_ends {r : AxisRec} {hold : Bool} {link : Link}
    (rests : s.IntervalLeaves a home limit (y.comeToRest r hold) link) :
    (y.ending = some .idle → s.IntervalLeaves a home limit y.idle link)
    ∧ (∀ act : Activity, y.follow = some act →
        (y.ending = some .held → hold = true ∨ r.resume ≠ 0 →
          s.IntervalLeaves a home limit
            { y.atRest with state := .held, ending := none, follow := some act, cause := none,
                            wait := if hold then none else some r.resume } link)
        ∧ (y.ending = some .next → hold = true →
          s.IntervalLeaves a home limit
            { y.atRest with state := .held, ending := none, follow := some act, cause := none,
                            wait := if hold then none else some r.resume } link))
    ∧ (y.ending = some .next → hold = false →
        (∀ m : Move, y.follow = some (.move m) →
          (y.homed = true → r.limit m.target = y.position → s.IntervalLeaves a home limit y.idle link)
          ∧ (y.homed = true → r.limit m.target ≠ y.position →
              s.IntervalLeaves a home limit (y.atRest.beginMove (r.limit m.target) m.profile) link)
          ∧ (y.homed = false → s.IntervalLeaves a home limit
              (Axis.beginHoming { y.atRest with pendingMove := some (r.limitMove m) } r.homeRate) link))
        ∧ (y.follow = some .home → s.IntervalLeaves a home limit (y.atRest.beginHoming r.homeRate) link)) := by
  refine ⟨fun idle => ?_, fun act follows => ⟨fun held waits => ?_, fun next present => ?_⟩,
    fun next clear => ⟨fun m follows => ?_, fun follows => ?_⟩⟩
  · rwa [Axis.comeToRest_idle r hold idle] at rests
  · rwa [Axis.comeToRest_held r hold held follows, Axis.hold_eq _ _ _ _ waits] at rests
  · rwa [Axis.comeToRest_next r hold next follows, if_pos present, Axis.hold_eq _ _ _ _ (.inl present)] at rests
  · rw [Axis.comeToRest_next r hold next follows, if_neg (by rw [clear]; decide)] at rests
    refine ⟨fun homed there => ?_, fun homed away => ?_, fun lost => ?_⟩
    · rwa [Axis.undertake, if_pos (show y.atRest.homed = true from homed), Axis.setOff,
        if_pos (show _ = y.atRest.position from there)] at rests
    · rwa [Axis.undertake, if_pos (show y.atRest.homed = true from homed), Axis.setOff,
        if_neg (show ¬ _ = y.atRest.position from away)] at rests
    · rwa [Axis.undertake, if_neg (show ¬ y.atRest.homed = true by rw [show y.atRest.homed = y.homed from rfl, lost]; decide)]
        at rests
  · rwa [Axis.comeToRest_next r hold next follows, if_neg (by rw [clear]; decide)] at rests

end Rest

/-! ### The interval by the state of the axis -/

section Interval

variable {s : State} {a : Fin 8} {home limit : Bool}

/-- R146: the axis as its interval finds it. -/
def State.sampledAxis (s : State) (a : Fin 8) (home limit : Bool) : Axis :=
  { s.motion.axes[a] with homeSwitch := home, limitSwitch := limit, pulses := 0 }

theorem State.intervalOf_eq (s : State) (a : Fin 8) (home limit : Bool) :
    s.intervalOf a home limit =
      (s.sampledAxis a home limit).interval s.store.tables (s.store.tables.axis a) (s.holdPresent a) := rfl

end Interval

section Cases

variable {x : Axis} {t : Tables} {r : AxisRec} {hold : Bool} (clean : x.pulses = 0)
include clean

theorem Axis.interval_rests (rests : x.state = .idle ∨ x.state = .unhomed ∨ x.state = .held ∨ x.state = .fault) :
    x.interval t r hold = (x, .quiet) := by
  have same : ({ x with pulses := 0 } : Axis) = x := by rw [← clean]
  unfold Axis.interval
  rw [same]
  rcases rests with h | h | h | h <;> simp only [h]

theorem Axis.interval_homing (homing : x.state = .homing) :
    x.interval t r hold = if x.homeSwitch then (x.homeFound r, .homed) else x.homingSteps r r.homeRate := by
  have same : ({ x with pulses := 0 } : Axis) = x := by rw [← clean]
  unfold Axis.interval
  rw [same]
  simp only [homing]

theorem Axis.interval_switched (moves : x.state = .moving ∨ x.state = .stopping) (homed : x.homed = true)
    (switched : x.switchFault = true) : x.interval t r hold = (x.faulted .limit, .fault .limit) := by
  have same : ({ x with pulses := 0 } : Axis) = x := by rw [← clean]
  unfold Axis.interval
  rw [same]
  rcases moves with h | h <;> simp [h, homed, switched]

theorem Axis.interval_moving (moving : x.state = .moving) (clear : x.homed = false ∨ x.switchFault = false) :
    x.interval t r hold = (x.moveInterval r (t.profile (x.profile.getD r.profile)) (x.target.getD x.position), .quiet) := by
  have same : ({ x with pulses := 0 } : Axis) = x := by rw [← clean]
  unfold Axis.interval
  rw [same]
  rcases clear with h | h <;> simp [moving, h]

theorem Axis.interval_stopping (stopping : x.state = .stopping) (homed : x.homed = true) (clear : x.switchFault = false) :
    x.interval t r hold =
      (x.stopInterval r (t.profile (x.profile.getD r.profile)) (x.target.getD x.position) hold, .quiet) := by
  have same : ({ x with pulses := 0 } : Axis) = x := by rw [← clean]
  unfold Axis.interval
  rw [same]
  simp [stopping, homed, clear]

theorem Axis.interval_stoppingLost (stopping : x.state = .stopping) (lost : x.homed = false) :
    x.interval t r hold =
      if x.homeSwitch then (x.homeFoundStopping r hold, .homed)
      else if x.rate ≤ (t.profile r.profile).accel then (x.comeToRest r hold, .quiet)
      else x.homingSteps r (x.rate - (t.profile r.profile).accel) := by
  have same : ({ x with pulses := 0 } : Axis) = x := by rw [← clean]
  unfold Axis.interval
  rw [same]
  simp [stopping, lost]

end Cases

/-- R154, R155: one interval's steps of a homing. -/
theorem State.interval_searches {s : State} {a : Fin 8} {home limit : Bool} {x : Axis} {r : AxisRec} {rate : Nat}
    (live : s.inReset = false) (hi : s.intervalOf a home limit = x.homingSteps r rate) :
    let acc := x.acc + rate
    let y : Axis := { x.advance .negative (acc / 1000) with rate := rate, acc := acc % 1000 }
    (0 ≤ y.position + (r.maxPos - r.minPos) + 1000 → s.IntervalLeaves a home limit y s.link)
    ∧ (y.position + (r.maxPos - r.minPos) + 1000 < 0 → s.engine.claims.axes[a] = none →
        s.IntervalLeaves a home limit (y.faulted .homeNotFound)
          (s.link.raise (.axisFault a .homeNotFound y.position none none))) := by
  have steps := x.homingSteps_cases r rate
  exact ⟨fun within => State.interval_quiet live (hi.trans (steps.1 within)),
    fun beyond free => State.interval_fault live free (hi.trans (steps.2 beyond))⟩

theorem Axis.homeFound_idle {x : Axis} (r : AxisRec) (h : x.pendingMove = none) :
    x.homeFound r = Axis.idle { x.atRest with homed := true, position := 0 } := by
  simp [Axis.homeFound, h]

theorem Axis.homeFound_moves {x : Axis} (r : AxisRec) {m : Move} (h : x.pendingMove = some m) :
    x.homeFound r =
      Axis.beginMove { x.atRest with homed := true, position := 0 } (r.limit m.target) m.profile := by
  simp [Axis.homeFound, h]

/-! ### The fault of an axis that a player owns -/

section Fault

variable {s : State} {a p : Fin 8} {run : Run}

/-- R60: an axis's fault stops the player that awaits it, or that is blocked at a cue of it. -/
theorem State.faultStops_iff (held : s.engine.players[p] = some run) :
    s.faultStops a p = true ↔
      (∃ w : Await, run.phase = .awaiting w ∧ (w.cond = .axisDone a ∨ w.cond = .axesDone))
      ∨ run.phase = .blocked ∧ (((s.store.tables.cue run.cue).cue?).getD .finish = .home a
          ∨ ∃ (position : Int) (profile : Option (Fin 16)),
              ((s.store.tables.cue run.cue).cue?).getD .finish = .move a position profile) := by
  unfold State.faultStops
  rw [held]
  dsimp only
  cases phase : run.phase with
  | delaying d => simp
  | awaiting w => simp
  | blocked =>
    dsimp only
    cases cue : ((s.store.tables.cue run.cue).cue?).getD .finish <;> simp

/-- R32: with nothing waiting a rescan does nothing. -/
theorem State.rescan_empty {s : State} (empty : s.engine.queue = []) : s.rescan = s := by
  unfold State.rescan
  split
  · show State.rescanFrom (1023 + 1) s 0 false = s
    rw [State.rescanFrom, empty]
    rfl
  · rfl

theorem State.StopsPlayer.queue {t : State} {r : Run} {reason : StopReason} (h : s.StopsPlayer t p r reason) :
    t.engine.queue = s.engine.queue := (congrArg Engine.queue h.2.2.1 :)

/-- R57: the stop of a player with nothing waiting, whose scene is not triggered again. -/
theorem State.stopAndRescan_stops {r : Run} (held : s.engine.players[p] = some r) {reason : StopReason}
    (rests : s.NoAgain r.scene reason) (empty : s.engine.queue = []) :
    s.StopsPlayer (s.stopAndRescan p reason) p r reason := by
  have stops := State.stopPlayer_stops held rests
  rw [State.stopAndRescan, held]
  dsimp only
  rwa [State.rescan_empty (stops.queue.trans empty)]

/-- R164: the report of a fault of a claimed axis. -/
def State.faultReported (s : State) (a p : Fin 8) (run : Run) (y : Axis) : State :=
  { s.setAxis a y with link := s.link.raise (.axisFault a .limit y.position (some p) (some run.scene)) }

theorem State.axisNews_fault {y : Axis} (owned : s.engine.claims.axes[a] = some p) (held : s.engine.players[p] = some run) :
    (s.setAxis a y).axisNews a (.fault .limit) =
      if s.faultStops a p then (s.faultReported a p run y).stopAndRescan p .axisFault else s.faultReported a p run y := by
  have scene : (s.setAxis a y).sceneOf (some p) = some run.scene := by
    show Option.map (·.scene) s.engine.players[p] = _
    rw [held]
    rfl
  have reported : (s.setAxis a y).raise (.axisFault a .limit (s.setAxis a y).motion.axes[a].position (some p)
      ((s.setAxis a y).sceneOf (some p))) = s.faultReported a p run y := by
    rw [scene]
    simp [State.faultReported, State.raise, State.setAxis]
  unfold State.axisNews
  rw [show (s.setAxis a y).engine.claims.axes[a] = some p from owned]
  dsimp only
  rw [reported]
  rfl

theorem exec_profileIntervalEvent_owned {home limit : Bool} {y : Axis} (live : s.inReset = false)
    (owned : s.engine.claims.axes[a] = some p) (held : s.engine.players[p] = some run)
    (hi : s.intervalOf a home limit = (y, .fault .limit)) :
    exec (.profileIntervalEvent a home limit) s = .next (State.finishLink
      (if s.faultStops a p then (s.faultReported a p run y).stopAndRescan p .axisFault else s.faultReported a p run y)) := by
  rw [exec_profileIntervalEvent live, State.axisInterval_eq, hi, State.axisNews_fault owned held]

end Fault

/-- Settles O47: the interval by the state of the axis, and what follows from its news. -/
theorem profileIntervalMovesTheAxis : Obligations.ProfileIntervalMovesTheAxis := by
  intro s a home limit live r x hold owner becomes taken room atRest idle faulted moves homes held ends searches switched
    found homed
  have switches : x.switchFault = true ↔ switched := x.switchFault_iff
  have off (clear : ¬ switched) : x.switchFault = false := Bool.eq_false_iff.2 (mt switches.1 clear)
  have unfound (h : home = false) : ¬ x.homeSwitch = true := by rw [show x.homeSwitch = home from rfl, h]; decide
  have advances (y : Axis) (d : Direction) (n : Nat) : y.advance d n = taken y d n := by
    rw [Axis.advance, Direction.move_eq]
  have rooms (d : Direction) : r.room d x.position = room d := r.room_eq d x.position
  have interval : s.intervalOf a home limit = x.interval s.store.tables r hold := rfl
  refine ⟨fun rests => ?_, fun homing home_on => ?_, fun homing home_off => ?_, fun goes homed_ switched_ => ?_,
    fun target profile moving aims profiled clear away => ?_,
    fun target profile stopping homed_ aims profiled clear => ?_, fun stopping lost => ?_⟩
  · exact State.interval_quiet live (interval.trans (Axis.interval_rests rfl rests))
  · have news := interval.trans ((Axis.interval_homing rfl homing).trans (if_pos home_on))
    refine ⟨fun idle_ => ?_, fun m pending => ?_⟩
    · rw [Axis.homeFound_idle r idle_] at news
      exact State.interval_homed live news
    · rw [Axis.homeFound_moves r pending] at news
      exact State.interval_homed live news
  · exact State.interval_searches live
      (interval.trans ((Axis.interval_homing rfl homing).trans (if_neg (unfound home_off))))
  · have news := interval.trans (Axis.interval_switched rfl goes homed_ (switches.2 switched_))
    refine ⟨fun free => State.interval_fault live free news, fun p run owned runs => ?_⟩
    have done := exec_profileIntervalEvent_owned live owned runs news
    intro reported cue awaits
    have stops : s.faultStops a p = true ↔ awaits := State.faultStops_iff runs
    refine ⟨fun goes_on => done.trans ?_, fun awaiting empty rests => ⟨_, done, ?_⟩⟩
    · rw [if_neg (mt stops.1 goes_on)]
      rfl
    · rw [if_pos (stops.2 awaiting)]
      exact State.stopAndRescan_stops (s := s.faultReported a p run (x.faulted .limit)) runs (.inr rests) empty
  · have news := interval.trans (Axis.interval_moving rfl moving (clear.imp_right off))
    rw [profiled, aims, Option.getD_some, Option.getD_some] at news
    obtain ⟨short, arrives, steps⟩ := x.moveInterval_cases r (s.store.tables.profile profile) away
    rw [rooms] at short arrives steps
    refine ⟨fun h => ?_, fun fits whole => ?_, fun fits part => ?_⟩
    · rw [short h, advances] at news
      exact State.interval_quiet live news
    · rw [arrives fits whole, advances] at news
      exact State.interval_quiet live news
    · rw [steps fits part, advances] at news
      exact State.interval_quiet live news
  · have news := interval.trans (Axis.interval_stopping rfl stopping homed_ (off clear))
    rw [profiled, aims, Option.getD_some, Option.getD_some] at news
    obtain ⟨slow, short, arrives, steps⟩ := x.stopInterval_cases r (s.store.tables.profile profile) target hold
    rw [rooms] at short arrives steps
    refine ⟨fun creeps => ?_, fun fast => ⟨fun h => ?_, fun fits whole => ?_, fun fits part => ?_⟩⟩
    · rw [slow creeps] at news
      exact State.interval_ends (State.interval_quiet live news)
    · rw [short fast h, advances] at news
      exact State.interval_ends (State.interval_quiet live news)
    · rw [arrives fast fits whole, advances] at news
      exact State.interval_ends (State.interval_quiet live news)
    · rw [steps fast fits part, advances] at news
      exact State.interval_quiet live news
  · have news := interval.trans (Axis.interval_stoppingLost rfl stopping lost)
    refine ⟨fun home_off slow => ?_, fun home_off fast => ?_, fun home_on other => ?_, fun home_on held_ =>
      ⟨fun none_ => ?_, fun m pending waits => ?_⟩⟩
    · rw [if_neg (unfound home_off), if_pos slow] at news
      exact State.interval_ends (State.interval_quiet live news)
    · rw [if_neg (unfound home_off), if_neg (Nat.not_le.2 fast)] at news
      exact State.interval_searches live news
    · rw [if_pos (show x.homeSwitch = true from home_on), Axis.homeFoundStopping_rests r hold other] at news
      exact State.interval_ends (State.interval_homed live news)
    · rw [if_pos (show x.homeSwitch = true from home_on), Axis.homeFoundStopping_held r hold held_, none_] at news
      exact State.interval_homed live news
    · rw [if_pos (show x.homeSwitch = true from home_on), Axis.homeFoundStopping_held r hold held_, pending] at news
      dsimp only at news
      rw [Axis.hold_eq _ _ _ _ waits] at news
      exact State.interval_homed live news

end Sys2Proof.Machine
end

section
/-! SUPPORT. The stops of several players in a row (R57, R65), said once: what is left when the players of a list have been
halted, one after another. -/

namespace Sys2Proof.Machine

/-- R57, R65: player `p` is halted, its scene takes the record `scene` gives, and its report is queued; a FREE player is
left. -/
def State.haltWith (s : State) (scene : Fin 64 → SceneRun) (reason : StopReason) (p : Fin 8) : State :=
  match s.engine.players[p] with
  | none => s
  | some r =>
    State.raise
      { s with
        engine := { s.engine with
          scenes := s.engine.scenes.set r.scene (scene r.scene)
          players := lowerOrders s.engine.players p r.order
          claims := s.engine.claims.release p }
        sound := { s.sound with voices := Vector.ofFn fun v =>
          if s.engine.claims.voices[v] = some p then s.sound.voices[v].fadeOut else s.sound.voices[v] }
        motion := { s.motion with axes := Vector.ofFn fun a =>
          if s.engine.claims.axes[a] = some p then s.motion.axes[a].stopRequest else s.motion.axes[a] } }
      (.sceneEnded r.scene p reason r.cue)

/-- R193: the reports of stops, in their order, with the players as `s` has them. -/
def State.stopReports (s : State) (reason : StopReason) (ps : List (Fin 8)) (l : Link) : Link :=
  ps.foldl
    (fun (l : Link) (p : Fin 8) => match s.engine.players[p] with
      | some r => l.raise (.sceneEnded r.scene p reason r.cue)
      | none => l)
    l

/-- Of the players in `ps` one runs and is the owner that `owner` tells. -/
def State.anyRunning (s : State) (ps : List (Fin 8)) (owner : Fin 8 → Bool) : Bool :=
  ps.any fun q => (s.engine.players[q]).isSome && owner q

/-- R57, R65: `t` is `s` after the players of `ps` have been halted, with `scene` for what their scenes are then. -/
structure State.Halted (s t : State) (ps : List (Fin 8)) (reason : StopReason) (scene : Fin 64 → SceneRun) : Prop where
  rest : { t with link := s.link, engine := s.engine, sound := s.sound, motion := s.motion } = s
  link : t.link = s.stopReports reason ps s.link
  engine : { t.engine with
    scenes := s.engine.scenes, players := s.engine.players, claims := s.engine.claims } = s.engine
  gone : ∀ p ∈ ps, t.engine.players[p] = none
  others : ∀ q : Fin 8, q ∉ ps → ∃ order : Nat,
    t.engine.players[q] = (s.engine.players[q]).map fun y => { y with order := order }
  ended : ∀ p ∈ ps, ∀ r : Run, s.engine.players[p] = some r → t.engine.scenes[r.scene] = scene r.scene
  kept : ∀ sc : Fin 64, (∀ p ∈ ps, ∀ r : Run, s.engine.players[p] = some r → r.scene ≠ sc) →
    t.engine.scenes[sc] = s.engine.scenes[sc]
  groups : ∀ g : Fin 16, t.engine.claims.groups[g] =
    if s.anyRunning ps fun q => decide (s.engine.claims.groups[g] = .player q) then .none else s.engine.claims.groups[g]
  axes : ∀ a : Fin 8, t.engine.claims.axes[a] =
    if s.anyRunning ps fun q => decide (s.engine.claims.axes[a] = some q) then none else s.engine.claims.axes[a]
  voices : ∀ v : Fin 4, t.engine.claims.voices[v] =
    if s.anyRunning ps fun q => decide (s.engine.claims.voices[v] = some q) then none else s.engine.claims.voices[v]
  sound : { t.sound with voices := s.sound.voices } = s.sound
  faded : ∀ v : Fin 4, t.sound.voices[v] =
    if s.anyRunning ps fun q => decide (s.engine.claims.voices[v] = some q) then (s.sound.voices[v]).fadeOut
    else s.sound.voices[v]
  motion : { t.motion with axes := s.motion.axes } = s.motion
  stopped : ∀ a : Fin 8, t.motion.axes[a] =
    if s.anyRunning ps fun q => decide (s.engine.claims.axes[a] = some q) then (s.motion.axes[a]).stopRequest
    else s.motion.axes[a]

section Halted

variable {s t : State} {ps : List (Fin 8)} {p : Fin 8} {reason : StopReason} {scene : Fin 64 → SceneRun}

theorem State.anyRunning_concat (owner : Fin 8 → Bool) :
    s.anyRunning (ps ++ [p]) owner = (s.anyRunning ps owner || ((s.engine.players[p]).isSome && owner p)) := by
  simp [State.anyRunning]

theorem State.haltWith_free (free : s.engine.players[p] = none) : s.haltWith scene reason p = s := by
  rw [State.haltWith, free]

theorem State.Halted.nil : s.Halted s [] reason scene where
  rest := rfl
  link := rfl
  engine := rfl
  gone _ h := nomatch h
  others q _ := by
    cases s.engine.players[q] with
    | none => exact ⟨0, rfl⟩
    | some y => exact ⟨y.order, rfl⟩
  ended _ h := nomatch h
  kept _ _ := rfl
  groups _ := rfl
  axes _ := rfl
  voices _ := rfl
  sound := rfl
  faded _ := rfl
  motion := rfl
  stopped _ := rfl

theorem State.haltWith_running {r : Run} (running : s.engine.players[p] = some r) :
    s.haltWith scene reason p = State.raise
      { s with
        engine := { s.engine with
          scenes := s.engine.scenes.set r.scene (scene r.scene)
          players := lowerOrders s.engine.players p r.order
          claims := s.engine.claims.release p }
        sound := { s.sound with voices := Vector.ofFn fun v =>
          if s.engine.claims.voices[v] = some p then s.sound.voices[v].fadeOut else s.sound.voices[v] }
        motion := { s.motion with axes := Vector.ofFn fun a =>
          if s.engine.claims.axes[a] = some p then s.motion.axes[a].stopRequest else s.motion.axes[a] } }
      (.sceneEnded r.scene p reason r.cue) := by
  rw [State.haltWith, running]

/-- A claim released by one more stop. -/
theorem released_again {α : Type} [DecidableEq α] {free mine was now next : α} {any : Bool} (apart : free ≠ mine)
    (before : now = if any then free else was) (after : next = if now = mine then free else now) :
    next = if any || decide (was = mine) then free else was := by
  cases any
  · simp_all
  · simp_all

/-- What the owner's stop has acted on is acted on once. -/
theorem acted_again {α β : Type} [DecidableEq α] {free mine was now : α} {any : Bool} {x y z : β} {act : β → β}
    (apart : free ≠ mine) (claim : now = if any then free else was) (before : y = if any then act x else x)
    (after : z = if now = mine then act y else y) : z = if any || decide (was = mine) then act x else x := by
  cases any
  · simp_all
  · simp_all

/-- A player that the stops so far have spared keeps its scene and its cue. -/
theorem State.Halted.spared (h : s.Halted t ps reason scene) (fresh : p ∉ ps) {x : Run}
    (running : t.engine.players[p] = some x) : ∃ r, s.engine.players[p] = some r ∧ r.scene = x.scene ∧ r.cue = x.cue := by
  obtain ⟨order, same⟩ := h.others p fresh
  rw [running] at same
  obtain ⟨r, was, rfl⟩ := Option.map_eq_some_iff.1 same.symm
  exact ⟨r, was, rfl, rfl⟩

theorem State.Halted.step (h : s.Halted t ps reason scene) (fresh : p ∉ ps) :
    s.Halted (t.haltWith scene reason p) (ps ++ [p]) reason scene := by
  cases running : t.engine.players[p] with
  | none =>
    obtain ⟨order, same⟩ := h.others p fresh
    have free : s.engine.players[p] = none := by rw [running] at same; exact Option.map_eq_none_iff.1 same.symm
    rw [State.haltWith_free running]
    have any (owner : Fin 8 → Bool) : s.anyRunning (ps ++ [p]) owner = s.anyRunning ps owner := by
      rw [State.anyRunning_concat, free, Option.isSome_none, Bool.false_and, Bool.or_false]
    refine ⟨h.rest, ?_, h.engine, fun q member => ?_, fun q other => ?_, fun q member r held => ?_, fun sc apart => ?_,
      ?_, ?_, ?_, h.sound, ?_, h.motion, ?_⟩
    · rw [h.link, State.stopReports, State.stopReports, List.foldl_append, List.foldl_cons, free]
      rfl
    · rcases List.mem_append.1 member with old | new
      · exact h.gone q old
      · rwa [List.mem_singleton.1 new]
    · exact h.others q fun old => other (List.mem_append_left _ old)
    · rcases List.mem_append.1 member with old | new
      · exact h.ended q old r held
      · rw [List.mem_singleton.1 new, free] at held
        cases held
    · exact h.kept sc fun q old => apart q (List.mem_append_left _ old)
    · simpa only [any] using h.groups
    · simpa only [any] using h.axes
    · simpa only [any] using h.voices
    · simpa only [any] using h.faded
    · simpa only [any] using h.stopped
  | some x =>
    obtain ⟨r, was, scene_eq, cue_eq⟩ := h.spared fresh running
    have any (owner : Fin 8 → Bool) : s.anyRunning (ps ++ [p]) owner = (s.anyRunning ps owner || owner p) := by
      rw [State.anyRunning_concat, was, Option.isSome_some, Bool.true_and]
    rw [State.haltWith_running running]
    refine ⟨h.rest, ?_, h.engine, fun q member => ?_, fun q other => ?_, fun q member y held => ?_, fun sc apart => ?_,
      fun g => ?_, fun a => ?_, fun v => ?_, h.sound, fun v => ?_, h.motion, fun a => ?_⟩
    · show t.link.raise _ = _
      rw [h.link, State.stopReports, State.stopReports, List.foldl_append, List.foldl_cons, was, ← scene_eq, ← cue_eq]
      rfl
    · show (lowerOrders t.engine.players p x.order)[q] = none
      rw [lowerOrders_get]
      by_cases same : q = p
      · rw [if_pos same]
      · have old : q ∈ ps := (List.mem_append.1 member).resolve_right fun new => same (List.mem_singleton.1 new)
        rw [if_neg same, h.gone q old]
        rfl
    · have apart : q ≠ p := fun same => other (List.mem_append_right _ (List.mem_singleton.2 same))
      obtain ⟨order, same⟩ := h.others q fun old => other (List.mem_append_left _ old)
      show ∃ order, (lowerOrders t.engine.players p x.order)[q] = _
      rw [lowerOrders_get, if_neg apart, same]
      cases s.engine.players[q] with
      | none => exact ⟨0, rfl⟩
      | some y =>
        refine ⟨(Run.closedUp { y with order := order } x.order).order, ?_⟩
        simp only [Option.map_some, Run.closedUp]
        split <;> rfl
    · show (t.engine.scenes.set x.scene (scene x.scene))[y.scene] = _
      rw [Vector.getElem_setFin]
      split
      · next same => rw [same]
      · next other =>
        rcases List.mem_append.1 member with old | new
        · exact h.ended q old y held
        · rw [List.mem_singleton.1 new, was] at held
          cases held
          exact absurd scene_eq.symm other
    · show (t.engine.scenes.set x.scene (scene x.scene))[sc] = _
      rw [Vector.getElem_setFin, if_neg]
      · exact h.kept sc fun q old => apart q (List.mem_append_left _ old)
      · rw [← scene_eq]
        exact apart p (List.mem_append_right _ (List.mem_singleton.2 rfl)) r was
    · rw [any]
      exact released_again (nofun : GroupOwner.none ≠ .player p) (h.groups g) (Claims.release_group ..)
    · rw [any]
      exact released_again (nofun : none ≠ some p) (h.axes a) (Claims.release_axis ..)
    · rw [any]
      exact released_again (nofun : none ≠ some p) (h.voices v) (Claims.release_voice ..)
    · rw [any]
      refine acted_again (nofun : none ≠ some p) (h.voices v) (h.faded v) ?_
      show (Vector.ofFn _)[v] = _
      simp
    · rw [any]
      refine acted_again (nofun : none ≠ some p) (h.axes a) (h.stopped a) ?_
      show (Vector.ofFn _)[a] = _
      simp

/-- The players of a list have been halted, one after another. -/
theorem State.Halted.foldl (s : State) (scene : Fin 64 → SceneRun) (reason : StopReason) {ps : List (Fin 8)}
    (nodup : ps.Nodup) : s.Halted (ps.foldl (fun t p => t.haltWith scene reason p) s) ps reason scene := by
  induction ps using snocInduction with
  | nil => exact .nil
  | append_singleton ps p ih =>
    rw [List.nodup_append] at nodup
    obtain ⟨before, -, apart⟩ := nodup
    rw [List.foldl_append]
    exact (ih before).step fun old => apart p old p (List.mem_singleton.2 rfl) rfl

end Halted

/-! ### Whole stops -/

section Stops

variable {s u : State} {ps : List (Fin 8)} {p : Fin 8} {reason : StopReason}

/-- What differs in the lighting alone. -/
theorem State.eq_withLight {s t : State} (h : { t with light := s.light } = s) : t = { s with light := t.light } :=
  (congrArg (fun x : State => { x with light := t.light }) h :)

/-- R34, R57, R78: the whole stop of a player whose scene is not triggered again is a halt, but for the lighting. -/
theorem State.stopPlayer_haltWith {r : Run} (running : s.engine.players[p] = some r) (rests : s.NoAgain r.scene reason) :
    ∃ light, s.stopPlayer p reason = { s.haltWith s.restOf reason p with light := light }
      ∧ (s.store.attractRunning = false → light = s.light) := by
  have halted : (s.halt p reason).setScene r.scene (s.restOf r.scene) = s.haltWith s.restOf reason p := by
    rw [State.halt_eq running, State.haltWith_running running]
    unfold State.setScene State.raise
    simp only [Vector.set_set]
  rw [State.stopPlayer_eq running rests, halted]
  refine ⟨_, State.eq_withLight (State.returnGroups_rest _ _).1, fun stopped => ?_⟩
  have off : (s.haltWith s.restOf reason p).store.attractRunning = false := by
    rw [State.haltWith_running running]
    exact stopped
  rw [State.returnGroups, if_neg (by rw [off]; decide), State.haltWith_running running]
  rfl

theorem State.restOf_again (s : State) (sc : Fin 64) : (s.restOf sc).again = false := by
  unfold State.restOf
  split <;> rfl

theorem State.restOf_congr {s t : State} (store : t.store = s.store) (frame : t.frame = s.frame) : t.restOf = s.restOf := by
  funext sc
  rw [State.restOf, State.restOf, store, frame]

theorem State.Halted.noAgain {t : State} (h : s.Halted t ps reason s.restOf) {sc : Fin 64} (rests : s.NoAgain sc reason) :
    t.NoAgain sc reason := by
  rcases rests with drops | clear | house
  · exact .inl drops
  · refine .inr (.inl ?_)
    by_cases hit : ∃ p ∈ ps, ∃ r : Run, s.engine.players[p] = some r ∧ r.scene = sc
    · obtain ⟨p, member, r, held, rfl⟩ := hit
      rw [h.ended p member r held]
      exact s.restOf_again _
    · rw [h.kept sc fun p member r held same => hit ⟨p, member, r, held, same⟩]
      exact clear
  · exact .inr (.inr ((congrArg Engine.house h.engine :).trans house))

/-- R57: the whole stops of the players of a list, whose scenes are not triggered again. -/
theorem State.foldl_stopPlayer_halted (nodup : ps.Nodup)
    (rests : ∀ p ∈ ps, ∀ r : Run, s.engine.players[p] = some r → s.NoAgain r.scene reason) :
    ∃ u light, ps.foldl (fun t p => t.stopPlayer p reason) s = { u with light := light }
      ∧ s.Halted u ps reason s.restOf ∧ (s.store.attractRunning = false → light = s.light) := by
  induction ps using snocInduction with
  | nil => exact ⟨s, s.light, rfl, .nil, fun _ => rfl⟩
  | append_singleton ps p ih =>
    rw [List.nodup_append] at nodup
    obtain ⟨before, -, apart⟩ := nodup
    obtain ⟨u, light, stopped, halted, kept⟩ := ih before fun q old => rests q (List.mem_append_left _ old)
    have fresh : p ∉ ps := fun old => apart p old p (List.mem_singleton.2 rfl) rfl
    rw [List.foldl_append, stopped, List.foldl_cons, List.foldl_nil]
    have store : u.store = s.store := (congrArg State.store halted.rest :)
    have frame : u.frame = s.frame := (congrArg State.frame halted.rest :)
    refine ⟨u.haltWith s.restOf reason p, ?_⟩
    cases running : u.engine.players[p] with
    | none =>
      refine ⟨light, ?_, halted.step fresh, kept⟩
      rw [State.haltWith_free running, State.stopPlayer]
      rw [show ({ u with light := light } : State).engine.players[p] = none from running]
    | some x =>
      obtain ⟨r, was, scene_eq, -⟩ := halted.spared fresh running
      have again := halted.noAgain (scene_eq ▸ rests p (List.mem_append_right _ (List.mem_singleton.2 rfl)) r was)
      obtain ⟨light', done, same⟩ :=
        State.stopPlayer_haltWith (s := { u with light := light }) (reason := reason) running again
      refine ⟨light', ?_, halted.step fresh, fun off => (same ?_).trans (kept off)⟩
      · rw [done, State.restOf_congr (s := s) (t := { u with light := light }) store frame,
          State.haltWith_running (s := { u with light := light }) running, State.haltWith_running running]
        rfl
      · exact (congrArg Store.attractRunning store).trans off

end Stops

end Sys2Proof.Machine
end

section
/-! Proofs about the change from SHOW to STANDBY (R9, R10) and STOP ALL (R38): the queue is emptied and every player stops. -/

namespace Sys2Proof.Machine

/-! ### Every player -/

section Every

variable {s : State}

theorem State.anyRunning_all {owner : Fin 8 → Bool} :
    s.anyRunning (List.finRange 8) owner = true ↔ ∃ q : Fin 8, (s.engine.players[q]).isSome = true ∧ owner q = true := by
  simp [State.anyRunning, List.any_eq_true]

/-- R63: a group that is not in direct control is unowned, or is some running player's. -/
theorem Engine.ClaimsHeld.released_group (h : s.engine.ClaimsHeld) (g : Fin 16) :
    (if s.anyRunning (List.finRange 8) fun q => decide (s.engine.claims.groups[g] = .player q) then .none
      else s.engine.claims.groups[g]) = if s.engine.claims.groups[g] = .direct then .direct else GroupOwner.none := by
  cases owner : s.engine.claims.groups[g] with
  | none => simp [State.anyRunning]
  | direct => simp [State.anyRunning]
  | player p =>
    have running := (State.claimsNamePlayers_iff.2 h).1 g p owner
    rw [if_pos, if_neg nofun]
    rw [State.anyRunning_all]
    exact ⟨p, running, decide_eq_true rfl⟩

/-- R63: a claim on an axis or a voice names a running player. -/
theorem State.anyRunning_claim {claim : Option (Fin 8)}
    (held : ∀ p : Fin 8, claim = some p → (s.engine.players[p]).isSome = true) :
    (s.anyRunning (List.finRange 8) fun q => decide (claim = some q)) = claim.isSome := by
  cases claim with
  | none => simp [State.anyRunning]
  | some p =>
    rw [Option.isSome_some, State.anyRunning_all]
    exact ⟨p, held p rfl, decide_eq_true rfl⟩

theorem State.released_claim {claim : Option (Fin 8)}
    (held : ∀ p : Fin 8, claim = some p → (s.engine.players[p]).isSome = true) :
    (if s.anyRunning (List.finRange 8) fun q => decide (claim = some q) then none else claim) = none := by
  rw [State.anyRunning_claim held]
  cases claim <;> rfl

variable {u : State} {ps : List (Fin 8)} {reason : StopReason} {scene : Fin 64 → SceneRun}

theorem State.Halted.light (h : s.Halted u ps reason scene) : u.light = s.light := (congrArg State.light h.rest :)

theorem State.Halted.store (h : s.Halted u ps reason scene) : u.store = s.store := (congrArg State.store h.rest :)

theorem State.Halted.pending (h : s.Halted u ps reason scene) : u.pending = s.pending := (congrArg State.pending h.rest :)

theorem State.Halted.frame (h : s.Halted u ps reason scene) : u.frame = s.frame := (congrArg State.frame h.rest :)

theorem State.Halted.monitor (h : s.Halted u ps reason scene) : u.monitor = s.monitor := (congrArg State.monitor h.rest :)

theorem State.Halted.queue (h : s.Halted u ps reason scene) : u.engine.queue = s.engine.queue :=
  (congrArg Engine.queue h.engine :)

/-- R193: the reports of stops tell of the players alone. -/
theorem State.stopReports_congr {t : State} (players : t.engine.players = s.engine.players) :
    t.stopReports reason ps = s.stopReports reason ps := by
  unfold State.stopReports
  rw [players]

end Every

/-! ### The queue is emptied -/

section Queue

/-- R20: the scenes of the entries become READY. -/
def State.readied (s : State) (entries : List Entry) : State := entries.foldl (fun t e => State.sceneTo t e.scene .ready) s

theorem State.readied_rest (s : State) (entries : List Entry) :
    { s.readied entries with engine := { (s.readied entries).engine with scenes := s.engine.scenes } } = s := by
  unfold State.readied
  induction entries generalizing s with
  | nil => rfl
  | cons e rest ih =>
    exact (congrArg (fun x : State => { x with engine := { x.engine with scenes := s.engine.scenes } })
      (ih (s.sceneTo e.scene .ready)) :)

theorem State.readied_rests (s : State) (entries : List Entry) :
    (s.readied entries).pending = s.pending ∧ (s.readied entries).frame = s.frame
    ∧ (s.readied entries).monitor = s.monitor ∧ (s.readied entries).store = s.store
    ∧ (s.readied entries).link = s.link ∧ (s.readied entries).light = s.light ∧ (s.readied entries).sound = s.sound
    ∧ (s.readied entries).motion = s.motion :=
  have h := s.readied_rest entries
  ⟨(congrArg State.pending h :), (congrArg State.frame h :), (congrArg State.monitor h :), (congrArg State.store h :),
   (congrArg State.link h :), (congrArg State.light h :), (congrArg State.sound h :), (congrArg State.motion h :)⟩

theorem State.readied_engine (s : State) (entries : List Entry) :
    { (s.readied entries).engine with scenes := s.engine.scenes } = s.engine :=
  (congrArg State.engine (s.readied_rest entries) :)

theorem State.readied_scene (s : State) (entries : List Entry) (sc : Fin 64) :
    (s.readied entries).engine.scenes[sc] =
      if ∃ e ∈ entries, e.scene = sc then ⟨.ready, 0, false, none⟩ else s.engine.scenes[sc] := by
  unfold State.readied
  induction entries generalizing s with
  | nil => simp
  | cons e rest ih =>
    rw [List.foldl_cons, ih]
    have first : (s.sceneTo e.scene .ready).engine.scenes[sc] =
        if e.scene = sc then ⟨.ready, 0, false, none⟩ else s.engine.scenes[sc] := Vector.getElem_setFin ..
    rw [first]
    by_cases own : e.scene = sc <;> by_cases others : ∃ y ∈ rest, y.scene = sc <;> simp [own, others]

/-- R29, R31, R37: the entries are dropped one after another. -/
def State.dropEntries (s : State) (reason : DropReason) (entries : List Entry) : State :=
  entries.foldl (fun t e => t.dropEntry e reason) s

variable (reason : DropReason)

theorem State.dropEntries_rest (s : State) (entries : List Entry) :
    { s.dropEntries reason entries with
      link := s.link
      engine := { (s.dropEntries reason entries).engine with
        scenes := s.engine.scenes, queue := s.engine.queue } } = s := by
  unfold State.dropEntries
  induction entries generalizing s with
  | nil => rfl
  | cons e rest ih =>
    exact (congrArg (fun x : State => { x with
      link := s.link, engine := { x.engine with scenes := s.engine.scenes, queue := s.engine.queue } })
      (ih (s.dropEntry e reason)) :)

theorem State.dropEntries_rests (s : State) (entries : List Entry) :
    (s.dropEntries reason entries).pending = s.pending ∧ (s.dropEntries reason entries).frame = s.frame
    ∧ (s.dropEntries reason entries).monitor = s.monitor ∧ (s.dropEntries reason entries).store = s.store
    ∧ (s.dropEntries reason entries).light = s.light ∧ (s.dropEntries reason entries).sound = s.sound
    ∧ (s.dropEntries reason entries).motion = s.motion ∧ (s.dropEntries reason entries).inReset = s.inReset :=
  have h := s.dropEntries_rest reason entries
  ⟨(congrArg State.pending h :), (congrArg State.frame h :), (congrArg State.monitor h :), (congrArg State.store h :),
   (congrArg State.light h :), (congrArg State.sound h :), (congrArg State.motion h :), (congrArg State.inReset h :)⟩

theorem State.dropEntries_engine (s : State) (entries : List Entry) :
    { (s.dropEntries reason entries).engine with scenes := s.engine.scenes, queue := s.engine.queue } = s.engine :=
  (congrArg State.engine (s.dropEntries_rest reason entries) :)

theorem State.dropEntries_link (s : State) (entries : List Entry) :
    (s.dropEntries reason entries).link =
      entries.foldl (fun l e => l.raise (.triggerDropped e.scene reason e.source)) s.link := by
  unfold State.dropEntries
  induction entries generalizing s with
  | nil => rfl
  | cons e rest ih => exact ih _

theorem State.dropEntries_scene (s : State) (entries : List Entry) (sc : Fin 64) :
    (s.dropEntries reason entries).engine.scenes[sc] =
      if ∃ e ∈ entries, e.scene = sc then ⟨.ready, 0, false, none⟩ else s.engine.scenes[sc] := by
  unfold State.dropEntries
  induction entries generalizing s with
  | nil => simp
  | cons e rest ih =>
    rw [List.foldl_cons, ih]
    have first : (s.dropEntry e reason).engine.scenes[sc] =
        if e.scene = sc then ⟨.ready, 0, false, none⟩ else s.engine.scenes[sc] := Vector.getElem_setFin ..
    rw [first]
    by_cases own : e.scene = sc <;> by_cases others : ∃ y ∈ rest, y.scene = sc <;> simp [own, others]

theorem State.dropEntries_queue (s : State) (entries : List Entry) :
    (s.dropEntries reason entries).engine.queue =
      s.engine.queue.filter fun x => !entries.any fun e => decide (e.scene = x.scene) := by
  unfold State.dropEntries
  induction entries generalizing s with
  | nil => exact (List.filter_eq_self.2 fun _ _ => rfl).symm
  | cons e rest ih =>
    rw [List.foldl_cons, ih]
    show (s.engine.queue.filter fun x => decide (x.scene ≠ e.scene)).filter _ = _
    rw [List.filter_filter]
    refine List.filter_congr fun x _ => ?_
    simp [eq_comm (a := e.scene), Bool.and_comm]

/-- R38: with every entry dropped nothing waits. -/
theorem State.dropEntries_all (s : State) : (s.dropEntries reason s.engine.queue).engine.queue = [] := by
  rw [State.dropEntries_queue, List.filter_eq_nil_iff]
  intro e member
  simp only [Bool.not_eq_true', Bool.not_eq_false, List.any_eq_true]
  exact ⟨e, member, decide_eq_true rfl⟩

end Queue

/-! ### From SHOW to STANDBY -/

section Leave

variable {s : State}

theorem State.standDown_eq (s : State) (players : List (Fin 8)) :
    s.standDown players =
      ((players.foldl (fun t p => State.stopPlayer t p .standby) s).readied
        (players.foldl (fun t p => State.stopPlayer t p .standby) s).engine.queue).setQueue [] := rfl

/-- R10: with the attract cycle stopped, the stops of all the players leave the lighting. -/
theorem State.standDown_halted (off : s.store.attractRunning = false) :
    ∃ u : State, s.Halted u (List.finRange 8) .standby s.restOf
      ∧ s.standDown (List.finRange 8) = (u.readied s.engine.queue).setQueue [] := by
  obtain ⟨u, light, stopped, halted, same⟩ := State.foldl_stopPlayer_halted (s := s) (reason := .standby)
    (List.nodup_finRange 8) fun _ _ _ _ => .inl rfl
  have lit : ({ u with light := light } : State) = u := by
    rw [same off, ← State.Halted.light halted]
  refine ⟨u, halted, ?_⟩
  rw [State.standDown_eq, stopped, lit, halted.queue]

/-- R10: what the beds, the axes and the attract cycle are when the show has ended. -/
theorem State.showEnded_light (s : State) (was : Bool) (off : s.store.attractRunning = false) :
    (s.showEnded was).light = if was then { s.light with slot := 0, hold := 0 } else s.light := by
  show s.light.attractChange _ _ was s.store.attractRunning = _
  rw [off]
  cases was <;> rfl

theorem State.showEnded_axis (s : State) (was : Bool) (a : Fin 8) :
    (s.showEnded was).motion.axes[a] = s.motion.axes[a].stopRequest := by
  show (Vector.ofFn _)[a] = _
  simp

theorem State.showEnded_bed (s : State) (was : Bool) (b : Fin 4) :
    (s.showEnded was).sound.beds[b].state = .off ∧ (s.showEnded was).sound.beds[b].stage = 0 := by
  have bed : (s.showEnded was).sound.beds[b] = s.sound.beds[b].stop := by
    show (Vector.ofFn _)[b] = _
    simp
  rw [bed]
  exact ⟨rfl, rfl⟩

theorem Sound.foldl_dropFlight_voices {α : Type} (stream : α → Fin 8) (xs : List α) (s : Sound) :
    (xs.foldl (fun s x => s.dropFlight (stream x)) s).voices = s.voices := by
  induction xs generalizing s with
  | nil => rfl
  | cons x xs ih => exact (ih _).trans (s.dropFlight_voices _)

theorem State.showEnded_voices (s : State) (was : Bool) : (s.showEnded was).sound.voices = s.sound.voices := by
  show (Sound.stopBeds s.sound).voices = _
  unfold Sound.stopBeds
  exact Sound.foldl_dropFlight_voices _ _ _

/-- R149, R162: an axis with one stop request or two in a row. -/
theorem Axis.stopRequest_stands (x y : Axis) (h : y = x ∨ y = x.stopRequest) :
    y.stopRequest.position = x.position
    ∧ match x.state with
      | .moving | .homing | .stopping => y.stopRequest.state = .stopping ∧ y.stopRequest.ending = some .idle
          ∧ y.stopRequest.rate = x.rate
      | .held => y.stopRequest.state = .idle
      | .idle | .unhomed | .fault => y.stopRequest = x := by
  cases state : x.state <;> rcases h with h | h <;> rw [h] <;> simp [Axis.stopRequest, state, Axis.idle, Axis.atRest]

end Leave

theorem showTarget?_standby (flags : Byte) : showTarget? [1, flags] = some false := rfl

/-- Settles O13: the players stop, the queue is emptied, and then the beds, the axes and the attract cycle stop. -/
theorem showToStandbyEndsTheShow : Obligations.ShowToStandbyEndsTheShow := by
  intro s flags rest next mode claims
  have served : Serves .showMode State.finish 0x06 false (exactly 2) State.answerShowMode := fun _ => rfl
  generalize left_eq : (s.took rest).setMode .standby false false = left
  have off : left.store.attractRunning = false := by rw [← left_eq]; rfl
  obtain ⟨u, halted, stood⟩ := State.standDown_halted off
  have held : left.engine.ClaimsHeld := by
    rw [← left_eq]
    exact State.claimsNamePlayers_iff.1 claims
  obtain ⟨pending, frame, monitor, store, link, light, sound, motion⟩ := u.readied_rests left.engine.queue
  have engine := u.readied_engine left.engine.queue
  have scenes := u.readied_scene left.engine.queue
  generalize u.readied left.engine.queue = ready at *
  have done : (s.took rest).showToStandby = (ready.setQueue []).showEnded s.store.attractRunning := by
    rw [State.showToStandby_eq, left_eq, State.leaveShow_eq, stood]
    rfl
  have players : ready.engine.players = u.engine.players := (congrArg Engine.players engine :)
  have owners : ready.engine.claims = u.engine.claims := (congrArg Engine.claims engine :)
  have arrivals : ready.engine.arrivals = u.engine.arrivals := (congrArg Engine.arrivals engine :)
  refine ⟨(ready.setQueue []).showEnded s.store.attractRunning, served.own next (.inr (by rw [mode]; decide)) rfl ?_, ?_⟩
  · rw [State.answerShowMode, showTarget?_standby]
    dsimp only
    rw [show (s.took rest).store.mode = .running from mode]
    dsimp only
    rw [done]
    rfl
  subst left_eq
  refine ⟨pending.trans halted.pending, frame.trans halted.frame, monitor.trans halted.monitor,
    store.trans halted.store, link.trans halted.link,
    rfl, arrivals.trans ?_, fun p => ?_, fun e member => ?_, fun p r running apart => ?_, fun g => ?_, fun a => ?_,
    fun v => ?_, ?_, fun v => ?_, fun b => State.showEnded_bed _ _ b, fun a => ?_⟩
  · exact (congrArg Engine.arrivals halted.engine :)
  · show ready.engine.players[p] = none
    rw [players]
    exact halted.gone p (List.mem_finRange p)
  · exact (scenes e.scene).trans (if_pos ⟨e, member, rfl⟩)
  · refine (scenes r.scene).trans ((if_neg ?_).trans (halted.ended p (List.mem_finRange p) r running))
    rintro ⟨e, member, same⟩
    exact apart e member same
  · show ready.engine.claims.groups[g] = _
    rw [owners]
    exact (halted.groups g).trans (held.released_group g)
  · show ready.engine.claims.axes[a] = _
    rw [owners]
    exact (halted.axes a).trans (State.released_claim fun p => held.axes a p)
  · show ready.engine.claims.voices[v] = _
    rw [owners]
    exact (halted.voices v).trans (State.released_claim fun p => held.voices v p)
  · rw [State.showEnded_light]
    · show (if s.store.attractRunning = true then { ready.light with slot := 0, hold := 0 } else ready.light) = _
      rw [light, halted.light]
      rfl
    · show ready.store.attractRunning = false
      rw [store, halted.store]
      exact off
  · rw [State.showEnded_voices]
    show ready.sound.voices[v] = _
    rw [sound, halted.faded v, State.anyRunning_claim fun p => held.voices v p]
    rfl
  · rw [State.showEnded_axis]
    rw [show (ready.setQueue []).motion = u.motion from motion]
    refine Axis.stopRequest_stands (s.motion.axes[a]) (u.motion.axes[a]) ?_
    rw [halted.stopped a]
    split
    · exact .inr rfl
    · exact .inl rfl

/-! ### STOP ALL -/

theorem State.stopEverything_eq (s : State) :
    s.stopEverything =
      (List.finRange 8).foldl (fun t p => State.stopPlayer t p .cancelled) (s.dropEntries .cancelled s.engine.queue) := by
  unfold State.stopEverything State.dropEntries
  rfl

/-- Settles O25: the entries are dropped, and then the players stop. -/
theorem stopAllEmptiesTheEngine : Obligations.StopAllEmptiesTheEngine := by
  intro s rest next mode claims running rests faded stopped
  have served : Serves .stopAll State.finishLink 0x0D false (exactly 0) State.answerStopAll := fun _ => rfl
  have fades (x : Voice) : x.fadeOut = faded x := by cases state : x.state <;> simp [Voice.fadeOut, faded, state]
  have stops (x : Axis) : x.stopRequest = stopped x := by
    cases state : x.state <;> simp [Axis.stopRequest, stopped, state, Axis.idle, Axis.atRest]
  obtain ⟨pending, frame, monitor, store, light, sound, motion, -⟩ :=
    (s.took rest).dropEntries_rests .cancelled s.engine.queue
  have engine := (s.took rest).dropEntries_engine .cancelled s.engine.queue
  have link := (s.took rest).dropEntries_link .cancelled s.engine.queue
  have scenes := (s.took rest).dropEntries_scene .cancelled s.engine.queue
  have empty : ((s.took rest).dropEntries .cancelled s.engine.queue).engine.queue = [] :=
    (s.took rest).dropEntries_all .cancelled
  have all : (s.took rest).stopEverything = _ := (s.took rest).stopEverything_eq
  rw [show (s.took rest).engine.queue = s.engine.queue from rfl] at all
  generalize (s.took rest).dropEntries .cancelled s.engine.queue = left at *
  obtain ⟨u, lit, done, halted, same⟩ := State.foldl_stopPlayer_halted (s := left) (reason := .cancelled)
    (List.nodup_finRange 8) fun _ _ _ _ => .inl rfl
  rw [done] at all
  have players : left.engine.players = s.engine.players := (congrArg Engine.players engine :)
  have owners : left.engine.claims = s.engine.claims := (congrArg Engine.claims engine :)
  have held : left.engine.ClaimsHeld :=
    (State.claimsNamePlayers_iff.1 claims).of owners fun p h => by rwa [players]
  have resting : left.restOf = s.restOf := State.restOf_congr store frame
  refine ⟨fades, stops, { u with light := lit }, served.own next (.inr mode) rfl ?_, halted.pending.trans pending,
    halted.store.trans store, halted.monitor.trans monitor, ?_, ?_, halted.queue.trans empty,
    fun p => halted.gone p (List.mem_finRange p), fun p r runs => ?_, fun e member apart => ?_,
    fun g => ?_, fun a => ?_, fun v => ?_, fun v => ?_, fun a => ?_, fun off => ?_⟩
  · rw [State.answerStopAll, all]
    rfl
  · exact (congrArg Sound.beds halted.sound :).trans (congrArg Sound.beds sound)
  · refine halted.link.trans ?_
    rw [State.stopReports_congr players, link]
    rfl
  · rw [← players] at runs
    refine (halted.ended p (List.mem_finRange p) r runs).trans ?_
    rw [resting]
    rfl
  · refine (halted.kept e.scene fun p _ r runs => apart p r (players ▸ runs)).trans ?_
    rw [scenes, if_pos ⟨e, member, rfl⟩]
  · rw [← owners]
    exact (halted.groups g).trans (held.released_group g)
  · exact (halted.axes a).trans (State.released_claim fun p => held.axes a p)
  · exact (halted.voices v).trans (State.released_claim fun p => held.voices v p)
  · refine (halted.faded v).trans ?_
    rw [State.anyRunning_claim fun p => held.voices v p, owners, sound, fades]
    rfl
  · refine (halted.stopped a).trans ?_
    rw [State.anyRunning_claim fun p => held.axes a p, owners, motion, stops]
    rfl
  · refine (same ?_).trans light
    rw [store]
    exact off

end Sys2Proof.Machine
end

section
/-! Proofs about TRIGGER where nothing stops (R23, R24, R28 to R30) and CANCEL (R37). -/

namespace Sys2Proof.Machine

/-! ### The cases of a trigger -/

section Trigger

variable {s : State} {sc : Fin 64} {src : Source}

theorem State.trigger_house (house : s.engine.house = true) : s.trigger sc src = (s, .house) := by
  rw [State.trigger, if_pos house]

theorem State.trigger_disabled (house : s.engine.house = false) (disabled : (s.store.tables.scene sc).enabled = false) :
    s.trigger sc src = (s, .disabled) := by
  rw [State.trigger, if_neg (by rw [house]; decide), if_pos (by rw [disabled]; rfl)]

/-- R23, R24: the trigger of an enabled scene while HOUSE is released. -/
theorem State.trigger_live (house : s.engine.house = false) (enabled : (s.store.tables.scene sc).enabled = true) :
    s.trigger sc src =
      match s.engine.scenes[sc].state with
      | .running =>
        match (s.store.tables.scene sc).retrigger with
        | .ignore => (s, .ignored)
        | .queue =>
          if s.engine.scenes[sc].again then (s, .ignored)
          else (s.setScene sc { s.engine.scenes[sc] with again := true }, .queuedAgain)
        | .restart =>
          match s.engine.holder sc with
          | some p => (s.restart sc src p, .restarted)
          | none => (s, .ignored)
      | .pending => (s, .alreadyPending)
      | .cooldown => (s, .cooldown)
      | .disabled => (s, .disabled)
      | .ready =>
        let x := State.admission admissionFuel s sc src []
        (if x.2.2 then x.1.rescan else x.1, x.2.1) := by
  unfold State.trigger
  exact (if_neg (by rw [house]; decide)).trans (if_neg (by rw [enabled]; decide))

/-- R24: the trigger of a READY scene is its admission, and the rescan that its stops lead to. -/
theorem State.trigger_ready (house : s.engine.house = false) (enabled : (s.store.tables.scene sc).enabled = true)
    (ready : s.engine.scenes[sc].state = .ready) :
    s.trigger sc src =
      (if (State.admission admissionFuel s sc src []).2.2 then (State.admission admissionFuel s sc src []).1.rescan
        else (State.admission admissionFuel s sc src []).1, (State.admission admissionFuel s sc src []).2.1) := by
  rw [State.trigger_live house enabled]
  simp only [ready]

theorem State.trigger_restart {p : Fin 8} (house : s.engine.house = false)
    (enabled : (s.store.tables.scene sc).enabled = true) (running : s.engine.scenes[sc].state = .running)
    (restarts : (s.store.tables.scene sc).retrigger = .restart) (held : s.engine.holder sc = some p) :
    s.trigger sc src = (s.restart sc src p, .restarted) := by
  rw [State.trigger_live house enabled]
  simp only [running, restarts, held]

/-- R28: what is not admissible is offered to the queue. -/
theorem State.admission_offers (refused : s.admissible sc = false) (fuel : Nat) (released : List (Fin 16)) :
    State.admission fuel s sc src released =
      ((s.offer sc src).1.returnGroups released, (s.offer sc src).2, false) := by
  unfold State.admission
  rw [if_neg (by rw [refused]; decide)]

end Trigger

/-! ### TRIGGER as a request -/

section Request

variable {s : State} {n : Byte} {rest : List Request} {sc : Fin 64}

theorem trigger_served : Serves .trigger State.finishLink 0x0B false (exactly 1) State.answerTrigger := fun _ => rfl

theorem sceneOperand?_val (h : n.toNat = sc.val) : sceneOperand? [n] = some sc := index?_val h

theorem sceneOperand?_ge (h : 64 ≤ n.toNat) : sceneOperand? [n] = none := index?_ge h

/-- R36: TRIGGER in SHOW of a scene is answered with the outcome and the scene's state. -/
theorem exec_trigger (next : s.RequestNext 0x0B [n] rest) (own : n.toNat = sc.val) (mode : s.store.mode = .running)
    {t : State} {outcome : TriggerOutcome} (taken : (s.took rest).trigger sc .link = (t, outcome))
    {state : SceneState} (stands : (t.engine.scenes[sc]).state = state) :
    exec .trigger s = .next (t.replied 0x0B ([0] ++ put8 outcome.code ++ put8 state.code)).finishLink := by
  refine trigger_served.own next (.inr (by rw [mode]; decide)) rfl ?_
  unfold State.answerTrigger
  rw [if_neg (show ¬ (s.took rest).store.mode ≠ .running from Classical.not_not.2 mode), sceneOperand?_val own]
  dsimp only
  rw [taken, ← stands]
  rfl

end Request

/-- Settles O20. -/
theorem triggerWithoutAdmissionIsAnswered : Obligations.TriggerWithoutAdmissionIsAnswered := by
  intro s n rest next
  refine ⟨fun other => ?_, fun mode beyond => ?_, fun sc mode own => ⟨fun house => ?_, fun house disabled => ?_,
    fun house enabled => ⟨fun pending => ?_, fun cooling => ?_, fun running ignore => ?_, fun running queue again => ?_,
      fun running queue again => ?_⟩⟩⟩
  · by_cases loading : s.store.mode = .loading
    · exact trigger_served.refused next loading
    · exact trigger_served.own next (.inr loading) rfl (if_pos other)
  · refine trigger_served.own next (.inr (by rw [mode]; decide)) rfl ?_
    unfold State.answerTrigger
    rw [if_neg (show ¬ (s.took rest).store.mode ≠ .running from Classical.not_not.2 mode), sceneOperand?_ge beyond]
    rfl
  · exact exec_trigger next own mode (State.trigger_house (s := s.took rest) house) rfl
  · exact exec_trigger next own mode (State.trigger_disabled (s := s.took rest) house disabled) rfl
  · have taken := State.trigger_live (s := s.took rest) (src := .link) house enabled
    rw [show (s.took rest).engine.scenes[sc].state = .pending from pending] at taken
    exact exec_trigger next own mode taken pending
  · have taken := State.trigger_live (s := s.took rest) (src := .link) house enabled
    rw [show (s.took rest).engine.scenes[sc].state = .cooldown from cooling] at taken
    exact exec_trigger next own mode taken cooling
  · have taken := State.trigger_live (s := s.took rest) (src := .link) house enabled
    rw [show (s.took rest).engine.scenes[sc].state = .running from running,
      show ((s.took rest).store.tables.scene sc).retrigger = .ignore from ignore] at taken
    exact exec_trigger next own mode taken running
  · have taken := State.trigger_live (s := s.took rest) (src := .link) house enabled
    rw [show (s.took rest).engine.scenes[sc].state = .running from running,
      show ((s.took rest).store.tables.scene sc).retrigger = .queue from queue,
      show (s.took rest).engine.scenes[sc].again = true from again] at taken
    exact exec_trigger next own mode taken running
  · have taken := State.trigger_live (s := s.took rest) (src := .link) house enabled
    rw [show (s.took rest).engine.scenes[sc].state = .running from running,
      show ((s.took rest).store.tables.scene sc).retrigger = .queue from queue,
      show (s.took rest).engine.scenes[sc].again = false from again] at taken
    refine exec_trigger next own mode taken (state := .running) ?_
    show ((s.engine.scenes.set sc _)[sc]).state = .running
    rw [Vector.getElem_setFin, if_pos rfl]
    exact running

/-! ### A scene that waits -/

section Offer

variable {s : State} {sc : Fin 64} {src : Source}

/-- R29: an entry goes behind those of an equal or higher priority that precede the first of a lower one. -/
theorem insertEntry_split (e : Entry) (queue : List Entry) :
    ∃ front back : List Entry, queue = front ++ back ∧ insertEntry e queue = front ++ e :: back
      ∧ (∀ y ∈ front, e.priority ≤ y.priority) ∧ (∀ y : Entry, back.head? = some y → y.priority < e.priority) := by
  induction queue with
  | nil => exact ⟨[], [], rfl, rfl, nofun, nofun⟩
  | cons x rest ih =>
    by_cases behind : e.priority ≤ x.priority
    · obtain ⟨front, back, split, inserted, above, below⟩ := ih
      refine ⟨x :: front, back, by rw [split, List.cons_append], ?_, fun y member => ?_, below⟩
      · rw [insertEntry, if_pos behind, inserted, List.cons_append]
      · rcases List.mem_cons.1 member with rfl | member
        · exact behind
        · exact above y member
    · refine ⟨[], x :: rest, rfl, by rw [insertEntry, if_neg behind]; rfl, nofun, ?_⟩
      rintro y ⟨⟩
      exact Nat.not_le.1 behind

theorem State.offer_noWait (impatient : (s.store.tables.scene sc).patience = 0) :
    s.offer sc src = (s.raise (.triggerDropped sc .noWait src), .dropped) := by
  rw [State.offer, if_pos impatient]

theorem State.offer_waits (patient : (s.store.tables.scene sc).patience ≠ 0) (room : s.engine.queue.length < 16) :
    s.offer sc src = (s.enqueue sc src, .pending) := by
  rw [State.offer, if_neg patient, if_pos (show s.engine.queue.length < Config.queueMax from room)]

/-- R30: with 16 entries waiting the last is evicted or the scene is dropped. -/
theorem State.offer_full {last : Entry} {others : List Entry} (patient : (s.store.tables.scene sc).patience ≠ 0)
    (full : 16 ≤ s.engine.queue.length) (queue : s.engine.queue = others ++ [last]) :
    s.offer sc src =
      if last.priority < (s.store.tables.scene sc).priority then
        ((((s.setQueue others).sceneTo last.scene .ready).raise
          (.triggerDropped last.scene .evicted last.source)).enqueue sc src, .pending)
      else (s.raise (.triggerDropped sc .full src), .dropped) := by
  rw [State.offer, if_neg patient, if_neg (show ¬ s.engine.queue.length < Config.queueMax from Nat.not_lt.2 full),
    queue, List.getLast?_append, List.dropLast_concat]
  rfl

theorem State.trigger_offers (house : s.engine.house = false) (enabled : (s.store.tables.scene sc).enabled = true)
    (ready : s.engine.scenes[sc].state = .ready) (refused : s.admissible sc = false) :
    s.trigger sc src = s.offer sc src := by
  rw [State.trigger_ready house enabled ready, State.admission_offers refused, State.returnGroups_nil]
  rfl

theorem State.enqueue_scene (s : State) (sc : Fin 64) (src : Source) :
    ((s.enqueue sc src).engine.scenes[sc]).state = .pending := by
  show ((s.engine.scenes.set sc _)[sc]).state = .pending
  rw [Vector.getElem_setFin, if_pos rfl]

/-- R29: a scene that waits is an entry of the queue, by its priority and arrival. -/
theorem State.enqueue_eq (s : State) (sc : Fin 64) (src : Source) :
    ∃ front back : List Entry, s.engine.queue = front ++ back
      ∧ (∀ y ∈ front, (s.store.tables.scene sc).priority ≤ y.priority)
      ∧ (∀ y : Entry, back.head? = some y → y.priority < (s.store.tables.scene sc).priority)
      ∧ s.enqueue sc src = { s with engine := { s.engine with
          queue := front ++ ⟨sc, (s.store.tables.scene sc).priority, src, s.engine.arrivals,
            (s.store.tables.scene sc).patience, s.frame⟩ :: back
          arrivals := (s.engine.arrivals + 1) % 65536
          scenes := s.engine.scenes.set sc ⟨.pending, 0, false, none⟩ } } := by
  obtain ⟨front, back, split, inserted, above, below⟩ := insertEntry_split
    ⟨sc, (s.store.tables.scene sc).priority, src, s.engine.arrivals, (s.store.tables.scene sc).patience, s.frame⟩
    s.engine.queue
  refine ⟨front, back, split, above, below, ?_⟩
  rw [← inserted]
  rfl

end Offer

/-- Settles O23: the offer of a scene that is not admissible, by its patience and the room in the queue. -/
theorem unadmittedSceneWaitsOrIsDropped : Obligations.UnadmittedSceneWaitsOrIsDropped := by
  intro s n rest sc next own mode house r enabled ready refused x e answered waits
  have offered (src : Source) : (s.took rest).trigger sc src = (s.took rest).offer sc src :=
    State.trigger_offers (s := s.took rest) house enabled ready refused
  refine ⟨fun impatient => ?_, fun patient room => ?_, fun last others patient full queue => ⟨fun lower => ?_, fun kept => ?_⟩⟩
  · exact exec_trigger next own mode ((offered _).trans (State.offer_noWait (s := s.took rest) impatient)) ready
  · obtain ⟨front, back, split, above, below, done⟩ := (s.took rest).enqueue_eq sc .link
    refine ⟨front, back, split, above, below, ?_⟩
    have taken := exec_trigger next own mode ((offered _).trans (State.offer_waits (s := s.took rest) patient room))
      (State.enqueue_scene _ _ _)
    rw [done] at taken
    exact taken
  · have evicts := (offered .link).trans (State.offer_full (s := s.took rest) patient full queue)
    rw [if_pos (show last.priority < ((s.took rest).store.tables.scene sc).priority from lower)] at evicts
    obtain ⟨front, back, split, above, below, done⟩ := State.enqueue_eq
      ((((s.took rest).setQueue others).sceneTo last.scene .ready).raise
        (.triggerDropped last.scene .evicted last.source)) sc .link
    refine ⟨front, back, split, above, below, ?_⟩
    have taken := exec_trigger next own mode evicts (State.enqueue_scene _ _ _)
    rw [done] at taken
    exact taken
  · have drops := (offered .link).trans (State.offer_full (s := s.took rest) patient full queue)
    rw [if_neg (show ¬ last.priority < ((s.took rest).store.tables.scene sc).priority from Nat.not_lt.2 kept)] at drops
    exact exec_trigger next own mode drops ready

/-! ### CANCEL -/

section Cancel

variable {s : State} {sc : Fin 64}

theorem cancel_served : Serves .cancel State.finishLink 0x0C false (exactly 1) State.answerCancel := fun _ => rfl

theorem exec_cancel {n : Byte} {rest : List Request} (next : s.RequestNext 0x0C [n] rest) (own : n.toNat = sc.val)
    (mode : s.store.mode ≠ .loading) {t : State} {result : List Byte} (taken : (s.took rest).cancel sc = (t, result)) :
    exec .cancel s = .next (t.replied 0x0C (0 :: result)).finishLink := by
  refine cancel_served.own next (.inr mode) rfl ?_
  rw [State.answerCancel, sceneOperand?_val own]
  dsimp only
  rw [taken]
  rfl

theorem State.cancel_none (rests : s.engine.scenes[sc].state = .ready ∨ s.engine.scenes[sc].state = .cooldown
    ∨ s.engine.scenes[sc].state = .disabled) : s.cancel sc = (s, cancelNone) := by
  rcases rests with h | h | h <;> simp only [State.cancel, h]

theorem State.cancel_pending {front back : List Entry} {e : Entry} (pending : s.engine.scenes[sc].state = .pending)
    (queue : s.engine.queue = front ++ e :: back) (own : e.scene = sc) (apart : ∀ y ∈ front ++ back, y.scene ≠ sc) :
    s.cancel sc = (s.dropEntry e .cancelled, cancelRemoved) := by
  have found : s.engine.queue.find? (fun e => decide (e.scene = sc)) = some e := by
    have before : front.find? (fun e => decide (e.scene = sc)) = none := by
      rw [List.find?_eq_none]
      intro y member same
      exact apart y (List.mem_append_left _ member) (of_decide_eq_true same)
    rw [queue, List.find?_append, before, List.find?_cons, decide_eq_true own]
    rfl
  simp only [State.cancel, pending]
  rw [found]

theorem filter_other {front back : List Entry} {e : Entry} (apart : ∀ y ∈ front ++ back, y.scene ≠ e.scene) :
    (front ++ e :: back).filter (fun x => decide (x.scene ≠ e.scene)) = front ++ back := by
  have kept (xs : List Entry) (h : ∀ y ∈ xs, y.scene ≠ e.scene) : xs.filter (fun x => decide (x.scene ≠ e.scene)) = xs :=
    List.filter_eq_self.2 fun y member => decide_eq_true (h y member)
  rw [List.filter_append, List.filter_cons_of_neg (by simp), kept front fun y m => apart y (List.mem_append_left _ m),
    kept back fun y m => apart y (List.mem_append_right _ m)]

/-- R31, R37: the one entry of a scene is dropped. -/
theorem State.dropEntry_eq {front back : List Entry} {e : Entry} (queue : s.engine.queue = front ++ e :: back)
    (apart : ∀ y ∈ front ++ back, y.scene ≠ e.scene) (reason : DropReason) :
    s.dropEntry e reason =
      { s with
        link := s.link.raise (.triggerDropped e.scene reason e.source)
        engine := { s.engine with
          queue := front ++ back, scenes := s.engine.scenes.set e.scene ⟨.ready, 0, false, none⟩ } } := by
  unfold State.dropEntry
  rw [queue, filter_other apart]
  rfl

/-- The first number that a test holds for. -/
theorem find?_finRange {n : Nat} {f : Fin n → Bool} {p : Fin n} (holds : f p = true) (first : ∀ q, q < p → f q = false) :
    (List.finRange n).find? f = some p := by
  rw [List.find?_eq_some_iff_getElem]
  refine ⟨holds, p.val, by simp, by simp, fun q before => ?_⟩
  rw [List.getElem_finRange, Bool.not_eq_true']
  exact first ⟨q, Nat.lt_trans before p.isLt⟩ before

/-- R20: the player that holds a scene is the first that runs it. -/
theorem Engine.holder_eq {e : Engine} {p : Fin 8} {r : Run} (held : e.players[p] = some r) (own : r.scene = sc)
    (first : ∀ (q : Fin 8) (y : Run), q < p → e.players[q] = some y → y.scene ≠ sc) : e.holder sc = some p := by
  refine find?_finRange (by rw [held]; simp [own]) fun q before => decide_eq_false fun same => ?_
  obtain ⟨y, running, scene⟩ := Option.map_eq_some_iff.1 same
  exact first q y before running scene

theorem State.cancel_running {p : Fin 8} {r : Run} (running : s.engine.scenes[sc].state = .running)
    (held : s.engine.players[p] = some r) (own : r.scene = sc)
    (first : ∀ (q : Fin 8) (y : Run), q < p → s.engine.players[q] = some y → y.scene ≠ sc) :
    s.cancel sc = (s.stopAndRescan p .cancelled, cancelStopped) := by
  simp only [State.cancel, running]
  rw [Engine.holder_eq held own first]

end Cancel

/-- R65: a player that has stopped has released its claims. -/
theorem State.stopPlayer_claims {s : State} {p : Fin 8} {r : Run} (held : s.engine.players[p] = some r) {reason : StopReason}
    (rests : s.NoAgain r.scene reason) : (s.stopPlayer p reason).engine.claims = s.engine.claims.release p := by
  obtain ⟨light, done, -⟩ := State.stopPlayer_haltWith held rests
  rw [done, State.haltWith_running held]
  rfl

/-- Settles O24: by the state of the scene. -/
theorem cancelRemovesOrStops : Obligations.CancelRemovesOrStops := by
  intro s n rest next
  refine ⟨cancel_served.refused next, fun mode beyond => cancel_served.own next (.inr mode) rfl ?_,
    fun sc mode own => ⟨fun rests => exec_cancel next own mode (State.cancel_none (s := s.took rest) rests),
      fun front back e pending queue scene apart => ?_, fun p r running empty held scene first => ?_⟩⟩
  · rw [State.answerCancel, sceneOperand?_ge beyond]
    rfl
  · have taken := exec_cancel next own mode (State.cancel_pending (s := s.took rest) pending queue scene apart)
    subst scene
    rw [State.dropEntry_eq (s := s.took rest) queue apart] at taken
    exact taken
  · have stops := State.stopPlayer_stops (s := s.took rest) (p := p) held (reason := .cancelled) (.inl rfl)
    have claims := State.stopPlayer_claims (s := s.took rest) (p := p) held (reason := .cancelled) (.inl rfl)
    have still : (s.took rest).stopAndRescan p .cancelled = (s.took rest).stopPlayer p .cancelled := by
      rw [State.stopAndRescan, show (s.took rest).engine.players[p] = some r from held]
      exact State.rescan_empty (stops.queue.trans empty)
    have taken := exec_cancel next own mode (State.cancel_running (s := s.took rest) running held scene first)
    rw [still] at taken
    subst scene
    refine ⟨_, taken, stops, ?_⟩
    obtain ⟨others, link, engine, scenes, gone, -⟩ := stops
    refine ⟨(congrArg State.store others :), (congrArg State.monitor others :),
      (congrArg Engine.queue engine :).trans empty, link, gone, claims, ?_, fun other apart => ?_⟩
    · rw [scenes, Vector.getElem_setFin, if_pos rfl]
      rfl
    · rw [scenes, Vector.getElem_setFin, if_neg (Ne.symm apart)]
      rfl

end Sys2Proof.Machine
end

section
/-! Proofs about the counts of patience and cooldowns (R31, R34). -/

namespace Sys2Proof.Machine

section Counts

variable {s : State} {f : Nat}

/-- R31: the entries that the patience count of show frame f drops. -/
def State.expired (s : State) (f : Nat) : List Entry :=
  if s.store.mode = .running then s.engine.queue.filter (·.expires f) else []

theorem State.countPatience_running (mode : s.store.mode = .running) :
    s.countPatience f =
      (s.dropEntries .patience (s.expired f)).setQueue
        ((s.dropEntries .patience (s.expired f)).engine.queue.map fun e =>
          if e.counts f then { e with patience := e.patience - 1 } else e) := by
  rw [State.countPatience, if_pos mode, State.expired, if_pos mode]
  rfl

theorem State.countPatience_other (mode : s.store.mode ≠ .running) : s.countPatience f = s := if_neg mode

/-- R31: the patience count reaches the queue, the scenes of the entries that it drops, and the reports. -/
theorem State.countPatience_rest :
    { s.countPatience f with link := s.link, engine := s.engine } = s
    ∧ { (s.countPatience f).engine with queue := s.engine.queue, scenes := s.engine.scenes } = s.engine
    ∧ (s.countPatience f).link =
        (s.expired f).foldl (fun l e => l.raise (.triggerDropped e.scene .patience e.source)) s.link
    ∧ ∀ sc : Fin 64, (s.countPatience f).engine.scenes[sc] =
        if ∃ e ∈ s.expired f, e.scene = sc then ⟨.ready, 0, false, none⟩ else s.engine.scenes[sc] := by
  by_cases mode : s.store.mode = .running
  · rw [State.countPatience_running mode]
    refine ⟨?_, s.dropEntries_engine .patience (s.expired f), s.dropEntries_link .patience (s.expired f),
      s.dropEntries_scene .patience (s.expired f)⟩
    exact (congrArg (fun x : State => { x with engine := s.engine }) (s.dropEntries_rest .patience (s.expired f)) :)
  · rw [State.countPatience_other mode, State.expired, if_neg mode]
    exact ⟨rfl, rfl, rfl, fun sc => by simp⟩

theorem State.countCooldowns_scene (s : State) (f : Nat) (sc : Fin 64) :
    (s.countCooldowns f).engine.scenes[sc] =
      if s.store.mode = .loading then s.engine.scenes[sc] else s.engine.scenes[sc].count f := by
  unfold State.countCooldowns
  split
  · rfl
  · show (Vector.ofFn _)[sc] = _
    simp

theorem State.countCooldowns_rest (s : State) (f : Nat) :
    { s.countCooldowns f with engine := { (s.countCooldowns f).engine with scenes := s.engine.scenes } } = s := by
  unfold State.countCooldowns
  split <;> rfl

theorem State.countCooldowns_engine (s : State) (f : Nat) :
    { (s.countCooldowns f).engine with scenes := s.engine.scenes } = s.engine :=
  (congrArg State.engine (s.countCooldowns_rest f) :)

/-- The entry of a scene that alone is in the queue is found when its patience is over. -/
theorem State.expiring_eq {front back : List Entry} {e : Entry} (mode : s.store.mode = .running)
    (queue : s.engine.queue = front ++ e :: back) (apart : ∀ y ∈ front ++ back, y.scene ≠ e.scene)
    (ends : e.expires f = true) : s.expiring e.scene f = some e := by
  have before : front.find? (fun y => decide (y.scene = e.scene) && y.expires f) = none := by
    rw [List.find?_eq_none]
    intro y member same
    exact apart y (List.mem_append_left _ member) (of_decide_eq_true (Bool.and_eq_true_iff.1 same).1)
  rw [State.expiring, if_pos mode, queue, List.find?_append, before, List.find?_cons, decide_eq_true rfl, ends]
  rfl

/-- R34: in SHOW and STANDBY a scene that is not dropped counts its cooldown. -/
theorem SceneRun.count_mode (dropped loading : Prop) [Decidable dropped] [Decidable loading] {x : SceneRun} (f : Nat) :
    (if loading then (if dropped then ⟨.ready, 0, false, none⟩ else x)
      else SceneRun.count (if dropped then ⟨.ready, 0, false, none⟩ else x) f) =
    if dropped then ⟨.ready, 0, false, none⟩
    else if (decide (¬ loading) && x.counts f) = true then
      (if x.cooldown ≤ 1 then ⟨.ready, 0, false, none⟩ else { x with cooldown := x.cooldown - 1 })
    else x := by
  by_cases drop : dropped
  · simp only [drop, if_true]
    split <;> rfl
  · by_cases load : loading <;> simp [drop, load, SceneRun.count]

end Counts

/-- Settles O27. -/
theorem patienceAndCooldownsCount : Obligations.PatienceAndCooldownsCount := by
  intro s f live counts expires cools ready
  refine ⟨fun front back e new mode queue apart ends => ?_, fun sc new mode cooling last => ?_, fun new => ?_, fun taken => ?_⟩
  · have found : s.expiring e.scene f = some e := State.expiring_eq mode queue apart ends
    refine congrArg Host.Outcome.next ((State.frameStep_due _ live (by rw [found]; rfl) new).trans ?_)
    rw [show (s.atFrame f).expiring e.scene f = some e from found]
    dsimp only
    rw [State.dropEntry_eq (s := s.atFrame f) queue apart]
    rfl
  · have ends : s.cooldownEnds sc f = true := by
      rw [State.cooldownEnds, decide_eq_true mode, decide_eq_true last, Bool.true_and, Bool.and_true]
      exact cooling
    exact congrArg Host.Outcome.next (State.frameStep_due _ live ends new)
  · intro queue
    obtain ⟨rest, engine, link, scenes⟩ := (s.atFrame f).countPatience_rest (f := f)
    have cooled := ((s.atFrame f).countPatience f).countCooldowns_rest f
    have cooled_engine := ((s.atFrame f).countPatience f).countCooldowns_engine f
    have cooled_scene := ((s.atFrame f).countPatience f).countCooldowns_scene f
    have gone : (s.atFrame f).expired f = queue.filter expires := by
      show (if s.store.mode = .running then _ else []) = (if s.store.mode = .running then _ else []).filter _
      split <;> rfl
    rw [gone] at link scenes
    refine ⟨(s.atFrame f).countScenes f, congrArg Host.Outcome.next (State.frameStep_due _ live rfl new), ?_, ?_, ?_, rfl,
      ?_, fun mode => ?_, fun mode => ?_, fun sc => ?_⟩
    · exact (congrArg (fun x : State => { x with
        link := s.link, engine := s.engine, frame := s.frame }) cooled).trans
        (congrArg (fun x : State => { x with engine := s.engine, frame := s.frame }) rest)
    · exact (congrArg State.link cooled :).trans link
    · exact (congrArg State.frame cooled :).trans (congrArg State.frame rest :)
    · exact (congrArg (fun x : Engine => { x with
        queue := s.engine.queue, scenes := s.engine.scenes, frame := s.engine.frame }) cooled_engine).trans
        (congrArg (fun x : Engine => { x with scenes := s.engine.scenes, frame := s.engine.frame }) engine)
    · refine (congrArg Engine.queue cooled_engine :).trans ?_
      rw [State.countPatience_other (s := s.atFrame f) mode]
      rfl
    · refine (congrArg Engine.queue cooled_engine :).trans ?_
      rw [State.countPatience_running (s := s.atFrame f) mode, gone]
      show (((s.atFrame f).dropEntries .patience (queue.filter expires)).engine.queue.map _) = _
      rw [State.dropEntries_queue]
      simp only [List.any_filter]
      rfl
    · have member : (∃ e ∈ queue.filter expires, e.scene = sc) ↔
          (queue.any fun y => expires y && decide (y.scene = sc)) = true := by
        simp [List.any_eq_true, and_assoc]
      have store : ((s.atFrame f).countPatience f).store = s.store := (congrArg State.store rest :)
      refine (cooled_scene sc).trans ?_
      rw [store, scenes sc]
      simp only [member]
      exact SceneRun.count_mode _ _ f
  · exact congrArg Host.Outcome.next (State.frameStep_idle _ (.inr (.inr taken)))

end Sys2Proof.Machine
end

section
/-! Proofs about the start of a scene that stops nobody (R25 to R27, R70), restarts (R24, R73), direct control (R74 to R76)
and rescans (R32). -/

namespace Sys2Proof.Machine

/-! ### A scene that can start -/

section Startable

variable {s : State} {sc : Fin 64} {p : Fin 8} {voice : Option (Fin 4)}

/-- R40: the lowest-numbered FREE player. -/
theorem Engine.firstFree_eq {e : Engine} (free : e.players[p] = none)
    (first : ∀ q : Fin 8, q < p → (e.players[q]).isSome = true) : e.firstFree = some p :=
  find?_finRange (by rw [free]; rfl) fun q before => by
    rw [Option.isNone_eq_false_iff]
    exact first q before

/-- R26: the lowest-numbered unowned IDLE voice is chosen. -/
theorem State.chooseVoice_idle {v : Fin 4} (free : s.engine.claims.voices[v] = none ∧ (s.sound.voices[v]).state = .idle)
    (first : ∀ w : Fin 4, w < v → ¬ (s.engine.claims.voices[w] = none ∧ (s.sound.voices[w]).state = .idle)) (pr : Nat) :
    s.chooseVoice pr = some v := by
  have found : (List.finRange 4).find? (fun (v : Fin 4) =>
      decide (s.engine.claims.voices[v] = none) && decide (s.sound.voices[v].state = .idle)) = some v :=
    find?_finRange (by rw [decide_eq_true free.1, decide_eq_true free.2]; rfl) fun w before => by
      rw [Bool.eq_false_iff]
      intro both
      obtain ⟨unowned, idle⟩ := Bool.and_eq_true_iff.1 both
      exact first w before ⟨of_decide_eq_true unowned, of_decide_eq_true idle⟩
  unfold State.chooseVoice
  dsimp only
  rw [found]

/-- R26: the voice with which a scene that can start does start. -/
theorem State.Startable.chosenVoice (h : s.Startable sc p voice) :
    (if (s.store.tables.scene sc).narration then s.chooseVoice (s.store.tables.scene sc).priority else none) = voice := by
  obtain ⟨-, -, -, -, ⟨silent, rfl⟩ | ⟨v, speaks, rfl, free, first⟩, -⟩ := h
  · rw [if_neg (by rw [silent]; decide)]
  · rw [if_pos speaks, State.chooseVoice_idle free first]

theorem State.Startable.admissible (h : s.Startable sc p voice) : s.admissible sc = true := by
  have chosen := h.chosenVoice
  obtain ⟨free, -, groups, axes, speaks, -⟩ := h
  have player : (List.finRange 8).any (fun (p : Fin 8) => s.engine.below (s.store.tables.scene sc).priority p) = true :=
    List.any_eq_true.2 ⟨p, List.mem_finRange p, by rw [Engine.below, free]⟩
  have lights : (List.finRange 16).all (fun (g : Fin 16) =>
      !(s.store.tables.scene sc).groupMask.getLsbD g || s.engine.groupFree (s.store.tables.scene sc).priority g) = true := by
    refine List.all_eq_true.2 fun g _ => ?_
    cases needed : (s.store.tables.scene sc).groupMask.getLsbD g with
    | false => rfl
    | true => rw [Engine.groupFree, groups g needed]; rfl
  have moves : (List.finRange 8).all (fun (a : Fin 8) =>
      !(s.store.tables.scene sc).axisMask.getLsbD a || s.engine.axisFree (s.store.tables.scene sc).priority a) = true := by
    refine List.all_eq_true.2 fun a _ => ?_
    cases needed : (s.store.tables.scene sc).axisMask.getLsbD a with
    | false => rfl
    | true => rw [Engine.axisFree, axes a needed]; rfl
  have spoken : (!(s.store.tables.scene sc).narration
      || (s.chooseVoice (s.store.tables.scene sc).priority).isSome) = true := by
    rcases speaks with ⟨silent, -⟩ | ⟨v, narrates, rfl, -⟩
    · rw [silent]; rfl
    · rw [if_pos narrates] at chosen
      rw [chosen, Option.isSome_some, Bool.or_true]
  unfold State.admissible
  dsimp only
  rw [player, lights, moves, spoken]
  rfl

/-- R70: nobody owns what a scene that can start needs. -/
theorem State.Startable.ownsNeeded (h : s.Startable sc p voice) (q : Fin 8) :
    s.engine.ownsNeeded (s.store.tables.scene sc) voice q = false := by
  obtain ⟨-, -, groups, axes, speaks, -⟩ := h
  have lights : (List.finRange 16).any (fun (g : Fin 16) =>
      (s.store.tables.scene sc).groupMask.getLsbD g && decide (s.engine.claims.groups[g] = .player q)) = false := by
    refine List.any_eq_false.2 fun g _ both => ?_
    obtain ⟨needed, owned⟩ := Bool.and_eq_true_iff.1 both
    rw [groups g needed] at owned
    cases of_decide_eq_true owned
  have moves : (List.finRange 8).any (fun (a : Fin 8) =>
      (s.store.tables.scene sc).axisMask.getLsbD a && decide (s.engine.claims.axes[a] = some q)) = false := by
    refine List.any_eq_false.2 fun a _ both => ?_
    obtain ⟨needed, owned⟩ := Bool.and_eq_true_iff.1 both
    rw [axes a needed] at owned
    cases of_decide_eq_true owned
  unfold Engine.ownsNeeded
  rw [lights, moves]
  rcases speaks with ⟨-, rfl⟩ | ⟨v, -, rfl, free, -⟩
  · rfl
  · dsimp only
    rw [free.1]
    rfl

theorem State.Startable.firstFree (h : s.Startable sc p voice) : s.engine.firstFree = some p :=
  Engine.firstFree_eq h.1 h.2.1

theorem State.Startable.preempted (h : s.Startable sc p voice) : s.preempted sc voice = [] := by
  have owners : (List.finRange 8).filter (fun (p : Fin 8) =>
      s.engine.players[p].isSome && s.engine.ownsNeeded (s.store.tables.scene sc) voice p) = [] := by
    rw [List.filter_eq_nil_iff]
    intro q _
    rw [h.ownsNeeded q, Bool.and_false]
    exact Bool.false_ne_true
  unfold State.preempted
  dsimp only
  rw [owners, h.firstFree]
  rfl

/-- R27, R70: a scene that can start does so, and nobody stops. -/
theorem State.Startable.start (h : s.Startable sc p voice) (src : Source) :
    s.start sc src = (s.startOn sc src voice p, ⟨[], []⟩) := by
  have calm : (s.engine.estop && decide ((s.store.tables.scene sc).axisMask ≠ 0)) = false := by
    obtain ⟨-, -, -, -, -, released | still⟩ := h
    · rw [released, Bool.false_and]
    · rw [still]
      exact Bool.and_false _
  unfold State.start
  dsimp only
  rw [h.chosenVoice, h.preempted, List.foldl_nil, h.firstFree]
  dsimp only
  rw [show (s.startOn sc src voice p).engine.estop = s.engine.estop from rfl, if_neg (by rw [calm]; decide)]

theorem State.Startable.admission (h : s.Startable sc p voice) (src : Source) (fuel : Nat) (released : List (Fin 16)) :
    State.admission fuel s sc src released = ((s.startOn sc src voice p).returnGroups released, .started, false) := by
  unfold State.admission
  rw [if_pos h.admissible, h.start]
  dsimp only
  cases fuel <;> rw [List.append_nil] <;> rfl

/-- R27, R41, R64: what the start of a scene leaves. -/
theorem State.startOn_starts (s : State) (sc : Fin 64) (src : Source) (p : Fin 8) (voice : Option (Fin 4)) :
    s.Starts (s.startOn sc src voice p) sc src p voice s.engine.queue :=
  ⟨rfl, rfl, rfl, rfl, rfl, rfl, fun _ => Claims.claim_group .., fun _ => Claims.claim_axis ..,
    fun _ => Claims.claim_voice ..⟩

theorem State.startOn_scene (s : State) (sc : Fin 64) (src : Source) (p : Fin 8) (voice : Option (Fin 4)) :
    ((s.startOn sc src voice p).engine.scenes[sc]).state = .running := by
  show ((s.engine.scenes.set sc _)[sc]).state = _
  rw [Vector.getElem_setFin, if_pos rfl]

end Startable

/-! ### Returns to attract of owned groups -/

section Returns

variable {s : State} {released : List (Fin 16)}

/-- R78: groups that are owned do not return to attract. -/
theorem State.returnGroups_owned (owned : ∀ g ∈ released, s.engine.claims.groups[g] ≠ .none) :
    s.returnGroups released = s := by
  obtain ⟨rest, channels⟩ := s.returnGroups_rest released
  have returns := (s.returnGroups_returns released).2
  have same : (s.returnGroups released).light.channels = s.light.channels := by
    ext1 c hc
    exact (returns ⟨c, hc⟩).2 fun ⟨_, _, inside, free⟩ => owned _ inside free
  have light : (s.returnGroups released).light = s.light :=
    (congrArg (fun cs => ({ (s.returnGroups released).light with channels := cs } : Lighting)) same).trans channels
  have whole := State.eq_withLight rest
  rw [light] at whole
  exact whole

end Returns

end Sys2Proof.Machine
end

section
/-! Proofs about triggers that start a scene (R24 to R27, R73), direct control (R74 to R76) and rescans (R32). -/

namespace Sys2Proof.Machine

/-! ### Rescans -/

section Rescan

variable {s : State}

/-- R25: a scene that a group in direct control keeps out is not admissible. -/
theorem State.ShutOut.refused {sc : Fin 64} (out : s.ShutOut sc) : s.admissible sc = false := by
  obtain ⟨g, needed, direct⟩ := out
  have lights : (List.finRange 16).all (fun (g : Fin 16) =>
      !(s.store.tables.scene sc).groupMask.getLsbD g || s.engine.groupFree (s.store.tables.scene sc).priority g) = false := by
    rw [List.all_eq_false]
    refine ⟨g, List.mem_finRange g, ?_⟩
    rw [needed, Engine.groupFree, direct]
    exact Bool.false_ne_true
  unfold State.admissible
  dsimp only
  rw [lights, Bool.and_false, Bool.false_and, Bool.false_and]

/-- R32: a pass goes past entries that are kept out. -/
theorem State.rescanFrom_skip {front entries : List Entry} (back : List Entry) (queue : s.engine.queue = front ++ entries ++ back)
    (out : ∀ y ∈ entries, s.ShutOut y.scene) (n : Nat) (any : Bool) :
    State.rescanFrom (entries.length + n) s front.length any =
      State.rescanFrom n s (front.length + entries.length) any := by
  induction entries generalizing front with
  | nil => rw [List.length_nil, Nat.zero_add, Nat.add_zero]
  | cons e entries ih =>
    have here : s.engine.queue[front.length]? = some e := by
      rw [queue, List.append_assoc, List.getElem?_append_right (Nat.le_refl _), Nat.sub_self]
      rfl
    have next := ih (front := front ++ [e]) (by rw [queue]; simp) fun y member => out y (List.mem_cons_of_mem _ member)
    rw [List.length_append, List.length_singleton] at next
    rw [List.length_cons, show entries.length + 1 + n = (entries.length + n) + 1 by omega, State.rescanFrom, here]
    dsimp only
    rw [if_neg (by rw [(out e List.mem_cons_self).refused]; decide), next]
    congr 1
    omega

/-- R32: a pass that comes to the end of the queue is the last, unless it has started an entry. -/
theorem State.rescanFrom_end (n : Nat) (any : Bool) :
    State.rescanFrom (n + 1) s s.engine.queue.length any = if any then State.rescanFrom n s 0 false else s := by
  rw [State.rescanFrom, List.getElem?_eq_none (Nat.le_refl _)]

/-- R32: a rescan of a queue that is kept out whole starts nothing. -/
theorem State.rescanFrom_out (out : ∀ y ∈ s.engine.queue, s.ShutOut y.scene) (n : Nat) :
    State.rescanFrom (s.engine.queue.length + (n + 1)) s 0 false = s := by
  have skipped := State.rescanFrom_skip (front := []) [] (by simp) out (n + 1) false
  rw [List.length_nil, Nat.zero_add] at skipped
  rw [skipped, State.rescanFrom_end]
  rfl

theorem State.rescan_out (out : ∀ y ∈ s.engine.queue, s.ShutOut y.scene) (short : s.engine.queue.length < 1024) :
    s.rescan = s := by
  unfold State.rescan
  split
  · have whole := State.rescanFrom_out out (1023 - s.engine.queue.length)
    rwa [show s.engine.queue.length + (1023 - s.engine.queue.length + 1) = rescanFuel by
      show _ = 1024
      omega] at whole
  · rfl

end Rescan

/-! ### Restarts -/

theorem State.Halted.estop {s u : State} {ps : List (Fin 8)} {reason : StopReason} {scene : Fin 64 → SceneRun}
    (h : s.Halted u ps reason scene) : u.engine.estop = s.engine.estop := (congrArg Engine.estop h.engine :)

section Restart

variable {s : State} {p q : Fin 8} {r : Run} {voice : Option (Fin 4)} {src : Source}

/-- R24, R73: player `p` is stopped, and its scene is READY. -/
def State.restarting (s : State) (p : Fin 8) (r : Run) (reason : StopReason) : State :=
  (s.halt p reason).sceneTo r.scene .ready

theorem State.restarting_eq (held : s.engine.players[p] = some r) (reason : StopReason) :
    s.restarting p r reason = s.haltWith (fun _ => ⟨.ready, 0, false, none⟩) reason p := by
  rw [State.restarting, State.halt_eq held, State.haltWith_running held]
  unfold State.sceneTo State.setScene State.raise
  simp only [Vector.set_set]

/-- R73: what the stop leaves before the scene is admitted again, field by field. -/
theorem State.restarting_halted (held : s.engine.players[p] = some r) (reason : StopReason) :
    s.Halted (s.restarting p r reason) [p] reason fun _ => ⟨.ready, 0, false, none⟩ := by
  rw [State.restarting_eq held reason]
  exact (State.Halted.nil (s := s)).step List.not_mem_nil

theorem State.anyRunning_single (held : s.engine.players[p] = some r) (owner : Fin 8 → Bool) :
    s.anyRunning [p] owner = owner p := by
  rw [State.anyRunning, List.any_cons, List.any_nil, held, Option.isSome_some, Bool.true_and, Bool.or_false]

theorem Voice.fadeOut_idle {v : Voice} : v.fadeOut.state = .idle ↔ v.state = .idle := by
  unfold Voice.fadeOut
  split <;> simp_all

/-- R73: a scene that can be admitted again can start once its player has stopped. -/
theorem State.Readmissible.startable (held : s.engine.players[p] = some r) (h : s.Readmissible p r q voice)
    (reason : StopReason) :
    (s.restarting p r reason).Startable r.scene q voice := by
  obtain ⟨-, free, first, groups, axes, speaks, calm⟩ := h
  have halted := State.restarting_halted held reason
  have store := halted.store
  refine ⟨?_, fun k before => ?_, fun g needed => ?_, fun a needed => ?_, ?_, ?_⟩
  · by_cases same : q = p
    · rw [same]
      exact halted.gone p (List.mem_singleton.2 rfl)
    · obtain ⟨order, kept⟩ := halted.others q fun inside => same (List.mem_singleton.1 inside)
      rw [kept, free.resolve_right same]
      rfl
  · obtain ⟨apart, runs⟩ := first k before
    obtain ⟨order, kept⟩ := halted.others k fun inside => apart (List.mem_singleton.1 inside)
    rw [kept, Option.isSome_map]
    exact runs
  · rw [store] at needed
    rw [halted.groups g, State.anyRunning_single held, if_pos (decide_eq_true ((groups g).2 needed))]
  · rw [store] at needed
    rw [halted.axes a, State.anyRunning_single held, if_pos (decide_eq_true ((axes a).2 needed))]
  · have voices (v : Fin 4) :
        ((s.restarting p r reason).engine.claims.voices[v] = none ∧ ((s.restarting p r reason).sound.voices[v]).state = .idle) ↔
          (s.engine.claims.voices[v] = none ∨ s.engine.claims.voices[v] = some p)
            ∧ (s.sound.voices[v]).state = .idle := by
      rw [halted.voices v, halted.faded v, State.anyRunning_single held]
      by_cases owned : s.engine.claims.voices[v] = some p
      · rw [decide_eq_true owned, if_pos rfl, if_pos rfl, Voice.fadeOut_idle]
        exact and_congr_left' (iff_of_true rfl (.inr owned))
      · rw [decide_eq_false owned, if_neg Bool.false_ne_true, if_neg Bool.false_ne_true, or_iff_left owned]
    rw [store]
    dsimp only
    simp only [voices]
    exact speaks
  · rw [store, halted.estop]
    exact calm

/-- R40: a player that has stopped no longer runs. -/
theorem State.restarting_running (held : s.engine.players[p] = some r) (reason : StopReason) :
    (s.restarting p r reason).engine.running + 1 = s.engine.running := by
  have halted := State.restarting_halted held reason
  refine (filter_length_succ p _ _ ?_ ?_ fun k apart => ?_).symm
  · rw [halted.gone p (List.mem_singleton.2 rfl)]
    rfl
  · rw [held]
    rfl
  · obtain ⟨order, kept⟩ := halted.others k fun inside => apart (List.mem_singleton.1 inside)
    rw [kept, Option.isSome_map]

/-- R73: what the stop leaves when the scene starts again. -/
theorem State.restarting_restarts (held : s.engine.players[p] = some r) (h : s.Readmissible p r q voice)
    (reason : StopReason) (src : Source) :
    s.Restarts ((s.restarting p r reason).startOn r.scene src voice q) p r reason src q voice := by
  have order := State.restarting_running held reason
  obtain ⟨-, -, -, groups, axes, -, -⟩ := h
  rw [State.restarting_eq held reason, State.haltWith_running held] at order ⊢
  refine ⟨rfl, rfl, rfl, ?_, ?_, fun apart => ?_, fun k other fresh => ?_, fun g => ?_, fun a => ?_, fun v => ?_, rfl,
    fun v => ?_, rfl, fun a => ?_⟩
  · exact Vector.set_set ..
  · show ((lowerOrders s.engine.players p r.order).set q _)[q] = _
    rw [Vector.getElem_setFin, if_pos rfl, order]
    rfl
  · show ((lowerOrders s.engine.players p r.order).set q _)[p] = _
    rw [Vector.getElem_setFin, if_neg (Ne.symm apart), lowerOrders_get, if_pos rfl]
  · show ((lowerOrders s.engine.players p r.order).set q _)[k] = _
    rw [Vector.getElem_setFin, if_neg (Ne.symm fresh), lowerOrders_get, if_neg other]
  · refine (Claims.claim_group ..).trans ?_
    show (if (s.store.tables.scene r.scene).groupMask.getLsbD g = true then _ else (s.engine.claims.release p).groups[g]) = _
    by_cases needed : (s.store.tables.scene r.scene).groupMask.getLsbD g = true
    · rw [if_pos needed, if_pos needed]
    · rw [if_neg needed, if_neg needed, Claims.release_group, if_neg (mt (groups g).1 needed)]
  · refine (Claims.claim_axis ..).trans ?_
    show (if (s.store.tables.scene r.scene).axisMask.getLsbD a = true then _ else (s.engine.claims.release p).axes[a]) = _
    by_cases needed : (s.store.tables.scene r.scene).axisMask.getLsbD a = true
    · rw [if_pos needed, if_pos needed]
    · rw [if_neg needed, if_neg needed, Claims.release_axis, if_neg (mt (axes a).1 needed)]
  · refine (Claims.claim_voice ..).trans ?_
    show (if _ then _ else (s.engine.claims.release p).voices[v]) = _
    rw [Claims.release_voice]
  · show (Vector.ofFn _)[v] = _
    simp
  · show (Vector.ofFn _)[a] = _
    simp

/-- R73: the groups of a stopped player pass on to the player on which its scene starts again. -/
theorem State.startOn_keepsGroups (held : s.engine.players[p] = some r) (h : s.Readmissible p r q voice)
    (reason : StopReason) (src : Source) :
    ∀ g ∈ s.engine.groupsOf p,
      ((s.restarting p r reason).startOn r.scene src voice q).engine.claims.groups[g] ≠ .none := by
  intro g owned
  have needed := (h.2.2.2.1 g).1 (Engine.mem_groupsOf.1 owned)
  have claim : ((s.restarting p r reason).startOn r.scene src voice q).engine.claims.groups[g] = _ := Claims.claim_group ..
  rw [claim, if_pos]
  · nofun
  · rw [(State.restarting_halted held reason).store]
    exact needed

/-- R73: a scene that starts again leaves nothing waiting. -/
theorem State.startOn_rescan (held : s.engine.players[p] = some r) (h : s.Readmissible p r q voice) (reason : StopReason)
    (src : Source) :
    ((s.restarting p r reason).startOn r.scene src voice q).rescan = (s.restarting p r reason).startOn r.scene src voice q :=
  State.rescan_empty (show (s.restarting p r reason).engine.queue = [] from
    (State.restarting_halted held reason).queue.trans h.1)

/-- R24, R73: a restart whose scene can start again. -/
theorem State.restart_starts (held : s.engine.players[p] = some r) (h : s.Readmissible p r q voice) (src : Source) :
    s.restart r.scene src p = (s.restarting p r .restarted).startOn r.scene src voice q := by
  have admitted := (h.startable held .restarted).admission src admissionFuel (s.engine.groupsOf p)
  rw [State.returnGroups_owned (State.startOn_keepsGroups held h .restarted src)] at admitted
  unfold State.restart
  dsimp only
  rw [show (s.halt p .restarted).sceneTo r.scene .ready = s.restarting p r .restarted from rfl, admitted]
  exact State.startOn_rescan held h ..

/-- R35: the stop of a player whose scene has its again flag set, by what the AGAIN trigger comes to. -/
theorem State.stopPlayer_again (held : s.engine.players[p] = some r) {reason : StopReason}
    (again : (s.engine.scenes[r.scene]).again = true) (keeps : reason.dropsAgain = false)
    (house : s.engine.house = false) {t : State} {outcome : TriggerOutcome} {stopped : Bool}
    (admitted : State.admission admissionFuel (s.restarting p r reason) r.scene .again [] = (t, outcome, stopped)) :
    s.stopPlayer p reason =
      (if outcome = .started ∨ outcome = .pending then t else t.sceneRests r.scene).returnGroups
        (s.engine.groupsOf p) := by
  have flag : ((s.halt p reason).engine.scenes[r.scene]).again = true := by
    rw [State.halt_eq held]
    show ((s.engine.scenes.set r.scene _)[r.scene]).again = true
    rw [Vector.getElem_setFin, if_pos rfl]
    exact again
  have released : (s.halt p reason).engine.house = false := by
    rw [State.halt_eq held]
    exact house
  unfold State.stopPlayer State.sceneEnds State.endScene
  rw [held]
  dsimp only
  rw [flag, keeps, released, if_pos (by rfl),
    show (s.halt p reason).sceneTo r.scene .ready = s.restarting p r reason from rfl, admitted]
  cases outcome <;> rfl

/-- R35, R73: the stop of a player whose scene is triggered again and can start. -/
theorem State.stopAndRescan_starts (held : s.engine.players[p] = some r) (h : s.Readmissible p r q voice)
    {reason : StopReason} (again : (s.engine.scenes[r.scene]).again = true) (keeps : reason.dropsAgain = false)
    (house : s.engine.house = false) :
    s.stopAndRescan p reason = (s.restarting p r reason).startOn r.scene .again voice q := by
  have admitted := (h.startable held reason).admission .again admissionFuel []
  rw [State.returnGroups_nil] at admitted
  unfold State.stopAndRescan
  rw [held]
  dsimp only
  rw [State.stopPlayer_again held again keeps house admitted, if_pos (.inl rfl),
    State.returnGroups_owned (State.startOn_keepsGroups held h reason .again)]
  exact State.startOn_rescan held h ..

/-! ### Scenes that are kept out when they are triggered again -/

/-- R78: what the groups that return do to the lighting is told by the tables, the claims and the lighting. -/
theorem State.returnGroups_light {t : State} (store : t.store = s.store) (claims : t.engine.claims = s.engine.claims)
    (light : t.light = s.light) (released : List (Fin 16)) :
    (t.returnGroups released).light = (s.returnGroups released).light := by
  unfold State.returnGroups
  rw [store, claims, light]
  split
  · rfl
  · exact light

theorem State.ShutOut.congr {t : State} {sc : Fin 64} (out : s.ShutOut sc) (store : t.store = s.store)
    (direct : ∀ g : Fin 16, s.engine.claims.groups[g] = .direct → t.engine.claims.groups[g] = .direct) : t.ShutOut sc := by
  obtain ⟨g, needed, held⟩ := out
  exact ⟨g, by rwa [store], direct g held⟩

theorem State.restarting_shutOut (held : s.engine.players[p] = some r) {sc : Fin 64} (out : s.ShutOut sc)
    (reason : StopReason) : (s.restarting p r reason).ShutOut sc := by
  have halted := State.restarting_halted held reason
  refine out.congr halted.store fun g direct => ?_
  rw [halted.groups g, State.anyRunning_single held, direct, if_neg]
  rw [decide_eq_false nofun]
  exact Bool.false_ne_true

/-- R34, R57, R78: player `p` has stopped, its scene rests and its groups have returned. -/
def State.restartStopped (s : State) (p : Fin 8) (r : Run) (reason : StopReason) : State :=
  ((s.halt p reason).setScene r.scene (s.restOf r.scene)).returnGroups (s.engine.groupsOf p)

/-- R28, R29, R35: the part once the scene of the stopped player has been offered to the queue as `t` with `outcome`. -/
def State.keptOut (s : State) (p : Fin 8) (r : Run) (reason : StopReason) (t : State) (outcome : TriggerOutcome) : State :=
  let lit : State := { t with light := (s.restartStopped p r reason).light }
  State.rescan (if outcome = .dropped then lit.sceneRests r.scene else lit)

/-- R28, R29: the scene is offered to the queue, which touches neither the store, nor the claims, nor the lighting. -/
structure State.Offers (s : State) (p : Fin 8) (r : Run) (reason : StopReason) (src : Source) (t : State)
    (outcome : TriggerOutcome) : Prop where
  offered : (s.restarting p r reason).offer r.scene src = (t, outcome)
  store : t.store = s.store
  claims : t.engine.claims = (s.halt p reason).engine.claims
  light : t.light = (s.halt p reason).light

theorem State.Offers.returned {reason : StopReason} {t : State} {outcome : TriggerOutcome} (held : s.engine.players[p] = some r)
    (o : s.Offers p r reason src t outcome) :
    (t.returnGroups (s.engine.groupsOf p)).light = (s.restartStopped p r reason).light :=
  State.returnGroups_light (s := (s.halt p reason).setScene r.scene (s.restOf r.scene))
    (o.store.trans (State.restarting_halted held reason).store.symm) o.claims o.light _

/-- R24, R73: a restart of a scene that is kept out offers it to the queue. -/
theorem State.restart_offers (held : s.engine.players[p] = some r) (out : s.ShutOut r.scene)
    {t : State} {outcome : TriggerOutcome} (o : s.Offers p r .restarted src t outcome) :
    s.restart r.scene src p = s.keptOut p r .restarted t outcome := by
  have refused := (State.restarting_shutOut held out .restarted).refused
  unfold State.restart State.keptOut
  dsimp only
  rw [show (s.halt p .restarted).sceneTo r.scene .ready = s.restarting p r .restarted from rfl,
    State.admission_offers refused, o.offered, State.eq_withLight (State.returnGroups_rest t (s.engine.groupsOf p)).1,
    o.returned held]
  cases outcome <;> rfl

/-- R35: a scene that is triggered again and kept out is offered to the queue. -/
theorem State.stopAndRescan_offers (held : s.engine.players[p] = some r) (out : s.ShutOut r.scene) {reason : StopReason}
    (again : (s.engine.scenes[r.scene]).again = true) (keeps : reason.dropsAgain = false)
    (house : s.engine.house = false) {t : State} {outcome : TriggerOutcome}
    (o : s.Offers p r reason .again t outcome) (ends : outcome = .dropped ∨ outcome = .pending) :
    s.stopAndRescan p reason = s.keptOut p r reason t outcome := by
  have refused := (State.restarting_shutOut held out reason).refused
  have admitted := State.admission_offers (src := .again) refused admissionFuel []
  rw [o.offered, State.returnGroups_nil] at admitted
  have returned := o.returned held
  have rests : ((t.sceneRests r.scene).returnGroups (s.engine.groupsOf p)).light =
      (t.returnGroups (s.engine.groupsOf p)).light := by
    rw [State.sceneRests_eq]
    exact State.returnGroups_light (s := t) (t := t.setScene r.scene (t.restOf r.scene)) rfl rfl rfl _
  unfold State.stopAndRescan State.keptOut
  rw [held]
  dsimp only
  rw [State.stopPlayer_again held again keeps house admitted]
  rcases ends with rfl | rfl
  · rw [if_neg (show ¬ (TriggerOutcome.dropped = .started ∨ TriggerOutcome.dropped = .pending) by decide), if_pos rfl,
      State.eq_withLight (State.returnGroups_rest (t.sceneRests r.scene) (s.engine.groupsOf p)).1, rests, returned,
      State.sceneRests_eq, State.sceneRests_eq]
    rfl
  · rw [if_pos (.inr rfl), if_neg (by decide),
      State.eq_withLight (State.returnGroups_rest t (s.engine.groupsOf p)).1, returned]

theorem State.restartStopped_eq (s : State) (p : Fin 8) (r : Run) (reason : StopReason) :
    s.restartStopped p r reason =
      { (s.halt p reason).setScene r.scene (s.restOf r.scene) with light := (s.restartStopped p r reason).light } :=
  State.eq_withLight (State.returnGroups_rest _ _).1

/-- R28: with patience 0 the scene is dropped. -/
theorem State.offers_dropped (held : s.engine.players[p] = some r) (reason : StopReason)
    (impatient : (s.store.tables.scene r.scene).patience = 0) :
    s.Offers p r reason src ((s.restarting p r reason).raise (.triggerDropped r.scene .noWait src)) .dropped :=
  have halted := State.restarting_halted held reason
  ⟨State.offer_noWait (by rw [halted.store]; exact impatient), halted.store, rfl, rfl⟩

/-- R28: kept out and with patience 0, the scene is dropped, and rests. -/
theorem State.keptOut_dropped (held : s.engine.players[p] = some r) (reason : StopReason) (empty : s.engine.queue = []) :
    s.keptOut p r reason ((s.restarting p r reason).raise (.triggerDropped r.scene .noWait src)) .dropped =
      { s.restartStopped p r reason with
        link := (s.restartStopped p r reason).link.raise (.triggerDropped r.scene .noWait src) } := by
  have halted := State.restarting_halted held reason
  unfold State.keptOut
  dsimp only
  rw [if_pos rfl, State.rescan_empty, State.sceneRests_eq, State.restartStopped_eq]
  · show State.setScene { State.raise _ _ with light := _ } _ _ = _
    unfold State.restarting State.sceneTo State.setScene State.raise
    simp only [Vector.set_set]
    rw [State.restOf_congr (s := s) (by exact halted.store) (by exact halted.frame)]
  · rw [State.sceneRests_eq]
    exact halted.queue.trans empty

theorem State.enqueue_empty {t : State} (empty : t.engine.queue = []) (sc : Fin 64) (src : Source) :
    t.enqueue sc src = { t with engine := { t.engine with
      queue := [⟨sc, (t.store.tables.scene sc).priority, src, t.engine.arrivals, (t.store.tables.scene sc).patience, t.frame⟩]
      arrivals := (t.engine.arrivals + 1) % 65536
      scenes := t.engine.scenes.set sc ⟨.pending, 0, false, none⟩ } } := by
  unfold State.enqueue
  rw [empty]
  rfl

/-- R29: with a patience the scene waits. -/
theorem State.offers_pending (held : s.engine.players[p] = some r) (reason : StopReason) (empty : s.engine.queue = [])
    (patient : (s.store.tables.scene r.scene).patience ≠ 0) :
    s.Offers p r reason src ((s.restarting p r reason).enqueue r.scene src) .pending := by
  have halted := State.restarting_halted held reason
  have offered := State.offer_waits (src := src)
    (show ((s.restarting p r reason).store.tables.scene r.scene).patience ≠ 0 by
      rw [halted.store]
      exact patient) (by rw [halted.queue, empty]; decide)
  refine ⟨offered, ?_, ?_, ?_⟩ <;> rw [State.enqueue_empty (halted.queue.trans empty)]
  · exact halted.store
  · rfl
  · rfl

/-- R29: kept out and with a patience, the scene is the one entry of the queue. -/
theorem State.keptOut_pending (held : s.engine.players[p] = some r) (reason : StopReason) (empty : s.engine.queue = [])
    (out : s.ShutOut r.scene) :
    s.keptOut p r reason ((s.restarting p r reason).enqueue r.scene src) .pending =
      { s.restartStopped p r reason with engine := { (s.restartStopped p r reason).engine with
          queue := [⟨r.scene, (s.store.tables.scene r.scene).priority, src, s.engine.arrivals,
            (s.store.tables.scene r.scene).patience, s.frame⟩]
          arrivals := (s.engine.arrivals + 1) % 65536
          scenes := (s.restartStopped p r reason).engine.scenes.set r.scene ⟨.pending, 0, false, none⟩ } } := by
  have halted := State.restarting_halted held reason
  unfold State.keptOut
  dsimp only
  rw [State.enqueue_empty (halted.queue.trans empty), if_neg (by decide), State.rescan_out, State.restartStopped_eq]
  · unfold State.restarting State.sceneTo State.setScene
    simp only [Vector.set_set]
    rw [show (s.halt p reason).store = s.store from halted.store,
      show (s.halt p reason).frame = s.frame from halted.frame,
      show (s.halt p reason).engine.arrivals = s.engine.arrivals from (congrArg Engine.arrivals halted.engine :)]
  · intro y waits
    rw [List.mem_singleton.1 waits]
    exact (State.restarting_shutOut held out reason).congr rfl fun g direct => direct
  · show 1 < 1024
    decide

end Restart

theorem SceneRun.restOf_code (s : State) (sc : Fin 64) :
    (s.restOf sc).state = if (s.store.tables.scene sc).cooldown = 0 then .ready else .cooldown := by
  unfold State.restOf
  split <;> rfl

/-- R28, R29: once `p` has stopped, its scene, which is kept out, waits or is dropped, as `t`. -/
theorem State.waitsOrDrops_intro {s t : State} {p : Fin 8} {r : Run} (held : s.engine.players[p] = some r)
    {reason : StopReason} (empty : s.engine.queue = []) (out : s.ShutOut r.scene) (src : Source)
    (becomes : ∀ (u : State) (outcome : TriggerOutcome), s.Offers p r reason src u outcome →
      outcome = .dropped ∨ outcome = .pending → t = s.keptOut p r reason u outcome) :
    (s.restartStopped p r reason).WaitsOrDrops t r.scene src
    ∧ (t.engine.scenes[r.scene]).state =
      if (s.store.tables.scene r.scene).patience ≠ 0 then .pending
      else if (s.store.tables.scene r.scene).cooldown = 0 then .ready else .cooldown := by
  have stops : s.StopsPlayer (s.restartStopped p r reason) p r reason := State.halt_stops held reason
  obtain ⟨rest, -, engine, scenes, -⟩ := stops
  have store : (s.restartStopped p r reason).store = s.store := (congrArg State.store rest :)
  have frame : (s.restartStopped p r reason).frame = s.frame := (congrArg State.frame rest :)
  have arrivals : (s.restartStopped p r reason).engine.arrivals = s.engine.arrivals := (congrArg Engine.arrivals engine :)
  have drops (impatient : (s.store.tables.scene r.scene).patience = 0) :=
    (becomes _ _ (State.offers_dropped held reason impatient) (.inl rfl)).trans (State.keptOut_dropped held reason empty)
  have waits (patient : (s.store.tables.scene r.scene).patience ≠ 0) :=
    (becomes _ _ (State.offers_pending held reason empty patient) (.inr rfl)).trans
      (State.keptOut_pending held reason empty out)
  refine ⟨⟨fun impatient => drops (by rwa [store] at impatient), fun patient => ?_⟩, ?_⟩
  · rw [store] at patient
    rw [waits patient, ← store, ← frame, ← arrivals]
  · by_cases patient : (s.store.tables.scene r.scene).patience ≠ 0
    · rw [waits patient, if_pos patient]
      show (((s.restartStopped p r reason).engine.scenes.set r.scene ⟨.pending, 0, false, none⟩)[r.scene]).state = _
      rw [Vector.getElem_setFin, if_pos rfl]
    · rw [drops (Classical.not_not.1 patient), if_neg patient]
      show ((s.restartStopped p r reason).engine.scenes[r.scene]).state = _
      rw [scenes, Vector.getElem_setFin, if_pos rfl, SceneRun.restOf_code]

/-- Settles O21. -/
theorem admittedSceneStarts : Obligations.AdmittedSceneStarts := by
  unfold Obligations.AdmittedSceneStarts
  intro s n rest sc p next own mode house
  dsimp only
  intro enabled
  refine ⟨fun voice ready startable => ?_, fun run running restarts held same first => ?_⟩
  · have taken := State.trigger_ready (s := s.took rest) (src := .link) house enabled ready
    rw [startable.admission, State.returnGroups_nil] at taken
    exact ⟨_, exec_trigger next own mode taken (State.startOn_scene ..), State.startOn_starts ..⟩
  · subst same
    have taken := State.trigger_restart (s := s.took rest) (src := .link) house enabled running restarts
      (Engine.holder_eq held rfl first)
    refine ⟨fun q voice again => ?_, fun empty out => ?_⟩
    · rw [State.restart_starts (s := s.took rest) held again] at taken
      exact ⟨_, exec_trigger next own mode taken (State.startOn_scene ..), State.restarting_restarts (s := s.took rest) held again ..⟩
    · obtain ⟨waits, stands⟩ := State.waitsOrDrops_intro (s := s.took rest) held empty out .link
        fun _ _ o _ => State.restart_offers (s := s.took rest) held out o
      refine ⟨_, (s.took rest).restartStopped p run .restarted, State.halt_stops (s := s.took rest) held .restarted, waits, ?_⟩
      have answered := exec_trigger next own mode taken stands
      rw [answered]
      show _ = Host.Outcome.next (((s.took rest).restart run.scene .link p).replied 0x0B ([0, 4] ++
        if (s.store.tables.scene run.scene).patience ≠ 0 then [2]
        else if (s.store.tables.scene run.scene).cooldown = 0 then [1] else [4])).finishLink
      congr 3
      show ([0] ++ put8 4) ++ put8 (SceneState.code (if (s.store.tables.scene run.scene).patience ≠ 0 then .pending
        else if (s.store.tables.scene run.scene).cooldown = 0 then .ready else .cooldown)) = _
      split
      · rfl
      · split <;> rfl

end Sys2Proof.Machine
end

section
/-! Proofs about direct control (R74 to R76) and the rescan that it leads to (R32). -/

namespace Sys2Proof.Machine

section DirectControl

variable {s : State} {g : Fin 16} {n : Byte} {rest : List Request}

theorem holdGroup_served : Serves .holdGroup State.finishLink 0x0E false (exactly 1) State.answerHoldGroup := fun _ => rfl

theorem freeGroup_served : Serves .freeGroup State.finishLink 0x0F false (exactly 1) State.answerFreeGroup := fun _ => rfl

theorem groupOperand?_val (own : n.toNat = g.val) : groupOperand? [n] = some g := index?_val own

theorem groupOperand?_ge (beyond : 16 ≤ n.toNat) : groupOperand? [n] = none := index?_ge beyond

/-- R75: HOLD GROUP takes a group that nobody owns. -/
theorem State.answerHoldGroup_taken (own : n.toNat = g.val) (owner : s.engine.claims.groups[g] = .none) :
    s.answerHoldGroup [n] = (s.setGroupOwner g .direct, [0, 0, 0, 0, 0, 0]) := by
  unfold State.answerHoldGroup
  rw [groupOperand?_val own]
  dsimp only
  rw [owner]
  rfl

/-- R75: HOLD GROUP leaves a group in direct control. -/
theorem State.answerHoldGroup_already (own : n.toNat = g.val) (owner : s.engine.claims.groups[g] = .direct) :
    s.answerHoldGroup [n] = (s, [0, 2, 0, 0, 0, 0]) := by
  unfold State.answerHoldGroup
  rw [groupOperand?_val own]
  dsimp only
  rw [owner]
  rfl

/-- R75: HOLD GROUP takes a group from the player that owns it. -/
theorem State.answerHoldGroup_player {p : Fin 8} {r : Run} (own : n.toNat = g.val)
    (owner : s.engine.claims.groups[g] = .player p) (held : s.engine.players[p] = some r) :
    s.answerHoldGroup [n] = (s.setGroupOwner g .direct, [0, 1, 1] ++ put8 p ++ [1] ++ put8 r.scene) := by
  unfold State.answerHoldGroup
  rw [groupOperand?_val own]
  dsimp only
  rw [owner]
  dsimp only
  rw [show s.sceneOf (some p) = some r.scene by rw [State.sceneOf, Option.bind_some, held]; rfl]
  rfl

end DirectControl

/-! ### The rescan after a group has been freed -/

section Rescan

variable {s : State} {front back : List Entry} {e : Entry} {p : Fin 8} {voice : Option (Fin 4)}

/-- R32: the part after a rescan has started the waiting entry `e` on player `p`. -/
def State.startedFrom (s : State) (others : List Entry) (e : Entry) (voice : Option (Fin 4)) (p : Fin 8) : State :=
  ((s.setQueue others).sceneTo e.scene .ready).startOn e.scene e.source voice p

theorem State.startedFrom_starts (s : State) (others : List Entry) (e : Entry) (voice : Option (Fin 4)) (p : Fin 8) :
    s.Starts (s.startedFrom others e voice p) e.scene e.source p voice others :=
  ⟨rfl, rfl, rfl, rfl, Vector.set_set .., rfl, fun _ => Claims.claim_group .., fun _ => Claims.claim_axis ..,
    fun _ => Claims.claim_voice ..⟩

/-- R70: a group in direct control stays so when a scene that can start does. -/
theorem State.Startable.keepsOut (h : s.Startable e.scene p voice) (others : List Entry) {sc : Fin 64} (out : s.ShutOut sc) :
    (s.startedFrom others e voice p).ShutOut sc := by
  refine out.congr rfl fun g direct => ?_
  refine (Claims.claim_group ..).trans ?_
  show (if (s.store.tables.scene e.scene).groupMask.getLsbD g = true then _ else s.engine.claims.groups[g]) = _
  rw [if_neg, direct]
  intro needed
  rw [h.2.2.1 g needed] at direct
  cases direct

/-- R32: a rescan starts the one waiting scene that nothing keeps out, and the others keep their places. -/
theorem State.rescan_starts (mode : s.store.mode = .running) (house : s.engine.house = false)
    (queue : s.engine.queue = front ++ e :: back) (short : s.engine.queue.length ≤ 16)
    (out : ∀ y ∈ front ++ back, s.ShutOut y.scene) (startable : s.Startable e.scene p voice) :
    s.rescan = s.startedFrom (front ++ back) e voice p := by
  have lengths : front.length + back.length < 16 := by
    rw [queue, List.length_append, List.length_cons] at short
    omega
  have after : (s.startedFrom (front ++ back) e voice p).engine.queue = front ++ back := rfl
  have kept : ∀ y ∈ front ++ back, (s.startedFrom (front ++ back) e voice p).ShutOut y.scene :=
    fun y member => startable.keepsOut _ (out y member)
  have here : s.engine.queue[front.length]? = some e := by
    rw [queue, List.getElem?_append_right (Nat.le_refl _), Nat.sub_self]
    rfl
  have erased : s.engine.queue.eraseIdx front.length = front ++ back := by
    rw [queue, List.eraseIdx_append_of_length_le (Nat.le_refl _), Nat.sub_self]
    rfl
  have first (m : Nat) : s.rescanFrom (front.length + (m + 1)) 0 false =
      State.rescanFrom m (s.startedFrom (front ++ back) e voice p) front.length true := by
    have skipped := State.rescanFrom_skip (s := s) (front := []) (entries := front) (e :: back) queue
      (fun y member => out y (List.mem_append_left _ member)) (m + 1) false
    rw [List.length_nil, Nat.zero_add] at skipped
    have again : ((s.setQueue (front ++ back)).sceneTo e.scene .ready).Startable e.scene p voice := startable
    rw [skipped, State.rescanFrom, here]
    dsimp only
    rw [if_pos startable.admissible, erased, again.admission, State.returnGroups_nil]
    rfl
  have second (m : Nat) : State.rescanFrom (back.length + (m + 1)) (s.startedFrom (front ++ back) e voice p) front.length true =
      State.rescanFrom m (s.startedFrom (front ++ back) e voice p) 0 false := by
    have skipped := State.rescanFrom_skip (front := front) (entries := back) [] (by rw [after, List.append_nil])
      (fun y member => kept y (List.mem_append_right _ member)) (m + 1) true
    have ends := State.rescanFrom_end (s := s.startedFrom (front ++ back) e voice p) m true
    rw [after, List.length_append, if_pos rfl] at ends
    rw [skipped, ends]
  have third (m : Nat) : State.rescanFrom ((front ++ back).length + (m + 1)) (s.startedFrom (front ++ back) e voice p) 0 false =
      s.startedFrom (front ++ back) e voice p := State.rescanFrom_out kept m
  rw [List.length_append] at third
  have fuel : rescanFuel = front.length + ((back.length + ((front.length + back.length + ((1021 - 2 * front.length - 2 * back.length) + 1)) + 1)) + 1) := by
    show 1024 = _
    omega
  unfold State.rescan
  rw [if_pos (by rw [mode, house]; rfl), fuel, first, second, third]

theorem State.rescan_idle (stands : s.store.mode ≠ .running) : s.rescan = s := by
  rw [State.rescan, decide_eq_false stands]
  rfl

end Rescan

section Freed

variable {s : State} {g : Fin 16}

theorem State.setGroupOwner_owner (s : State) (g : Fin 16) (o : GroupOwner) :
    (s.setGroupOwner g o).engine.claims.groups[g] = o := by
  show (s.engine.claims.groups.set g o)[g] = o
  rw [Vector.getElem_setFin, if_pos rfl]

theorem State.returnGroups_calm (still : s.store.attractRunning = false) (released : List (Fin 16)) :
    s.returnGroups released = s := by
  rw [State.returnGroups, if_neg (by rw [still]; decide)]

/-- R32, R76, R78: with nothing waiting, a group that is freed returns to attract. -/
theorem State.freeGroup_returns (empty : s.engine.queue = []) :
    ∃ light : Lighting, s.ReturnsGroups light (fun h => h = g)
      ∧ s.freeGroup g = { s.setGroupOwner g .none with light := light }
      ∧ (s.store.attractRunning = false → light = s.light) := by
  have rest := State.eq_withLight (State.returnGroups_rest (s.setGroupOwner g .none) [g]).1
  refine ⟨_, State.ReturnsGroups.congr (s := s) (State.returnGroups_returns (s.setGroupOwner g .none) [g]) fun h => ?_, ?_,
    fun still => ?_⟩
  · rw [List.mem_singleton]
    refine and_iff_left_of_imp fun same => ?_
    rw [same]
    exact State.setGroupOwner_owner ..
  · rw [State.freeGroup, State.rescan_empty, ← rest]
    rw [rest]
    exact empty
  · rw [State.returnGroups_calm (s := s.setGroupOwner g .none) still]
    rfl

end Freed

/-- Settles O26. -/
theorem directControlTakesAndFreesGroups : Obligations.DirectControlTakesAndFreesGroups := by
  unfold Obligations.DirectControlTakesAndFreesGroups
  intro s n rest
  dsimp only
  refine ⟨fun next => ⟨fun mode => holdGroup_served.refused next mode, fun mode beyond => ?_, fun g mode own => ?_⟩,
    fun next => ⟨fun mode => freeGroup_served.refused next mode, fun mode beyond => ?_, fun g mode own => ?_⟩⟩
  · refine holdGroup_served.own next (.inr mode) rfl ?_
    rw [State.answerHoldGroup, groupOperand?_ge beyond]
    rfl
  · exact ⟨fun owner => holdGroup_served.own next (.inr mode) rfl (State.answerHoldGroup_taken own owner),
      fun owner => holdGroup_served.own next (.inr mode) rfl (State.answerHoldGroup_already own owner),
      fun p r owner held => holdGroup_served.own next (.inr mode) rfl (State.answerHoldGroup_player own owner held)⟩
  · refine freeGroup_served.own next (.inr mode) rfl ?_
    rw [State.answerFreeGroup, groupOperand?_ge beyond]
    rfl
  · have frees (direct : s.engine.claims.groups[g] = .direct) :
        exec .freeGroup s = .next (((s.took rest).freeGroup g).replied 0x0F [0, 0]).finishLink := by
      refine freeGroup_served.own next (.inr mode) rfl ?_
      rw [State.answerFreeGroup, groupOperand?_val own]
      exact if_pos direct
    refine ⟨fun other => ?_, fun direct standby => ?_, fun direct running empty => ?_,
      fun front back e p voice direct running house still queue short out startable => ?_⟩
    · refine freeGroup_served.own next (.inr mode) rfl ?_
      rw [State.answerFreeGroup, groupOperand?_val own]
      exact if_neg other
    · have stands : (s.took rest).store.mode ≠ .running := by
        rw [show (s.took rest).store.mode = .standby from standby]
        decide
      have still : (s.took rest).store.attractRunning = false := by
        unfold Store.attractRunning
        rw [show (s.took rest).store.mode = .standby from standby]
        rfl
      rw [frees direct, State.freeGroup, State.returnGroups_calm (s := (s.took rest).setGroupOwner g .none) still,
        State.rescan_idle (s := (s.took rest).setGroupOwner g .none) stands]
      rfl
    · obtain ⟨light, returns, freed, calm⟩ := State.freeGroup_returns (s := s.took rest) (g := g) empty
      exact ⟨light, returns, by rw [frees direct, freed]; rfl, calm⟩
    · refine ⟨_, ?_, State.startedFrom_starts ((s.took rest).setGroupOwner g .none) (front ++ back) e voice p⟩
      rw [frees direct, State.freeGroup, State.returnGroups_calm (s := (s.took rest).setGroupOwner g .none) still,
        State.rescan_starts (s := (s.took rest).setGroupOwner g .none) running house queue short out startable]

end Sys2Proof.Machine
end

section
/-! Proofs about preemption (R25, R26, R70 to R72): the players that an admission stops, and what it then leaves. -/

namespace Sys2Proof.Machine

/-! ### The lowest player (R71) -/

section Lowest

variable {e : Engine} {pr : Nat} {among : Fin 8 → Bool} {p : Fin 8}

/-- R71: player `q`, with the record `y`, may be taken from by a scene of priority `pr`. -/
def Engine.Takes (e : Engine) (pr : Nat) (among : Fin 8 → Bool) (q : Fin 8) (y : Run) : Prop :=
  e.players[q] = some y ∧ among q = true ∧ y.priority < pr

/-- R71: the lower priority first, and among equals the lower start order. -/
def Run.NotAbove (x y : Run) : Prop := x.priority < y.priority ∨ (x.priority = y.priority ∧ x.order ≤ y.order)

/-- R71: `best` is the lowest of the players of `seen`, or none of them may be taken from. -/
def Engine.LowestOf (e : Engine) (pr : Nat) (among : Fin 8 → Bool) (seen : List (Fin 8)) : Option (Fin 8) → Prop
  | none => ∀ q ∈ seen, ∀ y, ¬ e.Takes pr among q y
  | some p => ∃ x, e.Takes pr among p x ∧ ∀ q ∈ seen, ∀ y, e.Takes pr among q y → x.NotAbove y

theorem Run.ranksBelow_iff {x y : Run} : x.ranksBelow y = true ↔ ¬ y.NotAbove x := by
  unfold Run.ranksBelow Run.NotAbove
  rw [Bool.or_eq_true, Bool.and_eq_true, decide_eq_true_iff, decide_eq_true_iff, decide_eq_true_iff]
  omega

theorem Run.NotAbove.trans {x y z : Run} (h : x.NotAbove y) (k : y.NotAbove z) : x.NotAbove z := by
  unfold Run.NotAbove at *
  omega

theorem Run.NotAbove.total {x y : Run} (h : ¬ y.NotAbove x) : x.NotAbove y := by
  unfold Run.NotAbove at *
  omega

theorem Run.NotAbove.refl (x : Run) : x.NotAbove x := .inr ⟨rfl, Nat.le_refl _⟩

theorem Engine.LowestOf.pass {seen : List (Fin 8)} {best : Option (Fin 8)} (h : e.LowestOf pr among seen best)
    (not : ∀ y, ¬ e.Takes pr among p y) : e.LowestOf pr among (seen ++ [p]) best := by
  cases best with
  | none =>
    intro q member y
    rcases List.mem_append.1 member with old | new
    · exact h q old y
    · rw [List.mem_singleton.1 new]
      exact not y
  | some b =>
    obtain ⟨x, takes, least⟩ := h
    refine ⟨x, takes, fun q member y taken => ?_⟩
    rcases List.mem_append.1 member with old | new
    · exact least q old y taken
    · rw [List.mem_singleton.1 new] at taken
      exact absurd taken (not y)

theorem Engine.LowestOf.take {seen : List (Fin 8)} {best : Option (Fin 8)} {r : Run} (h : e.LowestOf pr among seen best)
    (taken : e.Takes pr among p r) :
    e.LowestOf pr among (seen ++ [p]) (match best.bind fun q => e.players[q] with
      | some b => if r.ranksBelow b then some p else best
      | none => some p) := by
  have own {y : Run} (same : e.Takes pr among p y) : y = r := Option.some.inj (same.1.symm.trans taken.1)
  cases best with
  | none =>
    refine ⟨r, taken, fun q member y other => ?_⟩
    rcases List.mem_append.1 member with old | new
    · exact absurd other (h q old y)
    · rw [List.mem_singleton.1 new] at other
      rw [own other]
      exact .refl r
  | some b =>
    obtain ⟨x, takes, least⟩ := h
    rw [Option.bind_some, takes.1]
    dsimp only
    by_cases ranks : r.ranksBelow x = true
    · rw [if_pos ranks]
      have under := Run.NotAbove.total (Run.ranksBelow_iff.1 ranks)
      refine ⟨r, taken, fun q member y other => ?_⟩
      rcases List.mem_append.1 member with old | new
      · exact under.trans (least q old y other)
      · rw [List.mem_singleton.1 new] at other
        rw [own other]
        exact .refl r
    · rw [if_neg ranks]
      refine ⟨x, takes, fun q member y other => ?_⟩
      rcases List.mem_append.1 member with old | new
      · exact least q old y other
      · rw [List.mem_singleton.1 new] at other
        rw [own other]
        exact Classical.not_not.1 (mt Run.ranksBelow_iff.2 ranks)

/-- R71: what the choice of the lowest player finds. -/
theorem Engine.lowest_lowestOf (e : Engine) (pr : Nat) (among : Fin 8 → Bool) :
    e.LowestOf pr among (List.finRange 8) (e.lowest pr among) := by
  unfold Engine.lowest
  generalize List.finRange 8 = seen
  induction seen using snocInduction with
  | nil => exact fun _ member => nomatch member
  | append_singleton seen p ih =>
    rw [List.foldl_append, List.foldl_cons, List.foldl_nil]
    generalize List.foldl _ none seen = best at ih ⊢
    cases held : e.players[p] with
    | none => exact ih.pass fun y takes => nomatch held.symm.trans takes.1
    | some r =>
      dsimp only
      by_cases may : (among p && decide (r.priority < pr)) = true
      · rw [if_pos may]
        obtain ⟨allowed, below⟩ := Bool.and_eq_true_iff.1 may
        exact ih.take ⟨held, allowed, of_decide_eq_true below⟩
      · rw [if_neg may]
        refine ih.pass fun y takes => may ?_
        obtain ⟨same, allowed, below⟩ := takes
        rw [held] at same
        cases same
        rw [allowed, decide_eq_true below]
        rfl

end Lowest

/-! ### The players that an admission stops (R70) -/

section Preempted

variable {s : State} {sc : Fin 64} {p : Fin 8}

/-- R26: the voice chosen is unowned, or its owner is of a lower priority. -/
theorem State.chooseVoice_below {pr : Nat} {v : Fin 4} (chosen : s.chooseVoice pr = some v)
    (owned : s.engine.claims.voices[v] = some p) {x : Run} (held : s.engine.players[p] = some x) : x.priority < pr := by
  unfold State.chooseVoice at chosen
  dsimp only at chosen
  split at chosen
  · next w found =>
    cases chosen
    have unowned := List.find?_some found
    simp only [Bool.and_eq_true, decide_eq_true_eq] at unowned
    replace unowned := unowned.1
    rw [owned] at unowned
    cases unowned
  · split at chosen
    · next w found =>
      cases chosen
      have unowned := List.find?_some found
      simp only [decide_eq_true_eq] at unowned
      rw [owned] at unowned
      cases unowned
    · split at chosen
      · next q least =>
        have same := List.find?_some chosen
        simp only [decide_eq_true_eq] at same
        rw [owned] at same
        cases same
        have lowest := s.engine.lowest_lowestOf pr fun p => (List.finRange 4).any fun (v : Fin 4) =>
          decide (s.engine.claims.voices[v] = some p)
        rw [least] at lowest
        obtain ⟨y, ⟨running, -, below⟩, -⟩ := lowest
        rw [held] at running
        cases running
        exact below
      · cases chosen

theorem Engine.below_running {e : Engine} {pr : Nat} {x : Run} (held : e.players[p] = some x) :
    e.below pr p = true ↔ x.priority < pr := by
  rw [Engine.below, held]
  exact decide_eq_true_iff

/-- R70: a player that owns what the scene needs. -/
theorem Engine.ownsNeeded_iff {e : Engine} {r : SceneRec} {voice : Option (Fin 4)} :
    e.ownsNeeded r voice p = true ↔
      (∃ g : Fin 16, r.groupMask.getLsbD g = true ∧ e.claims.groups[g] = .player p)
        ∨ (∃ a : Fin 8, r.axisMask.getLsbD a = true ∧ e.claims.axes[a] = some p)
        ∨ ∃ v : Fin 4, voice = some v ∧ e.claims.voices[v] = some p := by
  unfold Engine.ownsNeeded
  cases voice <;> simp [or_assoc]

/-- R25: the parts of an admissible scene's admission. -/
theorem State.admissible_iff : s.admissible sc = true ↔
    (∃ p : Fin 8, s.engine.below (s.store.tables.scene sc).priority p = true)
    ∧ (∀ g : Fin 16, (s.store.tables.scene sc).groupMask.getLsbD g = true →
        s.engine.groupFree (s.store.tables.scene sc).priority g = true)
    ∧ (∀ a : Fin 8, (s.store.tables.scene sc).axisMask.getLsbD a = true →
        s.engine.axisFree (s.store.tables.scene sc).priority a = true)
    ∧ ((s.store.tables.scene sc).narration = true → (s.chooseVoice (s.store.tables.scene sc).priority).isSome = true) := by
  unfold State.admissible
  simp [and_assoc, Decidable.or_iff_not_imp_left]

/-- R25, R70: the owner of what an admissible scene needs is of a lower priority. -/
theorem State.owner_below (admissible : s.admissible sc = true) {x : Run} (held : s.engine.players[p] = some x)
    (owns : s.engine.ownsNeeded (s.store.tables.scene sc)
      (if (s.store.tables.scene sc).narration then s.chooseVoice (s.store.tables.scene sc).priority else none) p = true) :
    x.priority < (s.store.tables.scene sc).priority := by
  obtain ⟨-, groups, axes, -⟩ := State.admissible_iff.1 admissible
  rcases Engine.ownsNeeded_iff.1 owns with ⟨g, needed, owned⟩ | ⟨a, needed, owned⟩ | ⟨v, chosen, owned⟩
  · have free := groups g needed
    rw [Engine.groupFree, owned] at free
    exact (Engine.below_running held).1 free
  · have free := axes a needed
    rw [Engine.axisFree, owned] at free
    exact (Engine.below_running held).1 free
  · split at chosen
    · exact State.chooseVoice_below chosen owned held
    · cases chosen

/-- R70 step 1: the running players that own what the scene needs. -/
def State.ownersOf (s : State) (sc : Fin 64) (voice : Option (Fin 4)) : List (Fin 8) :=
  (List.finRange 8).filter fun (p : Fin 8) =>
    s.engine.players[p].isSome && s.engine.ownsNeeded (s.store.tables.scene sc) voice p

theorem State.mem_ownersOf {voice : Option (Fin 4)} : p ∈ s.ownersOf sc voice ↔
    (s.engine.players[p]).isSome = true ∧ s.engine.ownsNeeded (s.store.tables.scene sc) voice p = true := by
  simp [State.ownersOf]

theorem Engine.firstFree_none {e : Engine} : e.firstFree = none ↔ ∀ p : Fin 8, (e.players[p]).isSome = true := by
  simp [Engine.firstFree, Option.isSome_iff_ne_none]

/-- R70 step 2: with nobody to take from and no FREE player, the lowest player is stopped, and otherwise the owners. -/
theorem State.preempted_eq (s : State) (sc : Fin 64) (voice : Option (Fin 4)) :
    s.preempted sc voice =
      if s.ownersOf sc voice = [] ∧ s.engine.firstFree = none then
        (s.engine.lowest (s.store.tables.scene sc).priority fun _ => true).toList
      else s.ownersOf sc voice := by
  unfold State.preempted
  dsimp only
  rw [← State.ownersOf]
  by_cases none : s.ownersOf sc voice = [] ∧ s.engine.firstFree = none
  · rw [if_pos none, if_pos (by rw [none.1, none.2]; rfl)]
    cases s.engine.lowest (s.store.tables.scene sc).priority fun _ => true <;> rfl
  · rw [if_neg none, if_neg]
    intro both
    obtain ⟨empty, full⟩ := Bool.and_eq_true_iff.1 both
    exact none ⟨List.isEmpty_iff.1 empty, Option.isNone_iff_eq_none.1 full⟩

theorem State.preempted_pairwise (s : State) (sc : Fin 64) (voice : Option (Fin 4)) :
    (s.preempted sc voice).Pairwise (· < ·) := by
  rw [State.preempted_eq]
  split
  · cases s.engine.lowest (s.store.tables.scene sc).priority fun _ => true with
    | none => exact .nil
    | some p => exact List.pairwise_singleton _ p
  · exact (List.pairwise_lt_finRange 8).filter _

/-- R70, R71: the players stopped run, and are of lower priorities. -/
theorem State.preempted_below (admissible : s.admissible sc = true)
    {voice : Option (Fin 4)}
    (chosen : (if (s.store.tables.scene sc).narration then s.chooseVoice (s.store.tables.scene sc).priority else none) = voice)
    (stops : p ∈ s.preempted sc voice) :
    ∃ x : Run, s.engine.players[p] = some x ∧ x.priority < (s.store.tables.scene sc).priority := by
  rw [State.preempted_eq] at stops
  split at stops
  · have least := s.engine.lowest_lowestOf (s.store.tables.scene sc).priority fun _ => true
    rw [Option.mem_toList] at stops
    rw [stops] at least
    obtain ⟨x, ⟨held, -, below⟩, -⟩ := least
    exact ⟨x, held, below⟩
  · obtain ⟨runs, owns⟩ := State.mem_ownersOf.1 stops
    obtain ⟨x, held⟩ := Option.isSome_iff_exists.1 runs
    exact ⟨x, held, State.owner_below admissible held (by rwa [chosen])⟩

theorem State.preempted_owners {voice : Option (Fin 4)} (runs : (s.engine.players[p]).isSome = true)
    (owns : s.engine.ownsNeeded (s.store.tables.scene sc) voice p = true) : p ∈ s.preempted sc voice := by
  have member := State.mem_ownersOf.2 ⟨runs, owns⟩
  rw [State.preempted_eq, if_neg]
  · exact member
  · rintro ⟨empty, -⟩
    rw [empty] at member
    cases member

/-- R70 step 2, R71: with nobody to take from and no FREE player, the lowest player is stopped. -/
theorem State.preempted_lowest {voice : Option (Fin 4)} (admissible : s.admissible sc = true)
    (alone : ∀ p : Fin 8, (s.engine.players[p]).isSome = true
      ∧ s.engine.ownsNeeded (s.store.tables.scene sc) voice p = false) :
    ∃ (p : Fin 8) (x : Run), s.preempted sc voice = [p] ∧ s.engine.players[p] = some x
      ∧ ∀ (q : Fin 8) (y : Run), s.engine.players[q] = some y →
          x.priority < y.priority ∨ (x.priority = y.priority ∧ x.order ≤ y.order) := by
  have owners : s.ownersOf sc voice = [] := List.eq_nil_iff_forall_not_mem.2 fun q owner => by
    rw [State.mem_ownersOf, (alone q).2] at owner
    exact Bool.false_ne_true owner.2
  have full : s.engine.firstFree = none := Engine.firstFree_none.2 fun p => (alone p).1
  obtain ⟨⟨b, below⟩, -⟩ := State.admissible_iff.1 admissible
  obtain ⟨z, held⟩ := Option.isSome_iff_exists.1 (alone b).1
  have takes := (Engine.below_running held).1 below
  have least := s.engine.lowest_lowestOf (s.store.tables.scene sc).priority fun _ => true
  rw [State.preempted_eq, if_pos ⟨owners, full⟩]
  cases chosen : s.engine.lowest (s.store.tables.scene sc).priority fun _ => true with
  | none =>
    rw [chosen] at least
    exact absurd ⟨held, rfl, takes⟩ (least b (List.mem_finRange b) z)
  | some p =>
    rw [chosen] at least
    obtain ⟨x, ⟨running, -, lower⟩, lowest⟩ := least
    refine ⟨p, x, rfl, running, fun q y other => ?_⟩
    by_cases under : y.priority < (s.store.tables.scene sc).priority
    · exact lowest q (List.mem_finRange q) y ⟨other, rfl, under⟩
    · exact .inl (by omega)

end Preempted

end Sys2Proof.Machine
end

section
/-! Proofs about an admission that stops players (R70, R72, R78): the stops, the start behind them, and what then rests. -/

namespace Sys2Proof.Machine

/-! ### Stops with what they end and release -/

section Noting

variable {s : State} {ps : List (Fin 8)} {reason : StopReason}

/-- R57: the record of a scene right after the stop of its player, with its again flag as it is. -/
def State.atHalt (s : State) (sc : Fin 64) : SceneRun := { s.engine.scenes[sc] with state := .ready, cooldown := 0 }

/-- R57: what stops note is the scenes and the groups of the players that ran. -/
structure State.Notes (s : State) (ps : List (Fin 8)) (reason : StopReason) (n : Released) : Prop where
  ended : ∀ e, e ∈ n.ended ↔ ∃ p ∈ ps, ∃ r : Run, s.engine.players[p] = some r ∧ e = (r.scene, reason)
  groups : ∀ g, g ∈ n.groups ↔ ∃ p ∈ ps, (s.engine.players[p]).isSome = true ∧ s.engine.claims.groups[g] = .player p

/-- R57: the stops of several players in a row, with what they end and release. -/
def State.haltsNoting (s : State) (ps : List (Fin 8)) (reason : StopReason) : State × Released :=
  ps.foldl (fun (x : State × Released) p => x.1.haltNoting x.2 p reason) (s, ⟨[], []⟩)

theorem State.Halted.owner {t : State} {scene : Fin 64 → SceneRun} (h : s.Halted t ps reason scene) {p : Fin 8}
    (fresh : p ∉ ps) (g : Fin 16) : t.engine.claims.groups[g] = .player p ↔ s.engine.claims.groups[g] = .player p := by
  rw [h.groups g]
  split
  · next any =>
    obtain ⟨q, member, held⟩ := List.any_eq_true.1 any
    have owner := of_decide_eq_true (Bool.and_eq_true_iff.1 held).2
    rw [owner]
    refine ⟨nofun, fun same => ?_⟩
    cases same
    exact absurd member fresh
  · rfl

theorem exists_mem_concat {α : Type} {l : List α} {a : α} {P : α → Prop} :
    (∃ x ∈ l ++ [a], P x) ↔ (∃ x ∈ l, P x) ∨ P a := by
  simp [or_and_right, exists_or]

theorem State.haltsNoting_halted (s : State) (reason : StopReason) {ps : List (Fin 8)} (nodup : ps.Nodup) :
    s.Halted (s.haltsNoting ps reason).1 ps reason s.atHalt ∧ s.Notes ps reason (s.haltsNoting ps reason).2 := by
  induction ps using snocInduction with
  | nil => exact ⟨.nil, fun e => by simp [State.haltsNoting], fun g => by simp [State.haltsNoting]⟩
  | append_singleton ps p ih =>
    rw [List.nodup_append] at nodup
    obtain ⟨before, -, apart⟩ := nodup
    have fresh : p ∉ ps := fun old => apart p old p (List.mem_singleton.2 rfl) rfl
    obtain ⟨halted, ended, groups⟩ := ih before
    rw [State.haltsNoting, List.foldl_append, List.foldl_cons, List.foldl_nil, ← State.haltsNoting]
    generalize s.haltsNoting ps reason = done at halted ended groups ⊢
    have step := halted.step fresh
    cases running : done.1.engine.players[p] with
    | none =>
      rw [State.haltWith_free running] at step
      obtain ⟨order, same⟩ := halted.others p fresh
      have free : s.engine.players[p] = none := by rw [running] at same; exact Option.map_eq_none_iff.1 same.symm
      rw [State.haltNoting, running]
      refine ⟨step, fun e => ?_, fun g => ?_⟩
      · rw [ended e, exists_mem_concat, free]
        exact (or_iff_left nofun).symm
      · rw [groups g, exists_mem_concat, free]
        exact (or_iff_left nofun).symm
    | some x =>
      obtain ⟨r, was, scene, cue⟩ := halted.spared fresh running
      have rested : done.1.atHalt x.scene = s.atHalt x.scene := by
        by_cases hit : ∃ q ∈ ps, ∃ y : Run, s.engine.players[q] = some y ∧ y.scene = x.scene
        · obtain ⟨q, member, y, held, same⟩ := hit
          rw [State.atHalt, ← same, halted.ended q member y held]
          rfl
        · rw [State.atHalt, State.atHalt,
            halted.kept x.scene fun q member y held same => hit ⟨q, member, y, held, same⟩]
      have halt : done.1.halt p reason = done.1.haltWith s.atHalt reason p := by
        rw [State.halt_eq running, State.haltWith_running running, ← rested]
        rfl
      rw [State.haltNoting, running, halt]
      refine ⟨step, fun e => ?_, fun g => ?_⟩
      · dsimp only
        rw [List.mem_append, ended e, List.mem_singleton, ← scene, exists_mem_concat, was]
        exact or_congr_right ⟨fun same => ⟨r, rfl, same⟩, fun ⟨y, held, same⟩ => by cases held; exact same⟩
      · dsimp only
        rw [List.mem_append, groups g, Engine.mem_groupsOf, halted.owner fresh, exists_mem_concat, was]
        exact or_congr_right (and_iff_right rfl).symm

end Noting

/-! ### Scenes that rest (R34) -/

section Resting

variable {s : State}

/-- R34: the scenes of a list rest, one after another. -/
def State.allRest (s : State) (scs : List (Fin 64)) : State :=
  scs.foldl (fun (t : State) (sc : Fin 64) => t.setScene sc (t.restOf sc)) s

theorem State.allRest_eq (s : State) (scs : List (Fin 64)) :
    ∃ scenes, s.allRest scs = { s with engine := { s.engine with scenes := scenes } } := by
  induction scs generalizing s with
  | nil => exact ⟨s.engine.scenes, rfl⟩
  | cons sc scs ih => exact ih (s.setScene sc (s.restOf sc))

theorem State.allRest_scene (s : State) (scs : List (Fin 64)) (sc : Fin 64) :
    (s.allRest scs).engine.scenes[sc] = if sc ∈ scs then s.restOf sc else s.engine.scenes[sc] := by
  induction scs generalizing s with
  | nil => rfl
  | cons x scs ih =>
    rw [State.allRest, List.foldl_cons, ← State.allRest, ih]
    have same : (s.setScene x (s.restOf x)).restOf = s.restOf := State.restOf_congr rfl rfl
    rw [same]
    by_cases later : sc ∈ scs
    · rw [if_pos later, if_pos (List.mem_cons_of_mem _ later)]
    · rw [if_neg later]
      show (s.engine.scenes.set x (s.restOf x))[sc] = _
      rw [Vector.getElem_setFin]
      by_cases own : sc = x
      · rw [if_pos own.symm, if_pos (List.mem_cons.2 (.inl own)), own]
      · rw [if_neg (Ne.symm own), if_neg (mt List.mem_cons.1 (not_or.2 ⟨own, later⟩))]

/-- R34, R35: scenes with no again flag set rest when they have left RUNNING. -/
theorem State.endScenes_rest (again : State → Fin 64 → State × TriggerOutcome) {ended : List (Fin 64 × StopReason)}
    (clear : ∀ e ∈ ended, (s.engine.scenes[e.1]).again = false) :
    ended.foldl (fun (t : State) (e : Fin 64 × StopReason) => t.endScene again e.1 e.2) s =
      s.allRest (ended.map Prod.fst) := by
  induction ended generalizing s with
  | nil => rfl
  | cons e ended ih =>
    rw [List.foldl_cons, State.endScene_rests (.inr (.inl (clear e List.mem_cons_self))), State.sceneRests_eq, ih]
    · rfl
    · intro x member
      show ((s.engine.scenes.set e.1 (s.restOf e.1))[x.1]).again = false
      rw [Vector.getElem_setFin]
      split
      · exact State.restOf_again ..
      · exact clear x (List.mem_cons_of_mem _ member)

end Resting

/-! ### The start behind the stops (R70) -/

/-- The running players that a list spares. -/
theorem filter_spared_length {f : Fin 8 → Bool} {ps : List (Fin 8)} (nodup : ps.Nodup) (all : ∀ p ∈ ps, f p = true) :
    ((List.finRange 8).filter fun q => f q && decide (q ∉ ps)).length + ps.length = ((List.finRange 8).filter f).length := by
  induction ps with
  | nil => simp
  | cons p ps ih =>
    obtain ⟨fresh, rest⟩ := List.nodup_cons.1 nodup
    have one := filter_length_succ p (fun q => f q && decide (q ∉ p :: ps)) (fun q => f q && decide (q ∉ ps))
      (by simp) (by simp [all p List.mem_cons_self, fresh]) fun q apart => by simp [apart]
    have before := ih rest fun q member => all q (List.mem_cons_of_mem _ member)
    rw [List.length_cons]
    omega

section Preempting

variable {s : State} {sc : Fin 64} {p : Fin 8} {voice : Option (Fin 4)} {ps : List (Fin 8)}

theorem State.Halted.running {t : State} {reason : StopReason} {scene : Fin 64 → SceneRun}
    (h : s.Halted t ps reason scene) (nodup : ps.Nodup) (all : ∀ q ∈ ps, (s.engine.players[q]).isSome = true) :
    t.engine.running = s.engine.running - ps.length := by
  have count := filter_spared_length (f := fun q => (s.engine.players[q]).isSome) nodup all
  have same : (fun (q : Fin 8) => (t.engine.players[q]).isSome) =
      fun q => (s.engine.players[q]).isSome && decide (q ∉ ps) := by
    funext q
    by_cases member : q ∈ ps
    · rw [h.gone q member, decide_eq_false (Classical.not_not.2 member), Bool.and_false]
      rfl
    · obtain ⟨order, kept⟩ := h.others q member
      rw [kept, Option.isSome_map, decide_eq_true member, Bool.and_true]
  rw [Engine.running, Engine.running, same]
  omega

theorem State.Halted.firstFree {t : State} {reason : StopReason} {scene : Fin 64 → SceneRun}
    (h : s.Halted t ps reason scene) (free : s.engine.players[p] = none ∨ p ∈ ps)
    (first : ∀ q : Fin 8, q < p → (s.engine.players[q]).isSome = true ∧ q ∉ ps) : t.engine.firstFree = some p := by
  refine Engine.firstFree_eq ?_ fun q before => ?_
  · by_cases member : p ∈ ps
    · exact h.gone p member
    · obtain ⟨order, kept⟩ := h.others p member
      rw [kept, free.resolve_right member]
      rfl
  · obtain ⟨runs, spared⟩ := first q before
    obtain ⟨order, kept⟩ := h.others q spared
    rw [kept, Option.isSome_map]
    exact runs

/-- R70: the part right after the stops of a preemption and the start behind them. -/
def State.preemptStarted (s : State) (sc : Fin 64) (src : Source) (voice : Option (Fin 4)) (p : Fin 8) : State :=
  (s.haltsNoting (s.preempted sc voice) .preempted).1.startOn sc src voice p

/-- R70, R72, R78: the start of scene `sc` behind stops that left `t` and noted `n`, with the scenes that end at rest and
the released groups returned. -/
def State.behindStops (t : State) (n : Released) (sc : Fin 64) (src : Source) (voice : Option (Fin 4)) (p : Fin 8) : State :=
  ((t.startOn sc src voice p).allRest (n.ended.map Prod.fst)).returnGroups n.groups

/-- R34, R70, R72, R78: what an admission that stops players leaves. -/
def State.preempting (s : State) (sc : Fin 64) (src : Source) (voice : Option (Fin 4)) (p : Fin 8) : State :=
  State.behindStops (s.haltsNoting (s.preempted sc voice) .preempted).1
    (s.haltsNoting (s.preempted sc voice) .preempted).2 sc src voice p

theorem State.admission_preempts (admissible : s.admissible sc = true) (src : Source)
    (chosen : (if (s.store.tables.scene sc).narration then s.chooseVoice (s.store.tables.scene sc).priority else none) = voice)
    (calm : s.engine.estop = false ∨ (s.store.tables.scene sc).axisMask = 0)
    (clear : ∀ q ∈ s.preempted sc voice, ∀ y : Run, s.engine.players[q] = some y →
      y.scene ≠ sc ∧ (s.engine.scenes[y.scene]).again = false)
    (free : s.engine.players[p] = none ∨ p ∈ s.preempted sc voice)
    (first : ∀ q : Fin 8, q < p → (s.engine.players[q]).isSome = true ∧ q ∉ s.preempted sc voice) :
    (State.admission admissionFuel s sc src []).1 = s.preempting sc src voice p
      ∧ (State.admission admissionFuel s sc src []).2.1 = .started := by
  obtain ⟨halted, notes⟩ := s.haltsNoting_halted .preempted ((s.preempted_pairwise sc voice).imp fun lt => Fin.ne_of_lt lt)
  have start : s.start sc src = (s.preemptStarted sc src voice p, (s.haltsNoting (s.preempted sc voice) .preempted).2) := by
    unfold State.start
    dsimp only
    rw [chosen, ← State.haltsNoting, halted.firstFree free first]
    dsimp only
    rw [if_neg]
    · rfl
    · intro both
      obtain ⟨held, moves⟩ := Bool.and_eq_true_iff.1 both
      rcases calm with released | still
      · exact Bool.false_ne_true (released.symm.trans (halted.estop.symm.trans held))
      · exact of_decide_eq_true moves still
  have rests : ∀ e ∈ (s.haltsNoting (s.preempted sc voice) .preempted).2.ended,
      ((s.preemptStarted sc src voice p).engine.scenes[e.1]).again = false := by
    intro e member
    obtain ⟨q, stopped, y, held, rfl⟩ := (notes.ended e).1 member
    obtain ⟨apart, still⟩ := clear q stopped y held
    show (((s.haltsNoting (s.preempted sc voice) .preempted).1.engine.scenes.set sc _)[y.scene]).again = false
    rw [Vector.getElem_setFin, if_neg (Ne.symm apart), halted.ended q stopped y held]
    exact still
  rw [show admissionFuel = 7 + 1 from rfl]
  unfold State.admission
  rw [if_pos admissible, start]
  dsimp only
  rw [State.endScenes_rest _ rests, List.nil_append]
  exact ⟨rfl, rfl⟩

theorem State.anyRunning_stopped (all : ∀ q ∈ ps, (s.engine.players[q]).isSome = true) (owner : Fin 8 → Bool) :
    s.anyRunning ps owner = ps.any owner := by
  rw [State.anyRunning, Bool.eq_iff_iff, List.any_eq_true, List.any_eq_true]
  exact exists_congr fun q => and_congr_right fun member => by rw [all q member, Bool.true_and]

end Preempting

/-! ### What the admission leaves -/

section Leaves

variable {s t : State} {sc : Fin 64} {src : Source} {p : Fin 8} {voice : Option (Fin 4)} {ps : List (Fin 8)}
  {n : Released}

theorem State.behindStops_eq (t : State) (n : Released) (sc : Fin 64) (src : Source) (voice : Option (Fin 4)) (p : Fin 8) :
    ∃ light : Lighting, ∃ scenes : Vector SceneRun 64,
      t.behindStops n sc src voice p = { t.startOn sc src voice p with
        light := light, engine := { (t.startOn sc src voice p).engine with scenes := scenes } }
      ∧ ({ t.startOn sc src voice p with engine := { (t.startOn sc src voice p).engine with scenes := scenes } } : State).ReturnsGroups
          light (fun g => g ∈ n.groups ∧ (t.startOn sc src voice p).engine.claims.groups[g] = .none)
      ∧ ∀ x : Fin 64, scenes[x] = if x ∈ n.ended.map Prod.fst then (t.startOn sc src voice p).restOf x
          else (t.startOn sc src voice p).engine.scenes[x] := by
  obtain ⟨rested, whole⟩ := (t.startOn sc src voice p).allRest_eq (n.ended.map Prod.fst)
  have scenes := (t.startOn sc src voice p).allRest_scene (n.ended.map Prod.fst)
  unfold State.behindStops
  rw [whole] at scenes ⊢
  exact ⟨_, rested, State.eq_withLight (State.returnGroups_rest _ n.groups).1, State.returnGroups_returns _ n.groups, scenes⟩

theorem State.ReturnsGroups.transfer {x y : State} {light : Lighting} {P : Fin 16 → Prop} (h : x.ReturnsGroups light P)
    (lit : x.light = y.light) (store : x.store = y.store) : y.ReturnsGroups light P := by
  unfold State.ReturnsGroups at h ⊢
  rwa [← lit, ← store]

/-- R70: the stops and the start of scene `sc`, told together. -/
structure State.StopsAndStarts (s : State) (ps : List (Fin 8)) (t : State) (n : Released) : Prop where
  halted : s.Halted t ps .preempted s.atHalt
  notes : s.Notes ps .preempted n
  nodup : ps.Nodup
  runs : ∀ q ∈ ps, (s.engine.players[q]).isSome = true

theorem State.StopsAndStarts.leaves (h : s.StopsAndStarts ps t n)
    (apart : ∀ q ∈ ps, ∀ y : Run, s.engine.players[q] = some y → y.scene ≠ sc) :
    let r := s.store.tables.scene sc
    let u := t.behindStops n sc src voice p
    { u with link := s.link, engine := s.engine, light := s.light, sound := s.sound, motion := s.motion } = s
    ∧ u.link = (s.stopReports .preempted ps s.link).raise (.sceneStarted sc p r.priority src)
    ∧ { u.engine with
        scenes := s.engine.scenes, players := s.engine.players, claims := s.engine.claims } = s.engine
    ∧ u.engine.scenes[sc] = ⟨.running, 0, false, none⟩
    ∧ (∀ q ∈ ps, ∀ y : Run, s.engine.players[q] = some y → u.engine.scenes[y.scene] = s.restOf y.scene)
    ∧ (∀ other : Fin 64, other ≠ sc →
        (∀ q ∈ ps, ∀ y : Run, s.engine.players[q] = some y → y.scene ≠ other) →
        u.engine.scenes[other] = s.engine.scenes[other])
    ∧ u.engine.players[p] = some (s.freshRun sc voice (s.engine.running - ps.length + 1))
    ∧ (∀ q ∈ ps, q ≠ p → u.engine.players[q] = none)
    ∧ (∀ q : Fin 8, q ≠ p → q ∉ ps → ∃ order : Nat,
        u.engine.players[q] = (s.engine.players[q]).map fun y => { y with order := order })
    ∧ (∀ g : Fin 16, u.engine.claims.groups[g] =
        if r.groupMask.getLsbD g then .player p
        else if ps.any fun q => decide (s.engine.claims.groups[g] = .player q) then .none
        else s.engine.claims.groups[g])
    ∧ (∀ a : Fin 8, u.engine.claims.axes[a] =
        if r.axisMask.getLsbD a then some p
        else if ps.any fun q => decide (s.engine.claims.axes[a] = some q) then none
        else s.engine.claims.axes[a])
    ∧ (∀ v : Fin 4, u.engine.claims.voices[v] =
        if voice = some v then some p
        else if ps.any fun q => decide (s.engine.claims.voices[v] = some q) then none
        else s.engine.claims.voices[v])
    ∧ s.ReturnsGroups u.light (fun g =>
        r.groupMask.getLsbD g = false ∧ ∃ q ∈ ps, s.engine.claims.groups[g] = .player q)
    ∧ { u.sound with voices := s.sound.voices } = s.sound
    ∧ (∀ v : Fin 4, u.sound.voices[v] =
        if ps.any fun q => decide (s.engine.claims.voices[v] = some q) then (s.sound.voices[v]).fadeOut
        else s.sound.voices[v])
    ∧ { u.motion with axes := s.motion.axes } = s.motion
    ∧ ∀ a : Fin 8, u.motion.axes[a] =
        if ps.any fun q => decide (s.engine.claims.axes[a] = some q) then (s.motion.axes[a]).stopRequest
        else s.motion.axes[a] := by
  obtain ⟨halted, notes, nodup, runs⟩ := h
  have store := halted.store
  have any := State.anyRunning_stopped runs
  obtain ⟨light, scenes, whole, returns, rests⟩ := t.behindStops_eq n sc src voice p
  have ends (x : Fin 64) : x ∈ n.ended.map Prod.fst ↔
      ∃ q ∈ ps, ∃ y : Run, s.engine.players[q] = some y ∧ y.scene = x := by
    rw [List.mem_map]
    constructor
    · rintro ⟨e, member, rfl⟩
      obtain ⟨q, stopped, y, held, rfl⟩ := (notes.ended e).1 member
      exact ⟨q, stopped, y, held, rfl⟩
    · rintro ⟨q, stopped, y, held, rfl⟩
      exact ⟨(y.scene, .preempted), (notes.ended _).2 ⟨q, stopped, y, held, rfl⟩, rfl⟩
  have started (x : Fin 64) : (t.startOn sc src voice p).engine.scenes[x] =
      if sc = x then ⟨.running, 0, false, none⟩ else t.engine.scenes[x] := Vector.getElem_setFin ..
  have group (g : Fin 16) : (t.startOn sc src voice p).engine.claims.groups[g] =
      if (t.store.tables.scene sc).groupMask.getLsbD g = true then .player p else t.engine.claims.groups[g] :=
    Claims.claim_group ..
  have player (q : Fin 8) : (t.startOn sc src voice p).engine.players[q] =
      if p = q then some (t.freshRun sc voice (t.engine.running + 1)) else t.engine.players[q] := Vector.getElem_setFin ..
  dsimp only
  rw [whole]
  refine ⟨?_, ?_, halted.engine, ?_, fun q stopped y held => ?_, fun other away spared => ?_, ?_, fun q stopped away => ?_,
    fun q away spared => ?_, fun g => ?_, fun a => ?_, fun v => ?_, ?_, halted.sound, fun v => ?_, halted.motion, fun a => ?_⟩
  · exact (congrArg (fun x : State => { x with light := s.light }) halted.rest :)
  · show t.link.raise (.sceneStarted sc p (t.store.tables.scene sc).priority src) = _
    rw [halted.link, store]
  · refine (rests sc).trans ?_
    rw [if_neg, started, if_pos rfl]
    rw [ends]
    rintro ⟨q, stopped, y, held, same⟩
    exact apart q stopped y held same
  · refine (rests y.scene).trans ?_
    rw [if_pos ((ends _).2 ⟨q, stopped, y, held, rfl⟩)]
    rw [State.restOf_congr (s := s) (by exact store) (by exact halted.frame)]
  · refine (rests other).trans ?_
    rw [if_neg, started, if_neg (Ne.symm away), halted.kept other spared]
    rw [ends]
    rintro ⟨q, stopped, y, held, same⟩
    exact spared q stopped y held same
  · refine (player p).trans ?_
    rw [if_pos rfl, halted.running nodup runs, State.freshRun, State.freshRun, store, halted.frame]
  · refine (player q).trans ?_
    rw [if_neg (Ne.symm away), halted.gone q stopped]
  · obtain ⟨order, kept⟩ := halted.others q spared
    refine ⟨order, (player q).trans ?_⟩
    rw [if_neg (Ne.symm away), kept]
  · refine (group g).trans ?_
    rw [halted.groups g, any, store]
  · refine (Claims.claim_axis ..).trans ?_
    rw [halted.axes a, any, store]
  · refine (Claims.claim_voice ..).trans ?_
    rw [halted.voices v, any]
  · have lit : (t.startOn sc src voice p).light = s.light := halted.light
    have tables : (t.startOn sc src voice p).store = s.store := store
    refine (State.ReturnsGroups.transfer returns lit tables).congr fun g => ?_
    rw [group, store, notes.groups g]
    constructor
    · rintro ⟨⟨q, stopped, runs, owned⟩, free⟩
      split at free
      · cases free
      · next unneeded => exact ⟨Bool.eq_false_iff.2 unneeded, q, stopped, owned⟩
    · rintro ⟨unneeded, q, stopped, owned⟩
      refine ⟨⟨q, stopped, runs q stopped, owned⟩, ?_⟩
      rw [if_neg (Bool.eq_false_iff.1 unneeded), halted.groups g, if_pos]
      rw [any, List.any_eq_true]
      exact ⟨q, stopped, decide_eq_true owned⟩
  · exact (halted.faded v).trans (by rw [any])
  · exact (halted.stopped a).trans (by rw [any])

end Leaves

/-- Settles O22. -/
theorem preemptionTakesFromLowerPriorities : Obligations.PreemptionTakesFromLowerPriorities := by
  unfold Obligations.PreemptionTakesFromLowerPriorities
  refine ⟨fun s sc admissible => ?_, fun s n rest sc p next own mode house => ?_⟩
  · exact ⟨State.preempted_pairwise .., fun p stops => State.preempted_below admissible rfl stops,
      fun p runs owns => State.preempted_owners runs (Engine.ownsNeeded_iff.2 owns), State.preempted_lowest admissible⟩
  dsimp only
  intro enabled ready admissible some empty calm clear free first
  generalize chosen : (if (s.store.tables.scene sc).narration then s.chooseVoice (s.store.tables.scene sc).priority else none)
    = voice at *
  obtain ⟨admitted, started⟩ := State.admission_preempts (s := s.took rest) admissible .link chosen calm clear free first
  have taken := State.trigger_ready (s := s.took rest) (src := .link) house enabled ready
  have runs : ∀ q ∈ s.preempted sc voice, (s.engine.players[q]).isSome = true := fun q stops => by
    obtain ⟨x, held, -⟩ := State.preempted_below admissible chosen stops
    rw [held]
    rfl
  obtain ⟨halted, notes⟩ := (s.took rest).haltsNoting_halted .preempted
    ((s.preempted_pairwise sc voice).imp fun before => Fin.ne_of_lt before)
  obtain ⟨others, link, engine, running, leaves⟩ := State.StopsAndStarts.leaves (sc := sc) (src := .link) (p := p)
    (voice := voice) ⟨halted, notes, (s.preempted_pairwise sc voice).imp fun before => Fin.ne_of_lt before, runs⟩
    fun q stops y held => (clear q stops y held).1
  have none : ((s.took rest).preempting sc .link voice p).engine.queue = [] := (congrArg Engine.queue engine :).trans empty
  rw [admitted, started, State.rescan_empty none, ite_self] at taken
  exact ⟨_, exec_trigger next own mode taken (congrArg SceneRun.state running),
    (congrArg (fun x : State => { x with link := s.link }) others :), link, engine, running, leaves⟩

end Sys2Proof.Machine
end

section
/-! Proofs about the safety inputs (R179): what HOUSE and ESTOP events publish, and what they do to every block. -/

namespace Sys2Proof.Machine

/-! ### Holds (R159, R160) -/

section Holds

variable {x : Axis} {r : AxisRec}

theorem Axis.holdEnds_held (held : x.state = .held) : x.holdEnds r = x.startWait r := if_pos held

theorem Axis.startWait_resumes (now : r.resume = 0) : x.startWait r = x.resume r := if_pos now

/-- R159, R160: what the beginning and the end of a hold do, by the state of the axis. -/
theorem Axis.actsOnHolds (x : Axis) (r : AxisRec) : x.ActsOnHolds r := by
  unfold Axis.ActsOnHolds
  refine ⟨fun target profile moving toward kind => ?_, fun homing => ?_, fun stopping next => ?_,
    fun stopping other => ?_, fun held => ⟨?_, Axis.holdEnds_held held⟩, fun rests => ?_, fun free => if_neg free,
    fun later => if_neg later, fun now => ⟨fun m follows => ⟨fun homed there => ?_, fun homed away => ?_, fun lost => ?_⟩,
    fun follows => ?_⟩⟩
  · simp only [Axis.holdBegins, moving, toward, kind, Option.getD_some]
  · simp only [Axis.holdBegins, homing]
  · simp only [Axis.holdBegins, stopping, if_pos next]
  · simp only [Axis.holdBegins, stopping, if_neg other]
  · simp only [Axis.holdBegins, held]
  · rcases rests with rests | rests | rests <;> simp only [Axis.holdBegins, rests]
  · rw [Axis.startWait_resumes now, Axis.resume_move follows, if_pos homed]
    exact if_pos there
  · rw [Axis.startWait_resumes now, Axis.resume_move follows, if_pos homed]
    refine (if_neg away).trans ?_
    rw [Axis.beginMove, Direction.toward]
    by_cases ahead : x.position < r.limit m.target
    · rw [if_pos ahead, if_pos ahead]
    · rw [if_neg ahead, if_pos (by omega), if_neg ahead]
  · rw [Axis.startWait_resumes now, Axis.resume_move follows, if_neg (by rw [lost]; decide)]
    rfl
  · rw [Axis.startWait_resumes now, Axis.resume_home follows]
    rfl

end Holds

/-! ### Publications (R179) -/

section Publishes

variable {x : Safety} {asserted : Bool}

/-- R179: a changed or first HOUSE state is published as it was sampled. -/
theorem Safety.stepHouse_publishes
    (news : (x.published = true ∧ x.asserted ≠ asserted ∧ 1 ≤ x.count) ∨ x.published = false) :
    x.stepHouse asserted = ⟨asserted, 0, true, x.frame⟩ ∧ x.publishes (x.stepHouse asserted) = true := by
  unfold Safety.stepHouse Safety.publishes
  rcases news with ⟨told, changed, again⟩ | first
  · rw [if_pos told, Safety.filter, if_neg (Ne.symm changed), if_pos again, told]
    exact ⟨rfl, decide_eq_true changed⟩
  · rw [if_neg (by rw [first]; decide), first]
    exact ⟨rfl, rfl⟩

theorem Safety.stepHouse_quiet (told : x.published = true)
    (same : ¬ (x.published = true ∧ x.asserted ≠ asserted ∧ 1 ≤ x.count)) :
    x.publishes (x.stepHouse asserted) = false := by
  unfold Safety.stepHouse Safety.publishes
  rw [if_pos told, told, Safety.filter]
  split
  · exact decide_eq_false (Classical.not_not.2 rfl)
  · next changed =>
    rw [if_neg fun again => same ⟨told, Ne.symm changed, again⟩]
    exact decide_eq_false (Classical.not_not.2 rfl)

/-- R179: a changed or first ESTOP state is published as it was sampled. -/
theorem Safety.stepEstop_publishes
    (news : (x.published = true ∧ x.asserted ≠ asserted ∧ (asserted = true ∨ 1 ≤ x.count)) ∨ x.published = false) :
    x.stepEstop asserted = ⟨asserted, 0, true, x.frame⟩ ∧ x.publishes (x.stepEstop asserted) = true := by
  unfold Safety.stepEstop Safety.publishes
  rcases news with ⟨told, changed, now⟩ | first
  · rw [if_pos told, told]
    by_cases up : (asserted && !x.asserted) = true
    · rw [if_pos up]
      obtain ⟨rfl, -⟩ := Bool.and_eq_true_iff.1 up
      exact ⟨rfl, decide_eq_true changed⟩
    · have again : 1 ≤ x.count := now.resolve_left fun high => up (by
        rw [high, Bool.true_and, Bool.not_eq_true']
        exact Bool.eq_false_iff.2 fun same => changed (same.trans high.symm))
      rw [if_neg up, Safety.filter, if_neg (Ne.symm changed), if_pos again]
      exact ⟨by rw [told], decide_eq_true changed⟩
  · rw [if_neg (by rw [first]; decide), first]
    exact ⟨rfl, rfl⟩

theorem Safety.stepEstop_quiet (told : x.published = true)
    (same : ¬ (x.published = true ∧ x.asserted ≠ asserted ∧ (asserted = true ∨ 1 ≤ x.count))) :
    x.publishes (x.stepEstop asserted) = false := by
  unfold Safety.stepEstop Safety.publishes
  rw [if_pos told, told]
  split
  · next up =>
    obtain ⟨high, low⟩ := Bool.and_eq_true_iff.1 up
    exact absurd ⟨told, by rw [high]; exact fun is => by rw [is] at low; exact Bool.false_ne_true low, .inl high⟩ same
  · rw [Safety.filter]
    split
    · exact decide_eq_false (Classical.not_not.2 rfl)
    · next changed =>
      rw [if_neg fun again => same ⟨told, Ne.symm changed, .inr again⟩]
      exact decide_eq_false (Classical.not_not.2 rfl)

end Publishes

/-! ### HOUSE -/

section House

variable {s : State} {asserted : Bool} {f : Nat}

/-- R179: the part at a HOUSE event, before the rescan of its release. -/
def State.houseTold (s : State) (asserted : Bool) (f : Nat) : State :=
  let told := { s.atFrame f with monitor := { s.monitor with house := ⟨asserted, 0, true, some f⟩ } }
  (told.houseTaken asserted).holdsChanged told

theorem State.houseFrame_publishes (new : s.monitor.house.frame ≠ some f)
    (news : (s.monitor.house.published = true ∧ s.monitor.house.asserted ≠ asserted ∧ 1 ≤ s.monitor.house.count)
      ∨ s.monitor.house.published = false) :
    (s.atFrame f).houseFrame asserted f =
      if s.monitor.house.published = true ∨ asserted = true then
        (if asserted then s.houseTold asserted f else (s.houseTold asserted f).rescan).raise (.house asserted)
      else (if asserted then s.houseTold asserted f else (s.houseTold asserted f).rescan) := by
  obtain ⟨stepped, publishes⟩ := Safety.stepHouse_publishes news
  unfold State.houseFrame
  dsimp only
  rw [show (s.atFrame f).monitor = s.monitor from rfl, if_neg new, if_pos publishes, stepped, State.publishHouse_eq,
    Safety.reports]
  refine ite_of_iff ?_
  rw [Bool.or_eq_true]

theorem State.houseTold_channel (s : State) (asserted : Bool) (f : Nat) (c : Fin 48) :
    (s.houseTold asserted f).light.channels[c] = if (s.store.tables.channel c).participates then
      { s.light.channels[c] with
        staged := if asserted then ⟨(s.store.tables.channel c).house, true⟩ else ⟨(s.light.channels[c]).gated, false⟩ }
      else s.light.channels[c] := by
  refine (Lighting.houseEvent_channel (l := s.light) s.store.tables asserted c).trans ?_
  by_cases own : (s.store.tables.channel c).participates = true
  · rw [if_pos own, if_pos own, ChannelRec.stage, own, Bool.and_true]
  · rw [if_neg own, if_neg own]

theorem State.houseTold_axis (s : State) (asserted : Bool) (f : Nat) (a : Fin 8) :
    (s.houseTold asserted f).motion.axes[a] =
      if s.holdPresent a = (s.houseTold asserted f).holdPresent a then s.motion.axes[a]
      else if (s.houseTold asserted f).holdPresent a then (s.motion.axes[a]).holdBegins
      else (s.motion.axes[a]).holdEnds (s.store.tables.axis a) := by
  refine (State.mapAxes_axis ..).trans ?_
  rfl

theorem State.houseTold_rest (s : State) (asserted : Bool) (f : Nat) :
    { s.houseTold asserted f with light := s.light, motion := s.motion } =
      { s with frame := some f, monitor := { s.monitor with house := ⟨asserted, 0, true, some f⟩ },
               engine := { s.engine with house := asserted }, sound := { s.sound with house := asserted } } := rfl

theorem State.houseTold_light (s : State) (asserted : Bool) (f : Nat) :
    { (s.houseTold asserted f).light with channels := s.light.channels } = { s.light with house := asserted } := by
  unfold State.houseTold State.holdsChanged State.mapAxes State.houseTaken Lighting.houseEvent
  dsimp only
  rfl

theorem State.houseTold_motion (s : State) (asserted : Bool) (f : Nat) :
    { (s.houseTold asserted f).motion with axes := s.motion.axes } = { s.motion with house := asserted } := rfl

/-- R32, R179: a HOUSE event that is published. -/
theorem exec_houseEvent (live : s.inReset = false) (new : s.monitor.house.frame ≠ some f)
    (news : (s.monitor.house.published = true ∧ s.monitor.house.asserted ≠ asserted ∧ 1 ≤ s.monitor.house.count)
      ∨ s.monitor.house.published = false) :
    exec (.houseEvent asserted f) s = .next (State.finishLink
      (if s.monitor.house.published = true ∨ asserted = true then
        (if asserted then s.houseTold asserted f else (s.houseTold asserted f).rescan).raise (.house asserted)
      else (if asserted then s.houseTold asserted f else (s.houseTold asserted f).rescan))) := by
  rw [← State.houseFrame_publishes new news]
  exact congrArg Host.Outcome.next (State.frameStep_due _ live (Safety.stepHouse_publishes news).2 new)

end House

/-! ### ESTOP -/

section Estop

variable {s : State} {asserted : Bool} {f : Nat}

/-- R161, R179: the part at an ESTOP event, before the stops. -/
def State.estopTold (s : State) (asserted : Bool) (f : Nat) : State :=
  State.estopTaken { s.atFrame f with monitor := { s.monitor with estop := ⟨asserted, 0, true, some f⟩ } } asserted

theorem State.estopFrame_publishes (new : s.monitor.estop.frame ≠ some f)
    (news : (s.monitor.estop.published = true ∧ s.monitor.estop.asserted ≠ asserted
      ∧ (asserted = true ∨ 1 ≤ s.monitor.estop.count)) ∨ s.monitor.estop.published = false) :
    (s.atFrame f).estopFrame asserted f =
      let t := if asserted && (s.estopTold asserted f).engine.anyAxisClaimed then
          (s.estopTold asserted f).estopPlayers.rescan else s.estopTold asserted f
      if s.monitor.estop.published = true ∨ asserted = true then t.raise (.estop asserted) else t := by
  obtain ⟨stepped, publishes⟩ := Safety.stepEstop_publishes news
  unfold State.estopFrame
  dsimp only
  rw [show (s.atFrame f).monitor = s.monitor from rfl, if_neg new, if_pos publishes, stepped, State.publishEstop_eq,
    Safety.reports]
  refine ite_of_iff ?_
  rw [Bool.or_eq_true]

theorem State.Halted.axesOf {u : State} {ps : List (Fin 8)} {reason : StopReason} {scene : Fin 64 → SceneRun}
    (h : s.Halted u ps reason scene) {p : Fin 8} (fresh : p ∉ ps) : u.engine.axesOf p = s.engine.axesOf p := by
  unfold Engine.axesOf
  congr 1
  funext a
  rw [h.axes a]
  split
  · next any =>
    obtain ⟨q, member, held⟩ := List.any_eq_true.1 any
    rw [of_decide_eq_true (Bool.and_eq_true_iff.1 held).2]
    exact (decide_eq_false fun same => fresh (by cases same)).trans
      (decide_eq_false fun same => by cases same; exact fresh member).symm
  · rfl

/-- R59: the players that claim an axis. -/
def State.axisPlayers (s : State) : List (Fin 8) :=
  (List.finRange 8).filter fun (p : Fin 8) => !(s.engine.axesOf p).isEmpty

/-- R59: the players that claim an axis are stopped, in rising player number. -/
theorem State.estopPlayers_eq (rests : ∀ p ∈ s.axisPlayers, ∀ r : Run, s.engine.players[p] = some r →
    s.NoAgain r.scene .estop) : s.estopPlayers = s.axisPlayers.foldl (fun t p => t.stopPlayer p .estop) s := by
  have part (l : List (Fin 8)) (nodup : l.Nodup)
      (within : ∀ p ∈ l.filter fun (p : Fin 8) => !(s.engine.axesOf p).isEmpty, ∀ r : Run, s.engine.players[p] = some r →
        s.NoAgain r.scene .estop) :
      l.foldl (fun (t : State) p => if (t.engine.axesOf p).isEmpty then t else t.stopPlayer p .estop) s =
        (l.filter fun (p : Fin 8) => !(s.engine.axesOf p).isEmpty).foldl (fun t p => t.stopPlayer p .estop) s := by
    induction l using snocInduction with
    | nil => rfl
    | append_singleton l p ih =>
      rw [List.nodup_append] at nodup
      obtain ⟨before, -, apart⟩ := nodup
      rw [List.filter_append] at within
      rw [List.filter_append, List.foldl_append, List.foldl_append,
        ih before fun q member => within q (List.mem_append_left _ member)]
      obtain ⟨u, light, stopped, halted, -⟩ := State.foldl_stopPlayer_halted (before.filter _)
        fun q member => within q (List.mem_append_left _ member)
      have claims : ({ u with light := light } : State).engine.axesOf p = s.engine.axesOf p :=
        halted.axesOf fun old => apart p (List.mem_filter.1 old).1 p (List.mem_singleton.2 rfl) rfl
      rw [stopped, List.foldl_cons, List.foldl_nil, claims]
      cases none : (s.engine.axesOf p).isEmpty with
      | true => rw [if_pos rfl, List.filter_cons_of_neg (by simp [none])]; rfl
      | false => rw [if_neg Bool.false_ne_true, List.filter_cons_of_pos (by simp [none])]; rfl
  exact part _ (List.nodup_finRange 8) rests

theorem State.estopTold_rest (s : State) (asserted : Bool) (f : Nat) :
    { s.estopTold asserted f with motion := s.motion } =
      { s with frame := some f, monitor := { s.monitor with estop := ⟨asserted, 0, true, some f⟩ },
               engine := { s.engine with estop := asserted } } := rfl

theorem State.estopTold_motion (s : State) (asserted : Bool) (f : Nat) :
    { (s.estopTold asserted f).motion with axes := s.motion.axes } = { s.motion with estop := asserted } := rfl

/-- R161: an axis at an ESTOP event; a stop request changes nothing of it. -/
theorem State.estopTold_axis (s : State) (asserted : Bool) (f : Nat) (a : Fin 8) :
    (s.estopTold asserted f).motion.axes[a] =
      (if asserted then
        { s.motion.axes[a] with
          state := .fault, homed := false, cause := some .estop, rate := 0, acc := 0, target := none,
          profile := none, ending := none, follow := none, pendingMove := none, wait := none }
      else if (s.motion.axes[a]).state = .fault ∧ (s.motion.axes[a]).cause = some .estop then
        { s.motion.axes[a] with state := .unhomed, cause := none }
      else s.motion.axes[a]) := by
  refine (State.mapAxes_axis ..).trans ?_
  cases asserted <;> rfl

/-- R59, R161: what is left of the Scene Engine and the Motion Engine once `asserted` has acted, with the players of `ps`
stopped. -/
theorem State.estopTold_stops (live : s.inReset = false) (new : s.monitor.estop.frame ≠ some f)
    (news : (s.monitor.estop.published = true ∧ s.monitor.estop.asserted ≠ asserted
      ∧ (asserted = true ∨ 1 ≤ s.monitor.estop.count)) ∨ s.monitor.estop.published = false)
    (ps : List (Fin 8)) (named : ps = if asserted then s.axisPlayers else [])
    (calm : (∀ p ∈ ps, s.engine.players[p] = none) ∨ s.engine.queue = [] ∧ s.store.attractRunning = false)
    (still : ∀ p ∈ ps, ∀ r : Run, s.engine.players[p] = some r →
      (s.engine.scenes[r.scene]).again = false ∨ s.engine.house = true) :
    ∃ u : State, (s.estopTold asserted f).Halted u ps .estop (s.estopTold asserted f).restOf
      ∧ exec (.estopEvent asserted f) s = .next (State.finishLink
        (if s.monitor.estop.published = true ∨ asserted = true then u.raise (.estop asserted) else u)) := by
  have done : exec (.estopEvent asserted f) s = .next ((s.atFrame f).estopFrame asserted f).finishLink :=
    congrArg Host.Outcome.next (State.frameStep_due _ live (Safety.stepEstop_publishes news).2 new)
  rw [done, State.estopFrame_publishes new news]
  dsimp only
  have nodup : s.axisPlayers.Nodup := (List.nodup_finRange 8).filter _
  cases asserted with
  | false =>
    rw [named]
    exact ⟨_, .nil, rfl⟩
  | true =>
    rw [if_pos rfl] at named
    subst named
    have rests : ∀ p ∈ (s.estopTold true f).axisPlayers, ∀ r : Run, (s.estopTold true f).engine.players[p] = some r →
        (s.estopTold true f).NoAgain r.scene .estop := fun p member r held => .inr (still p member r held)
    by_cases claimed : (s.estopTold true f).engine.anyAxisClaimed = true
    · obtain ⟨p, -, both⟩ := List.any_eq_true.1 claimed
      obtain ⟨runs, owns⟩ := Bool.and_eq_true_iff.1 both
      obtain ⟨empty, off⟩ := calm.resolve_left fun free => by
        have none := free p (List.mem_filter.2 ⟨List.mem_finRange p, owns⟩)
        rw [show (s.estopTold true f).engine.players[p] = s.engine.players[p] from rfl, none] at runs
        cases runs
      obtain ⟨u, light, stopped, halted, same⟩ := State.foldl_stopPlayer_halted (s := s.estopTold true f) nodup rests
      have lit := same off
      rw [← halted.light] at lit
      rw [lit] at stopped
      refine ⟨u, halted, ?_⟩
      have whole : (s.estopTold true f).estopPlayers = u := (State.estopPlayers_eq rests).trans stopped
      rw [claimed, Bool.and_true, if_pos rfl, whole, State.rescan_empty (halted.queue.trans empty)]
    · refine ⟨s.estopTold true f, ?_, ?_⟩
      · have free : ∀ p ∈ s.axisPlayers, (s.estopTold true f).engine.players[p] = none := fun p member => by
          rw [← Option.not_isSome_iff_eq_none]
          exact fun runs => claimed (List.any_eq_true.2 ⟨p, List.mem_finRange p,
            Bool.and_eq_true_iff.2 ⟨runs, (List.mem_filter.1 member).2⟩⟩)
        have stays : s.axisPlayers.foldl (fun t p => t.haltWith (s.estopTold true f).restOf .estop p) (s.estopTold true f) =
            s.estopTold true f := by
          generalize s.axisPlayers = l at free
          induction l with
          | nil => rfl
          | cons p l ih =>
            rw [List.foldl_cons, State.haltWith_free (free p List.mem_cons_self)]
            exact ih fun q member => free q (List.mem_cons_of_mem _ member)
        have halted := State.Halted.foldl (s.estopTold true f) (s.estopTold true f).restOf .estop nodup
        rwa [stays] at halted
      · rw [Bool.eq_false_iff.2 claimed, Bool.and_false, if_neg Bool.false_ne_true]

end Estop

/-! ### The statement -/

section Told

variable {s : State} {asserted : Bool} {f : Nat}

/-- R59: the record of player `p` when the ESTOP event stops it. -/
def State.estopStopped (s : State) (asserted : Bool) (p : Fin 8) : Option Run :=
  if asserted && (List.finRange 8).any fun a => decide (s.engine.claims.axes[a] = some p) then s.engine.players[p] else none

/-- R59: the players that an ESTOP event stops. -/
def State.estopList (s : State) (asserted : Bool) : List (Fin 8) := if asserted then s.axisPlayers else []

theorem State.mem_estopList {p : Fin 8} : p ∈ s.estopList asserted ↔
    (asserted && (List.finRange 8).any fun a => decide (s.engine.claims.axes[a] = some p)) = true := by
  unfold State.estopList
  cases asserted with
  | false => exact ⟨nofun, nofun⟩
  | true => simp [State.axisPlayers, Engine.axesOf]

theorem State.estopStopped_some {p : Fin 8} {r : Run} :
    s.estopStopped asserted p = some r ↔ p ∈ s.estopList asserted ∧ s.engine.players[p] = some r := by
  rw [State.mem_estopList, State.estopStopped]
  split
  · next inside => rw [inside]; exact (and_iff_right rfl).symm
  · next outside => exact ⟨nofun, fun both => absurd both.1 outside⟩

theorem State.estopStopped_none {p : Fin 8} :
    s.estopStopped asserted p = none ↔ p ∉ s.estopList asserted ∨ s.engine.players[p] = none := by
  rw [State.mem_estopList, State.estopStopped]
  split
  · next inside => exact (or_iff_right (Classical.not_not.2 inside)).symm
  · next outside => exact iff_of_true rfl (.inl outside)

/-- R59: whether a claim is that of a player that the ESTOP event stops. -/
theorem State.anyRunning_estop (claim : Option (Fin 8)) :
    (s.anyRunning (s.estopList asserted) fun q => decide (claim = some q)) =
      claim.any fun p => (s.estopStopped asserted p).isSome := by
  cases claim with
  | none => simp [State.anyRunning]
  | some p =>
    rw [Bool.eq_iff_iff, State.anyRunning, List.any_eq_true, Option.any_some, Option.isSome_iff_exists]
    simp only [State.estopStopped_some, exists_and_left]
    constructor
    · rintro ⟨q, member, held⟩
      obtain ⟨runs, owner⟩ := Bool.and_eq_true_iff.1 held
      cases of_decide_eq_true owner
      exact ⟨member, Option.isSome_iff_exists.1 runs⟩
    · rintro ⟨member, running⟩
      exact ⟨p, member, Bool.and_eq_true_iff.2 ⟨Option.isSome_iff_exists.2 running, decide_eq_true rfl⟩⟩

theorem State.anyRunning_estopGroup {p : Fin 8} (owner : GroupOwner) (owned : owner = .player p) :
    (s.anyRunning (s.estopList asserted) fun q => decide (owner = .player q)) = (s.estopStopped asserted p).isSome := by
  have claim := State.anyRunning_estop (s := s) (asserted := asserted) (some p)
  rw [Option.any_some] at claim
  rw [← claim, owned]
  simp only [GroupOwner.player.injEq, Option.some.injEq]

/-- R193: the reports of the stops of an ESTOP event. -/
theorem State.stopReports_estop (l : Link) : s.stopReports .estop (s.estopList asserted) l =
    (List.finRange 8).foldl
      (fun (l : Link) (p : Fin 8) => match s.estopStopped asserted p with
        | some r => l.raise (.sceneEnded r.scene p .estop r.cue)
        | none => l) l := by
  have one (l : Link) (p : Fin 8) : (match s.estopStopped asserted p with
      | some r => l.raise (.sceneEnded r.scene p .estop r.cue)
      | none => l) = if p ∈ s.estopList asserted then s.stopReports .estop [p] l else l := by
    by_cases inside : p ∈ s.estopList asserted
    · rw [if_pos inside, State.estopStopped, if_pos (State.mem_estopList.1 inside)]
      rfl
    · rw [if_neg inside, State.estopStopped_none.2 (.inl inside)]
  have listed : s.estopList asserted = (List.finRange 8).filter fun p => decide (p ∈ s.estopList asserted) := by
    cases asserted with
    | false => exact (List.filter_eq_nil_iff.2 fun p _ => by simp [State.estopList]).symm
    | true =>
      refine List.filter_congr fun p inside => ?_
      rw [Bool.eq_iff_iff, decide_eq_true_iff, State.estopList, if_pos rfl, State.axisPlayers, List.mem_filter]
      exact (and_iff_right inside).symm
  simp only [one]
  conv => lhs; rw [listed, State.stopReports, List.foldl_filter]
  simp only [decide_eq_true_eq]
  rfl

end Told

/-- Settles O49. -/
theorem safetyInputsArePublished : Obligations.SafetyInputsArePublished := by
  unfold Obligations.SafetyInputsArePublished
  refine ⟨Axis.actsOnHolds, fun s asserted f live new => ⟨fun quiet told => ?_, fun news => ?_⟩,
    fun s asserted f live new => ⟨fun quiet told => ?_, ?_⟩⟩
  · exact congrArg Host.Outcome.next (State.frameStep_idle _ (.inr (.inl (Safety.stepHouse_quiet told quiet))))
  · have rest := s.houseTold_rest asserted f
    have light := s.houseTold_light asserted f
    have motion := s.houseTold_motion asserted f
    have channels := s.houseTold_channel asserted f
    have axes := s.houseTold_axis asserted f
    have done := exec_houseEvent live new news
    generalize told : s.houseTold asserted f = t at *
    refine ⟨t, done, ?_, (congrArg State.pending rest :), (congrArg State.store rest :), (congrArg State.frame rest :),
      (congrArg State.link rest :), (congrArg State.monitor rest :), (congrArg State.engine rest :),
      (congrArg State.sound rest :), light, channels, (congrArg Motion.house motion :), (congrArg Motion.estop motion :), axes⟩
    rintro (empty | idle)
    · exact State.rescan_empty ((congrArg (fun x : State => x.engine.queue) rest :).trans empty)
    · exact State.rescan_idle fun is => idle ((congrArg (fun x : State => x.store.mode) rest :).symm.trans is)
  · exact congrArg Host.Outcome.next (State.frameStep_idle _ (.inr (.inl (Safety.stepEstop_quiet told quiet))))
  · intro news
    show (∀ p : Fin 8, s.estopStopped asserted p = none) ∨ _ → (∀ (p : Fin 8) (r : Run), s.estopStopped asserted p = some r → _) →
      ∃ t : State, exec (.estopEvent asserted f) s = .next t.finishLink ∧ _
    intro calm still
    obtain ⟨u, halted, done⟩ := State.estopTold_stops live new news (s.estopList asserted) rfl
      (calm.imp_left fun free p inside => (State.estopStopped_none.1 (free p)).resolve_left (Classical.not_not.2 inside))
      fun p inside r held => still p r (State.estopStopped_some.2 ⟨inside, held⟩)
    have rest := s.estopTold_rest asserted f
    have motion := s.estopTold_motion asserted f
    have axes := s.estopTold_axis asserted f
    have faulted : asserted = true → ∀ a : Fin 8, ((s.estopTold asserted f).motion.axes[a]).stopRequest =
        (s.estopTold asserted f).motion.axes[a] := fun high a => by
      rw [axes a, high, if_pos rfl]
      rfl
    generalize s.estopTold asserted f = base at halted rest motion axes faulted
    have store : base.store = s.store := (congrArg State.store rest :)
    have engine : base.engine = { s.engine with estop := asserted } := (congrArg State.engine rest :)
    have frame : base.frame = some f := (congrArg State.frame rest :)
    have sound : base.sound = s.sound := (congrArg State.sound rest :)
    have any (owner : Fin 8 → Bool) : base.anyRunning (s.estopList asserted) owner = s.anyRunning (s.estopList asserted) owner := by
      rw [State.anyRunning, State.anyRunning, engine]
    refine ⟨{ u with link := if s.monitor.estop.published = true ∨ asserted = true then u.link.raise (.estop asserted) else u.link },
      ?_, halted.pending.trans (congrArg State.pending rest :), halted.store.trans store, halted.frame.trans frame,
      halted.light.trans (congrArg State.light rest :), ?_, halted.monitor.trans (congrArg State.monitor rest :), ?_,
      fun p r stops => ?_, fun p stays => ?_, fun sc apart => ?_, fun g => ?_, fun a => ?_, fun v => ?_, ?_, fun v => ?_, ?_, ?_,
      fun a => ?_⟩
    · rw [done]
      split <;> rfl
    · have link : base.link = s.link := (congrArg State.link rest :)
      have told : u.link = (List.finRange 8).foldl (fun (l : Link) (p : Fin 8) => match s.estopStopped asserted p with
          | some r => l.raise (.sceneEnded r.scene p .estop r.cue)
          | none => l) s.link := by
        rw [← State.stopReports_estop, halted.link, link, State.stopReports_congr (s := s)]
        rw [engine]
      dsimp only
      rw [told]
      rfl
    · have kept := halted.engine
      rw [engine] at kept
      exact kept
    · obtain ⟨inside, held⟩ := State.estopStopped_some.1 stops
      have runs : base.engine.players[p] = some r := by rw [engine]; exact held
      refine ⟨halted.gone p inside, (halted.ended p inside r runs).trans ?_⟩
      rw [State.restOf_congr (s := { s with frame := some f }) store frame]
    · rcases State.estopStopped_none.1 stays with outside | free
      · obtain ⟨order, kept⟩ := halted.others p outside
        rw [engine] at kept
        exact ⟨order, kept⟩
      · by_cases inside : p ∈ s.estopList asserted
        · refine ⟨0, (halted.gone p inside).trans ?_⟩
          rw [free]
          rfl
        · obtain ⟨order, kept⟩ := halted.others p inside
          rw [engine] at kept
          exact ⟨order, kept⟩
    · have kept := halted.kept sc fun p inside r held => apart p r (State.estopStopped_some.2 ⟨inside, by rwa [engine] at held⟩)
      rw [engine] at kept
      exact kept
    · have group := halted.groups g
      rw [any, engine] at group
      refine group.trans ?_
      cases owner : s.engine.claims.groups[g] with
      | none => simp [State.anyRunning]
      | direct => simp [State.anyRunning]
      | player p => rw [State.anyRunning_estopGroup (.player p) rfl]; rfl
    · have axis := halted.axes a
      rw [any, engine, State.anyRunning_estop] at axis
      exact axis
    · have voice := halted.voices v
      rw [any, engine, State.anyRunning_estop] at voice
      exact voice
    · have kept := halted.sound
      rw [sound] at kept
      exact kept
    · have faded := halted.faded v
      rw [any, engine, State.anyRunning_estop, sound] at faded
      exact faded
    · exact (congrArg Motion.estop halted.motion :).trans (congrArg Motion.estop motion :)
    · exact (congrArg Motion.house halted.motion :).trans (congrArg Motion.house motion :)
    · have stopped := halted.stopped a
      refine Eq.trans ?_ (axes a)
      refine stopped.trans ?_
      rw [any]
      split
      · next some =>
        refine faulted ?_ a
        obtain ⟨q, member, -⟩ := List.any_eq_true.1 some
        exact (Bool.and_eq_true_iff.1 (State.mem_estopList.1 member)).1
      · rfl

end Sys2Proof.Machine
end

section
/-! Proofs about zones (R167, R168) and buttons (R171 to R173, R176), with the triggers that they raise (R22). -/

namespace Sys2Proof.Machine

/-! ### The triggers of one event (R22) -/

section Raised

variable {s : State} {src : Source}

/-- R22: one more trigger of an event, with its outcome. -/
def State.alsoTrigger (src : Source) (x : State × List TriggerOutcome) (sc : Fin 64) : State × List TriggerOutcome :=
  ((x.1.trigger sc src).1, x.2 ++ [(x.1.trigger sc src).2])

/-- R22: the enabled scenes that list a source, in rising number. -/
def State.listing (s : State) (src : Source) : List (Fin 64) :=
  (List.finRange 64).filter fun (sc : Fin 64) =>
    (s.store.tables.scene sc).enabled && decide (src ∈ (s.store.tables.scene sc).sources)

theorem State.trigger_store (s : State) (sc : Fin 64) (src : Source) : (s.trigger sc src).1.store = s.store :=
  (congrArg State.store (EngineOnly.trigger s sc src).rest :)

/-- R22: in SHOW with triggers-enabled, each enabled scene that lists the source is triggered. -/
theorem State.raiseTriggers_eq (s : State) (src : Source) :
    s.raiseTriggers src = if s.store.mode = .running ∧ s.store.triggersOn = true then
      (s.listing src).foldl (State.alsoTrigger src) (s, []) else (s, []) := by
  have part (l : List (Fin 64)) (x : State × List TriggerOutcome) (store : x.1.store = s.store) :
      l.foldl (fun (x : State × List TriggerOutcome) (sc : Fin 64) =>
        if (x.1.store.tables.scene sc).enabled && (x.1.store.tables.scene sc).sources.contains src then
          ((x.1.trigger sc src).1, x.2 ++ [(x.1.trigger sc src).2]) else x) x =
      (l.filter fun (sc : Fin 64) => (s.store.tables.scene sc).enabled
        && decide (src ∈ (s.store.tables.scene sc).sources)).foldl (State.alsoTrigger src) x := by
    induction l generalizing x with
    | nil => rfl
    | cons sc l ih =>
      rw [List.foldl_cons, List.filter_cons, store, List.contains_eq_mem]
      split
      · exact ih _ ((State.trigger_store ..).trans store)
      · exact ih _ store
  unfold State.raiseTriggers
  dsimp only
  rw [part _ _ rfl]
  refine ite_of_iff ?_
  rw [Bool.and_eq_true, decide_eq_true_iff]

end Raised

/-! ### Zones -/

section Zones

variable {s : State} {z : Fin 12} {f : Nat}

/-- R167: a zone with no entry or clear time left becomes OCCUPIED or CLEAR. -/
theorem Zone.step_occupied {x : Zone} {r : ZoneRec} (entering : x.state = .entering) (last : r.entry ≤ x.counter + 1) :
    x.step r true = { x with state := .occupied, counter := 0, raw := true } := by
  have ends : x.entryEnds r = true := by rw [Zone.entryEnds, decide_eq_true entering, decide_eq_true last]; rfl
  unfold Zone.step
  rw [entering]
  exact if_pos ends

theorem Zone.step_clear {x : Zone} {r : ZoneRec} (emptying : x.state = .emptying) (last : r.clear ≤ x.counter + 1) :
    x.step r false = { x with state := .clear, counter := 0, raw := false } := by
  have ends : x.clearEnds r = true := by rw [Zone.clearEnds, decide_eq_true emptying, decide_eq_true last]; rfl
  unfold Zone.step
  rw [emptying]
  exact if_pos ends

/-- R167: the part in show frame `f` with zone `z` in a new state. -/
def State.zoneTold (s : State) (z : Fin 12) (f : Nat) (state : ZoneState) (raw : Bool) : State :=
  { s with frame := some f, monitor := { s.monitor with
      zones := s.monitor.zones.set z ⟨state, 0, (s.monitor.zones[z]).language, raw, some f⟩ } }

theorem State.zoneFrame_occupied (new : (s.monitor.zones[z]).frame ≠ some f)
    (entering : (s.monitor.zones[z]).state = .entering)
    (last : (s.store.tables.zone z).entry ≤ (s.monitor.zones[z]).counter + 1) :
    (s.atFrame f).zoneFrame z true f =
      ((((s.zoneTold z f .occupied true).holdsChanged s).raise (.zoneState z .occupied)).raiseTriggers (.zoneEntry z)).1 := by
  unfold State.zoneFrame
  dsimp only
  rw [show (s.atFrame f).monitor = s.monitor from rfl, show (s.atFrame f).store = s.store from rfl, if_neg new,
    Zone.step_occupied entering last]
  unfold Zone.news
  rw [entering]
  rfl

theorem State.zoneFrame_clear (new : (s.monitor.zones[z]).frame ≠ some f)
    (emptying : (s.monitor.zones[z]).state = .emptying)
    (last : (s.store.tables.zone z).clear ≤ (s.monitor.zones[z]).counter + 1) :
    (s.atFrame f).zoneFrame z false f =
      ((((s.zoneTold z f .clear false).holdsChanged s).raise (.zoneState z .clear)).raiseTriggers (.zoneClear z)).1 := by
  unfold State.zoneFrame
  dsimp only
  rw [show (s.atFrame f).monitor = s.monitor from rfl, show (s.atFrame f).store = s.store from rfl, if_neg new,
    Zone.step_clear emptying last]
  unfold Zone.news
  rw [emptying]
  rfl

/-- R159: the hold condition of an axis once a zone has stepped. -/
theorem State.zoneTold_holdPresent (s : State) (z : Fin 12) (f : Nat) (state : ZoneState) (raw : Bool) (a : Fin 8) :
    (s.zoneTold z f state raw).holdPresent a =
      if (s.store.tables.axis a).guard = some z then s.motion.house || decide (state ≠ .clear) else s.holdPresent a := by
  unfold State.holdPresent
  show (s.motion.house || match (s.store.tables.axis a).guard with
    | none => false
    | some y => decide (((s.monitor.zones.set z ⟨state, 0, (s.monitor.zones[z]).language, raw, some f⟩)[y]).state ≠ .clear)) = _
  cases guard : (s.store.tables.axis a).guard with
  | none => rw [if_neg nofun]
  | some y =>
    dsimp only
    rw [Vector.getElem_setFin]
    by_cases same : z = y
    · rw [if_pos same, if_pos (congrArg some same.symm)]
    · rw [if_neg same, if_neg fun eq => same (Option.some.inj eq).symm]

theorem State.holdPresent_guard {a : Fin 8} (guards : (s.store.tables.axis a).guard = some z) :
    s.holdPresent a = (s.motion.house || decide ((s.monitor.zones[z]).state ≠ .clear)) := by
  rw [State.holdPresent, guards]

/-- R159: with no hold condition changed no axis acts. -/
theorem State.holdsChanged_same {t : State} (same : ∀ a, s.holdPresent a = t.holdPresent a) : t.holdsChanged s = t := by
  have axes : (Vector.ofFn fun a : Fin 8 =>
      (t.motion.axes[a]).holdChange (t.store.tables.axis a) (s.holdPresent a) (t.holdPresent a)) = t.motion.axes := by
    ext1 i hi
    rw [Vector.getElem_ofFn]
    exact if_pos (same ⟨i, hi⟩)
  unfold State.holdsChanged State.mapAxes
  rw [axes]

/-- R160: the axes once zone `z` has become CLEAR. -/
theorem State.zoneCleared_axis (emptying : (s.monitor.zones[z]).state = .emptying) (a : Fin 8) :
    ((s.zoneTold z f .clear false).holdsChanged s).motion.axes[a] =
      if (s.store.tables.axis a).guard = some z ∧ s.motion.house = false then
        (s.motion.axes[a]).holdEnds (s.store.tables.axis a)
      else s.motion.axes[a] := by
  refine (State.mapAxes_axis ..).trans ?_
  show (s.motion.axes[a]).holdChange (s.store.tables.axis a) (s.holdPresent a) ((s.zoneTold z f .clear false).holdPresent a) = _
  rw [State.zoneTold_holdPresent, Axis.holdChange]
  by_cases guards : (s.store.tables.axis a).guard = some z
  · rw [if_pos guards, State.holdPresent_guard guards, emptying]
    cases s.motion.house with
    | true => rw [if_pos (by decide), if_neg fun both => nomatch both.2]
    | false => rw [if_neg (by decide), if_neg (by decide), if_pos ⟨guards, rfl⟩]
  · rw [if_neg guards, if_pos rfl, if_neg fun both => guards both.1]

end Zones

/-- Settles O51. -/
theorem zonesBecomeOccupiedAndClear : Obligations.ZonesBecomeOccupiedAndClear := by
  unfold Obligations.ZonesBecomeOccupiedAndClear
  refine ⟨Axis.actsOnHolds, fun s n rest sc next own mode => exec_trigger next own mode rfl rfl, fun s z f live new => ?_⟩
  dsimp only
  refine ⟨fun entering last => ?_, fun other => ?_, fun emptying last => ?_, fun other => ?_⟩
  · have due : (s.monitor.zones[z]).entryEnds (s.store.tables.zone z) = true := by
      rw [Zone.entryEnds, decide_eq_true entering, decide_eq_true last]
      rfl
    have same : ∀ a, s.holdPresent a = (s.zoneTold z f .occupied true).holdPresent a := fun a => by
      rw [State.zoneTold_holdPresent]
      split
      · next guards => rw [State.holdPresent_guard guards, entering]; rfl
      · rfl
    have done : exec (.zoneBecomesOccupied z f) s = .next ((s.atFrame f).zoneFrame z true f).finishLink :=
      congrArg Host.Outcome.next (State.frameStep_due _ live due new)
    rw [done, State.zoneFrame_occupied new entering last, State.holdsChanged_same same, State.raiseTriggers_eq]
    rfl
  · refine congrArg Host.Outcome.next (State.frameStep_idle _ (.inr (.inl ?_)))
    rw [Zone.entryEnds, Bool.and_eq_false_iff]
    exact other.imp (fun away => decide_eq_false away) fun early => decide_eq_false (by omega)
  · have due : (s.monitor.zones[z]).clearEnds (s.store.tables.zone z) = true := by
      rw [Zone.clearEnds, decide_eq_true emptying, decide_eq_true last]
      rfl
    have done : exec (.zoneBecomesClear z f) s = .next ((s.atFrame f).zoneFrame z false f).finishLink :=
      congrArg Host.Outcome.next (State.frameStep_due _ live due new)
    refine ⟨((s.zoneTold z f .clear false).holdsChanged s).motion, ?_, rfl, State.zoneCleared_axis emptying⟩
    rw [done, State.zoneFrame_clear new emptying last, State.raiseTriggers_eq]
    rfl
  · refine congrArg Host.Outcome.next (State.frameStep_idle _ (.inr (.inl ?_)))
    rw [Zone.clearEnds, Bool.and_eq_false_iff]
    exact other.imp (fun away => decide_eq_false away) fun early => decide_eq_false (by omega)

end Sys2Proof.Machine
end

section
/-! Proofs about buttons (R171 to R173, R176). -/

namespace Sys2Proof.Machine

/-! ### Languages (R171) -/

section Languages

variable {set : BitVec 4} {now l : Fin 4}

/-- R171: the next member of the set above the current language. -/
theorem nextLanguage_above (offered : set.getLsbD l = true) (above : now < l)
    (first : ∀ k : Fin 4, now < k → set.getLsbD k = true → l ≤ k) : nextLanguage set now = l := by
  have found : (List.finRange 4).find? (fun (l : Fin 4) => decide (now < l) && set.getLsbD l) = some l :=
    find?_finRange (by rw [decide_eq_true above, offered]; rfl) fun k before => by
      rw [Bool.eq_false_iff]
      intro both
      obtain ⟨beyond, member⟩ := Bool.and_eq_true_iff.1 both
      exact absurd (first k (of_decide_eq_true beyond) member) (Fin.not_le.2 before)
  rw [nextLanguage, found]

/-- R171: with no member above, the lowest member. -/
theorem nextLanguage_lowest (offered : set.getLsbD l = true)
    (first : ∀ k : Fin 4, set.getLsbD k = true → k ≤ now ∧ l ≤ k) : nextLanguage set now = l := by
  have none : (List.finRange 4).find? (fun (l : Fin 4) => decide (now < l) && set.getLsbD l) = none := by
    rw [List.find?_eq_none]
    intro k _ both
    obtain ⟨beyond, member⟩ := Bool.and_eq_true_iff.1 both
    exact absurd (first k member).1 (Fin.not_le.2 (of_decide_eq_true beyond))
  have found : (List.finRange 4).find? (fun (l : Fin 4) => set.getLsbD l) = some l :=
    find?_finRange offered fun k before => Bool.eq_false_iff.2 fun member => absurd (first k member).2 (Fin.not_le.2 before)
  rw [nextLanguage, none]
  dsimp only
  rw [found]

/-- R171: a set with no other member than the current language changes nothing. -/
theorem nextLanguage_alone (alone : ∀ k : Fin 4, set.getLsbD k = true → k = now) : nextLanguage set now = now := by
  by_cases offered : set.getLsbD now = true
  · exact nextLanguage_lowest offered fun k member => by rw [alone k member]; exact ⟨Fin.le_refl _, Fin.le_refl _⟩
  · have empty : ∀ k : Fin 4, set.getLsbD k = false := fun k => Bool.eq_false_iff.2 fun member => by
      rw [alone k member] at member
      exact offered member
    have above : (List.finRange 4).find? (fun (l : Fin 4) => decide (now < l) && set.getLsbD l) = none := by
      exact List.find?_eq_none.2 fun k _ both => Bool.false_ne_true ((empty k).symm.trans (Bool.and_eq_true_iff.1 both).2)
    have any : (List.finRange 4).find? (fun (l : Fin 4) => set.getLsbD l) = none := by
      exact List.find?_eq_none.2 fun k _ member => Bool.false_ne_true ((empty k).symm.trans member)
    rw [nextLanguage, above]
    dsimp only
    rw [any]

end Languages

/-! ### Presses -/

section Presses

variable {s : State} {b : Fin 16} {f : Nat}

/-- R172: the part in show frame `f` with the debounced state of button `b` changed. -/
def State.buttonTold (s : State) (b : Fin 16) (f : Nat) (pressed : Bool) : State :=
  { s with frame := some f, monitor := { s.monitor with buttons := s.monitor.buttons.set b ⟨pressed, 0, some f⟩ } }

theorem Button.step_changes {x : Button} {r : ButtonRec} {pressed : Bool} (apart : pressed ≠ x.pressed)
    (last : r.debounce ≤ x.counter + 1) : x.step r pressed = { x with pressed := pressed, counter := 0 } := by
  rw [Button.step, if_neg apart, if_pos (show x.changes r = true from decide_eq_true last)]

theorem State.buttonChanges_iff (seeded : s.monitor.seeded = true) {pressed : Bool}
    (was : (s.monitor.buttons[b]).pressed = pressed)
    (last : (s.store.tables.button b).debounce ≤ (s.monitor.buttons[b]).counter + 1) : s.buttonChanges b pressed = true := by
  rw [State.buttonChanges, seeded, decide_eq_true was, Button.changes, decide_eq_true last]
  rfl

theorem State.buttonFrame_press (new : (s.monitor.buttons[b]).frame ≠ some f) (seeded : s.monitor.seeded = true)
    (was : (s.monitor.buttons[b]).pressed = false)
    (last : (s.store.tables.button b).debounce ≤ (s.monitor.buttons[b]).counter + 1) :
    (s.atFrame f).buttonFrame b true f = (s.buttonTold b f true).press b := by
  unfold State.buttonFrame
  dsimp only
  rw [show (s.atFrame f).monitor = s.monitor from rfl, show (s.atFrame f).store = s.store from rfl, if_neg new,
    if_pos seeded, Button.step_changes (by rw [was]; decide) last, if_pos (by rw [seeded, was]; rfl)]
  rfl

theorem State.buttonFrame_release (new : (s.monitor.buttons[b]).frame ≠ some f) (seeded : s.monitor.seeded = true)
    (was : (s.monitor.buttons[b]).pressed = true)
    (last : (s.store.tables.button b).debounce ≤ (s.monitor.buttons[b]).counter + 1) :
    (s.atFrame f).buttonFrame b false f = s.buttonTold b f false := by
  unfold State.buttonFrame
  dsimp only
  rw [show (s.atFrame f).monitor = s.monitor from rfl, show (s.atFrame f).store = s.store from rfl, if_neg new,
    if_pos seeded, Button.step_changes (by rw [was]; decide) last, if_neg (by rw [seeded, was]; exact Bool.false_ne_true)]
  rfl

/-- R173: a press that is debounced. -/
theorem exec_press (live : s.inReset = false) (new : (s.monitor.buttons[b]).frame ≠ some f)
    (seeded : s.monitor.seeded = true) (was : (s.monitor.buttons[b]).pressed = false)
    (last : (s.store.tables.button b).debounce ≤ (s.monitor.buttons[b]).counter + 1) :
    exec (.press b f) s = .next ((s.buttonTold b f true).press b).finishLink := by
  rw [← State.buttonFrame_press new seeded was last]
  exact congrArg Host.Outcome.next (State.frameStep_due _ live (State.buttonChanges_iff seeded was last) new)

/-- R51: the players that await button `b` have seen it. -/
def State.buttonSeen (s : State) (b : Fin 16) : State := { s with engine := s.engine.press b }

theorem State.press_language {z : Fin 12} (names : (s.store.tables.button b).function = .language z) :
    s.press b = (s.languagePress b z).buttonSeen b := by
  unfold State.press
  rw [names]
  rfl

theorem State.press_scene (names : (s.store.tables.button b).function = .scene) :
    s.press b = (if (s.raiseTriggers (.button b)).2.any TriggerOutcome.acknowledged then
      (s.raiseTriggers (.button b)).1.flash b else (s.raiseTriggers (.button b)).1).buttonSeen b := by
  unfold State.press
  rw [names]
  rfl

/-- R173: the outcomes that qualify a press. -/
theorem TriggerOutcome.acknowledged_eq : TriggerOutcome.acknowledged =
    fun o => decide (o = .started ∨ o = .pending ∨ o = .restarted ∨ o = .queuedAgain) := by
  funext o
  cases o <;> rfl

/-- R176: a flash, field by field. -/
theorem State.flash_eq {t : State} (store : t.store = s.store) (b : Fin 16) : t.flash b =
    { t with monitor := { t.monitor with lamps := t.monitor.lamps.set b { t.monitor.lamps[b] with
        flash := if (t.monitor.lamps[b]).flash = 0 then (if (s.store.tables.button b).ackLong then 100 else 25)
          else (t.monitor.lamps[b]).flash } } } := by
  rw [← store]
  unfold State.flash Lamp.startFlash
  dsimp only
  split <;> rfl

end Presses

/-- Settles O52. -/
theorem buttonsActAndLampsFlash : Obligations.ButtonsActAndLampsFlash := by
  unfold Obligations.ButtonsActAndLampsFlash
  intro s b f live seeded
  dsimp only
  refine ⟨fun new last was => ⟨fun z l names offered next => ?_, fun z names alone => ?_, fun names => ?_⟩,
    fun new last was => ?_, fun new last => ?_⟩
  · have language : nextLanguage (s.store.tables.zone z).languages (s.monitor.zones[z]).language = l ∧
        (s.monitor.zones[z]).language ≠ l := by
      rcases next with ⟨above, first⟩ | ⟨below, first⟩
      · exact ⟨nextLanguage_above offered above first, Fin.ne_of_lt above⟩
      · exact ⟨nextLanguage_lowest offered first, Fin.ne_of_gt below⟩
    have moved : (s.buttonTold b f true).languagePress b z =
        State.flash { s.buttonTold b f true with monitor := (s.buttonTold b f true).monitor.setLanguage z l } b := by
      unfold State.languagePress
      dsimp only
      rw [show (s.buttonTold b f true).store = s.store from rfl,
        show ((s.buttonTold b f true).monitor.zones[z]).language = (s.monitor.zones[z]).language from rfl, language.1,
        if_neg (Ne.symm language.2)]
    rw [exec_press live new seeded was last, State.press_language (s := s.buttonTold b f true) names,
      moved.trans (State.flash_eq (s := s) (t := { s.buttonTold b f true with
        monitor := (s.buttonTold b f true).monitor.setLanguage z l }) rfl b)]
    rfl
  · have stays : (s.buttonTold b f true).languagePress b z = s.buttonTold b f true := by
      unfold State.languagePress
      dsimp only
      rw [show (s.buttonTold b f true).store = s.store from rfl,
        show ((s.buttonTold b f true).monitor.zones[z]).language = (s.monitor.zones[z]).language from rfl,
        nextLanguage_alone alone, if_pos rfl]
    rw [exec_press live new seeded was last, State.press_language (s := s.buttonTold b f true) names, stays]
    rfl
  · rw [exec_press live new seeded was last, State.press_scene (s := s.buttonTold b f true) names,
      State.flash_eq (s := s) (EngineOnly.raiseTriggers (s.buttonTold b f true) (.button b)).store,
      TriggerOutcome.acknowledged_eq, State.raiseTriggers_eq]
    rfl
  · exact (congrArg Host.Outcome.next
      (State.frameStep_due _ live (State.buttonChanges_iff seeded was last) new)).trans
      (congrArg Host.Outcome.next (State.buttonFrame_release new seeded was last))
  · refine ⟨_, (congrArg Host.Outcome.next (State.frameStep_due _ live (decide_eq_true last) new)).trans
      (congrArg Host.Outcome.next (if_neg new)), ?_, rfl, rfl⟩
    exact (congrArg (· - 1) last :)

end Sys2Proof.Machine
end

section
/-! Proofs about the input sample (R165 to R168, R172, R174, R179): each unit takes its own step, and leaves the others'. -/

namespace Sys2Proof.Machine

/-! ### Each of a family of units steps once -/

/-- When each step of a pass over `Fin n` is the own step of one unit, each unit of the pass has taken its own step once. -/
theorem foldl_each {n : Nat} {β : Type} {view : State → Fin n → β} {step : State → Fin n → State} {own : Fin n → β → β}
    {Inv : State → Prop} (keeps : ∀ s i, Inv s → Inv (step s i))
    (steps : ∀ s i, Inv s → ∀ j, view (step s i) j = if i = j then own i (view s i) else view s j)
    {l : List (Fin n)} (nodup : l.Nodup) {s : State} (inv : Inv s) :
    Inv (l.foldl step s) ∧ ∀ j, view (l.foldl step s) j = if j ∈ l then own j (view s j) else view s j := by
  induction l generalizing s with
  | nil => exact ⟨inv, fun j => (if_neg List.not_mem_nil).symm⟩
  | cons i l ih =>
    obtain ⟨fresh, rest⟩ := List.nodup_cons.1 nodup
    obtain ⟨kept, views⟩ := ih rest (keeps s i inv)
    refine ⟨kept, fun j => ?_⟩
    rw [List.foldl_cons, views j, steps s i inv j]
    by_cases same : i = j
    · subst same
      rw [if_neg fresh, if_pos rfl, if_pos List.mem_cons_self]
    · rw [if_neg same]
      refine ite_of_iff ?_
      rw [List.mem_cons, or_iff_right (Ne.symm same)]

/-- What a unit that has taken its frame event of show frame `f` leaves, and else its step, stamped with `f`. -/
def onceIn {β : Type} (f : Nat) (frame : β → Option Nat) (step : β → β) (x : β) : β := if frame x = some f then x else step x

section Units

variable {s : State} {f : Nat}

/-! ### Zones -/

/-- A zone but for its language. -/
def State.zoneView (s : State) (z : Fin 12) : Zone := { s.monitor.zones[z] with language := 0 }

/-- R167: the state and the counter of a zone after a sample. -/
def Zone.next (r : ZoneRec) (raw : Bool) (state : ZoneState) (counter : Nat) : ZoneState × Nat :=
  match state, raw with
  | .clear, true => (.entering, 0)
  | .clear, false => (.clear, counter)
  | .entering, true => if r.entry ≤ counter + 1 then (.occupied, 0) else (.entering, counter + 1)
  | .entering, false => (.clear, 0)
  | .occupied, true => (.occupied, counter)
  | .occupied, false => (.emptying, 0)
  | .emptying, true => (.occupied, 0)
  | .emptying, false => if r.clear ≤ counter + 1 then (.clear, 0) else (.emptying, counter + 1)

theorem Zone.step_eq (x : Zone) (r : ZoneRec) (raw : Bool) :
    x.step r raw = ⟨(Zone.next r raw x.state x.counter).1, (Zone.next r raw x.state x.counter).2, x.language, raw, x.frame⟩ := by
  obtain ⟨state, counter, language, was, frame⟩ := x
  cases state <;> cases raw
  case entering.true =>
    simp only [Zone.step, Zone.next, Zone.entryEnds]
    by_cases last : r.entry ≤ counter + 1 <;> simp [last]
  case emptying.false =>
    simp only [Zone.step, Zone.next, Zone.clearEnds]
    by_cases last : r.clear ≤ counter + 1 <;> simp [last]
  all_goals rfl

/-- R167: the zone frame event of show frame `f` on the zone's own state. -/
def Zone.stepIn (f : Nat) (r : ZoneRec) (raw : Bool) (x : Zone) : Zone :=
  onceIn f Zone.frame (fun x => { x.step r raw with frame := some f }) x

theorem Zone.stepIn_view (f : Nat) (r : ZoneRec) (raw : Bool) (x : Zone) :
    ({ x.stepIn f r raw with language := 0 } : Zone) = ({ x with language := 0 } : Zone).stepIn f r raw := by
  unfold Zone.stepIn onceIn
  dsimp only
  split
  · rfl
  · rw [Zone.step_eq, Zone.step_eq]

/-- R168: what the zone frame event announces touches no zone. -/
theorem EngineOnly.zoneNews (s : State) (z : Fin 12) (news : Option ZoneState) : EngineOnly s (s.zoneNews z news) := by
  unfold State.zoneNews
  split
  · exact (EngineOnly.raise ..).trans (.raiseTriggers ..)
  · exact (EngineOnly.raise ..).trans (.raiseTriggers ..)
  all_goals exact .refl s

theorem State.zoneFrame_monitor (s : State) (z : Fin 12) (raw : Bool) (f : Nat) :
    (s.zoneFrame z raw f).monitor =
      { s.monitor with zones := s.monitor.zones.set z ((s.monitor.zones[z]).stepIn f (s.store.tables.zone z) raw) }
    ∧ (s.zoneFrame z raw f).store = s.store ∧ (s.zoneFrame z raw f).pending = s.pending := by
  unfold State.zoneFrame Zone.stepIn onceIn
  dsimp only
  split
  · refine ⟨?_, rfl, rfl⟩
    rw [show s.monitor.zones.set z s.monitor.zones[z] = s.monitor.zones from Vector.set_getElem_self ..]
  · have news := EngineOnly.zoneNews (State.holdsChanged (s.zoneStepped z raw f) s) z
      (Zone.news s.monitor.zones[z] ((s.monitor.zones[z]).step (s.store.tables.zone z) raw))
    exact ⟨news.monitor, news.store, news.pending⟩

/-! ### Buttons -/

/-- R172: the button frame event of show frame `f` on the button's own state; before the first sample it takes its state. -/
def Button.stepIn (f : Nat) (r : ButtonRec) (seeded pressed : Bool) (x : Button) : Button :=
  onceIn f Button.frame (fun x =>
    { (if seeded then x.step r pressed else { x with pressed := pressed, counter := 0 }) with frame := some f }) x

/-- A lamp but for its flash. -/
def State.lampView (s : State) (b : Fin 16) : Lamp := { s.monitor.lamps[b] with flash := 0 }

/-- R171, R173, R176: a press changes languages and flashes of the Zone Monitor, and nothing else of it. -/
structure Presses (s t : State) : Prop where
  store : t.store = s.store
  pending : t.pending = s.pending
  monitor : { t.monitor with zones := s.monitor.zones, lamps := s.monitor.lamps } = s.monitor
  zones : ∀ z, t.zoneView z = s.zoneView z
  lamps : ∀ b, t.lampView b = s.lampView b

theorem Presses.refl (s : State) : Presses s s := ⟨rfl, rfl, rfl, fun _ => rfl, fun _ => rfl⟩

theorem Presses.trans {t u : State} (h : Presses s t) (k : Presses t u) : Presses s u where
  store := k.store.trans h.store
  pending := k.pending.trans h.pending
  monitor := (congrArg (fun m : Monitor => { m with zones := s.monitor.zones, lamps := s.monitor.lamps }) k.monitor).trans
    h.monitor
  zones z := (k.zones z).trans (h.zones z)
  lamps b := (k.lamps b).trans (h.lamps b)

theorem EngineOnly.presses {t : State} (h : EngineOnly s t) : Presses s t where
  store := h.store
  pending := h.pending
  monitor := by rw [h.monitor]
  zones z := by rw [State.zoneView, State.zoneView, h.monitor]
  lamps b := by rw [State.lampView, State.lampView, h.monitor]

theorem Presses.flash (s : State) (b : Fin 16) : Presses s (s.flash b) where
  store := rfl
  pending := rfl
  monitor := rfl
  zones _ := rfl
  lamps c := by
    show ({ (s.monitor.lamps.set b _)[c] with flash := 0 } : Lamp) = _
    rw [Vector.getElem_setFin]
    split
    · next same =>
      rw [← same, Lamp.startFlash, State.lampView]
      split <;> rfl
    · rfl

theorem Presses.language (s : State) (z : Fin 12) (l : Fin 4) :
    Presses s { s with monitor := s.monitor.setLanguage z l } where
  store := rfl
  pending := rfl
  monitor := rfl
  lamps _ := rfl
  zones y := by
    show ({ (s.monitor.zones.set z _)[y] with language := 0 } : Zone) = _
    rw [Vector.getElem_setFin]
    split
    · next same => rw [← same]; rfl
    · rfl

theorem Presses.press (s : State) (b : Fin 16) : Presses s (s.press b) := by
  have seen (t : State) (h : Presses s t) : Presses s (t.buttonSeen b) := ⟨h.store, h.pending, h.monitor, h.zones, h.lamps⟩
  cases names : (s.store.tables.button b).function with
  | scene =>
    rw [State.press_scene names]
    refine seen _ ?_
    split
    · exact (EngineOnly.raiseTriggers s _).presses.trans (.flash ..)
    · exact (EngineOnly.raiseTriggers s _).presses
  | language z =>
    rw [State.press_language names]
    refine seen _ ?_
    unfold State.languagePress
    dsimp only
    split
    · exact .refl s
    · exact (Presses.language ..).trans (.flash ..)

theorem State.buttonFrame_presses (s : State) (b : Fin 16) (pressed : Bool) (f : Nat) :
    Presses
      { s with monitor := { s.monitor with
          buttons := s.monitor.buttons.set b
            ((s.monitor.buttons[b]).stepIn f (s.store.tables.button b) s.monitor.seeded pressed) } }
      (s.buttonFrame b pressed f) := by
  unfold State.buttonFrame Button.stepIn onceIn
  dsimp only
  split
  · rw [show s.monitor.buttons.set b s.monitor.buttons[b] = s.monitor.buttons from Vector.set_getElem_self ..]
    exact .refl s
  · have told (y : Button) (c : Bool) : Presses
        { s with monitor := { s.monitor with buttons := s.monitor.buttons.set b y } }
        (if c then State.press { s with monitor := { s.monitor with buttons := s.monitor.buttons.set b y } } b
          else { s with monitor := { s.monitor with buttons := s.monitor.buttons.set b y } }) := by
      split
      · exact .press ..
      · exact .refl _
    exact told _ _

/-! ### Lamps -/

/-- R174: the lamp frame event of show frame `f`. -/
def Lamp.stepIn (f : Nat) (auto : Pattern) (x : Lamp) : Lamp :=
  onceIn f Lamp.frame (fun x => { x.step auto with frame := some f }) x

theorem Lamp.stepIn_view (f : Nat) (auto : Pattern) (x : Lamp) :
    ({ x.stepIn f auto with flash := 0 } : Lamp) = ({ x with flash := 0 } : Lamp).stepIn f auto := by
  unfold Lamp.stepIn onceIn
  dsimp only
  split <;> rfl

theorem State.lampFrame_eq (s : State) (b : Fin 16) (f : Nat) : s.lampFrame b f =
    { s with monitor := { s.monitor with
        lamps := s.monitor.lamps.set b
          ((s.monitor.lamps[b]).stepIn f (autoPattern s.store s.engine.scenes s.monitor.house.asserted b)) } } := by
  unfold State.lampFrame Lamp.stepIn onceIn
  dsimp only
  split
  · rw [show s.monitor.lamps.set b s.monitor.lamps[b] = s.monitor.lamps from Vector.set_getElem_self ..]
  · rfl

/-! ### Safety inputs -/

theorem State.houseFrame_monitor (s : State) (sample : Bool) (f : Nat) :
    (s.houseFrame sample f).monitor = { s.monitor with
      house := onceIn f Safety.frame (fun x => { x.stepHouse sample with frame := some f }) s.monitor.house }
    ∧ (s.houseFrame sample f).store = s.store ∧ (s.houseFrame sample f).pending = s.pending := by
  have published (t : State) (asserted : Bool) : (t.publishHouse asserted).monitor = t.monitor
      ∧ (t.publishHouse asserted).store = t.store ∧ (t.publishHouse asserted).pending = t.pending := by
    rw [State.publishHouse_eq]
    split
    · exact ⟨rfl, rfl, rfl⟩
    · have rescan := EngineOnly.rescan ((t.houseTaken asserted).holdsChanged t)
      exact ⟨rescan.monitor, rescan.store, rescan.pending⟩
  unfold State.houseFrame onceIn
  dsimp only
  split
  · exact ⟨rfl, rfl, rfl⟩
  · split
    · split
      · exact published _ _
      · exact published _ _
    · exact ⟨rfl, rfl, rfl⟩

theorem State.estopFrame_monitor (s : State) (sample : Bool) (f : Nat) :
    (s.estopFrame sample f).monitor = { s.monitor with
      estop := onceIn f Safety.frame (fun x => { x.stepEstop sample with frame := some f }) s.monitor.estop }
    ∧ (s.estopFrame sample f).store = s.store ∧ (s.estopFrame sample f).pending = s.pending := by
  have published (t : State) (asserted : Bool) : (t.publishEstop asserted).monitor = t.monitor
      ∧ (t.publishEstop asserted).store = t.store ∧ (t.publishEstop asserted).pending = t.pending := by
    rw [State.publishEstop_eq]
    split
    · have stops := (EngineOnly.estopPlayers (t.estopTaken asserted)).trans (.rescan _)
      exact ⟨stops.monitor, stops.store, stops.pending⟩
    · exact ⟨rfl, rfl, rfl⟩
  unfold State.estopFrame onceIn
  dsimp only
  split
  · exact ⟨rfl, rfl, rfl⟩
  · split
    · split
      · exact published _ _
      · exact published _ _
    · exact ⟨rfl, rfl, rfl⟩

end Units

end Sys2Proof.Machine
end

section
/-! Proofs about the input sample as a whole (R165). -/

namespace Sys2Proof.Machine

/-! ### Sensors -/

/-- R165: a sensor's active state is its input read through its polarity. -/
theorem activeSensors_bit (t : Tables) (inputs : BitVec 16) (i : Fin 16) :
    (activeSensors t inputs).getLsbD i = (inputs.getLsbD i != (t.sensor i).activeLow) := by
  have part (l : List (Fin 16)) (acc : BitVec 16) :
      (l.foldl (fun acc (i : Fin 16) =>
        if inputs.getLsbD i ≠ (t.sensor i).activeLow then acc ||| (1#16 <<< i.val) else acc) acc).getLsbD i =
      (acc.getLsbD i || (decide (i ∈ l) && (inputs.getLsbD i != (t.sensor i).activeLow))) := by
    induction l generalizing acc with
    | nil => simp
    | cons j l ih =>
      rw [List.foldl_cons, ih]
      have bit : (1#16 <<< j.val).getLsbD i = decide (i = j) := by
        simp only [BitVec.getLsbD_shiftLeft, BitVec.getLsbD_one, Fin.ext_iff]
        have := i.isLt
        have := j.isLt
        by_cases same : i.val = j.val
        · simp [same]
        · simp [same]
          omega
      by_cases same : i = j
      · subst same
        by_cases active : inputs.getLsbD i ≠ (t.sensor i).activeLow
        · rw [if_pos active, BitVec.getLsbD_or, bit]
          rw [show (inputs.getLsbD i != (t.sensor i).activeLow) = true from bne_iff_ne.2 active]
          simp
        · rw [if_neg active]
          have quiet : (inputs.getLsbD i != (t.sensor i).activeLow) = false := by simpa using active
          rw [quiet]
          simp
      · have apart : decide (i ∈ j :: l) = decide (i ∈ l) := by simp [same]
        rw [apart]
        split
        · rw [BitVec.getLsbD_or, bit, decide_eq_false same, Bool.or_false]
        · rfl
  refine (part (List.finRange 16) 0).trans ?_
  simp

theorem occupiedRaw_iff {t : Tables} {active : BitVec 16} {z : Fin 12} : occupiedRaw t active z = true ↔
    ∃ i : Fin 16, (t.sensor i).zone = some z ∧ active.getLsbD i = true := by
  simp [occupiedRaw]

/-! ### The passes -/

section Passes

variable (s : State) (f : Nat)

theorem State.lamps_pass :
    let t := (List.finRange 16).foldl (fun t b => t.lampFrame b f) s
    (∃ lamps, t = { s with monitor := { s.monitor with lamps := lamps } })
    ∧ ∀ b : Fin 16, t.monitor.lamps[b] =
      (s.monitor.lamps[b]).stepIn f (autoPattern s.store s.engine.scenes s.monitor.house.asserted b) := by
  have pass := foldl_each (view := fun (t : State) (b : Fin 16) => t.monitor.lamps[b])
    (step := fun t b => t.lampFrame b f)
    (own := fun b x => x.stepIn f (autoPattern s.store s.engine.scenes s.monitor.house.asserted b))
    (Inv := fun t => ∃ lamps, t = { s with monitor := { s.monitor with lamps := lamps } })
    (by
      rintro t b ⟨lamps, rfl⟩
      rw [State.lampFrame_eq]
      exact ⟨_, rfl⟩)
    (by
      rintro t b ⟨lamps, rfl⟩ c
      rw [State.lampFrame_eq]
      exact Vector.getElem_setFin ..)
    (List.nodup_finRange 16) (s := s) ⟨_, rfl⟩
  exact ⟨pass.1, fun b => (pass.2 b).trans (if_pos (List.mem_finRange b))⟩

theorem State.zones_pass (raw : Fin 12 → Bool) :
    let t := (List.finRange 12).foldl (fun t z => t.zoneFrame z (raw z) f) s
    (t.store = s.store ∧ t.pending = s.pending ∧ { t.monitor with zones := s.monitor.zones } = s.monitor)
    ∧ ∀ z : Fin 12, t.monitor.zones[z] = (s.monitor.zones[z]).stepIn f (s.store.tables.zone z) (raw z) := by
  have pass := foldl_each (view := fun (t : State) (z : Fin 12) => t.monitor.zones[z])
    (step := fun t z => t.zoneFrame z (raw z) f)
    (own := fun z x => x.stepIn f (s.store.tables.zone z) (raw z))
    (Inv := fun t => t.store = s.store ∧ t.pending = s.pending ∧ { t.monitor with zones := s.monitor.zones } = s.monitor)
    (by
      rintro t z ⟨store, pending, monitor⟩
      obtain ⟨after, store', pending'⟩ := t.zoneFrame_monitor z (raw z) f
      exact ⟨store'.trans store, pending'.trans pending, by rw [after]; exact monitor⟩)
    (by
      rintro t z ⟨store, pending, monitor⟩ y
      rw [(t.zoneFrame_monitor z (raw z) f).1, store]
      exact Vector.getElem_setFin ..)
    (List.nodup_finRange 12) (s := s) ⟨rfl, rfl, rfl⟩
  exact ⟨pass.1, fun z => (pass.2 z).trans (if_pos (List.mem_finRange z))⟩

/-- The part with these buttons. -/
def State.withButtons (buttons : Vector Button 16) : State := { s with monitor := { s.monitor with buttons := buttons } }

theorem Presses.withButtons {s t : State} (h : Presses s t) (buttons : Vector Button 16) :
    Presses (s.withButtons buttons) (t.withButtons buttons) where
  store := h.store
  pending := h.pending
  monitor := (congrArg (fun m : Monitor => { m with buttons := buttons }) h.monitor :)
  zones := h.zones
  lamps := h.lamps

theorem State.buttons_pass (pressed : Fin 16 → Bool) :
    let t := (List.finRange 16).foldl (fun t b => t.buttonFrame b (pressed b) f) s
    Presses (s.withButtons t.monitor.buttons) t
    ∧ ∀ b : Fin 16, t.monitor.buttons[b] =
      (s.monitor.buttons[b]).stepIn f (s.store.tables.button b) s.monitor.seeded (pressed b) := by
  have pass := foldl_each (view := fun (t : State) (b : Fin 16) => t.monitor.buttons[b])
    (step := fun t b => t.buttonFrame b (pressed b) f)
    (own := fun b x => x.stepIn f (s.store.tables.button b) s.monitor.seeded (pressed b))
    (Inv := fun t => Presses (s.withButtons t.monitor.buttons) t)
    (by
      intro t b inv
      have presses := t.buttonFrame_presses b (pressed b) f
      have same : (t.buttonFrame b (pressed b) f).monitor.buttons = _ := (congrArg Monitor.buttons presses.monitor :)
      rw [same]
      exact (inv.withButtons _).trans presses)
    (by
      intro t b inv c
      have presses := t.buttonFrame_presses b (pressed b) f
      have same : (t.buttonFrame b (pressed b) f).monitor.buttons = _ := (congrArg Monitor.buttons presses.monitor :)
      have seeded : t.monitor.seeded = s.monitor.seeded := (congrArg Monitor.seeded inv.monitor :)
      rw [same, show t.store = s.store from inv.store, seeded]
      exact Vector.getElem_setFin ..)
    (List.nodup_finRange 16) (s := s) (.refl s)
  exact ⟨pass.1, fun b => (pass.2 b).trans (if_pos (List.mem_finRange b))⟩

/-- R165: the sensors of a sample are taken. -/
def State.sensed (levels : InputLevels) : State :=
  { s with monitor := { s.monitor with sensors := activeSensors s.store.tables levels.sensors, frame := some f } }

/-- R165: the lamps of a sample have stepped. -/
def State.lampsTaken (levels : InputLevels) : State :=
  (List.finRange 16).foldl (fun t b => t.lampFrame b f) (s.sensed f levels)

/-- R165: the lamps and zones of a sample have stepped. -/
def State.zonesTaken (levels : InputLevels) : State :=
  (List.finRange 12).foldl
    (fun t z => t.zoneFrame z (occupiedRaw s.store.tables (activeSensors s.store.tables levels.sensors) z) f)
    (s.lampsTaken f levels)

/-- R165: the lamps, zones and buttons of a sample have stepped, and the buttons are seeded. -/
def State.buttonsTaken (levels : InputLevels) : State :=
  let t := (List.finRange 16).foldl (fun t b => t.buttonFrame b (!levels.buttons.getLsbD b) f) (s.zonesTaken f levels)
  { t with monitor := { t.monitor with seeded := true } }

theorem State.takeSample_eq (levels : InputLevels) : s.takeSample levels f =
    ((s.buttonsTaken f levels).houseFrame (!levels.houseN) f).estopFrame (!levels.estopN) f := by
  unfold State.takeSample State.buttonsTaken State.zonesTaken State.lampsTaken State.sensed
  rfl

/-- R165: what an input sample leaves in the Zone Monitor. -/
theorem State.takeSample_leaves (s : State) (levels : InputLevels) (f : Nat) :
    ∃ m : Monitor, (s.takeSample levels f).monitor = { m with
        seeded := true
        house := onceIn f Safety.frame (fun x => { x.stepHouse (!levels.houseN) with frame := some f }) s.monitor.house
        estop := onceIn f Safety.frame (fun x => { x.stepEstop (!levels.estopN) with frame := some f }) s.monitor.estop }
      ∧ (s.takeSample levels f).store = s.store ∧ (s.takeSample levels f).pending = s.pending
      ∧ m.sensors = activeSensors s.store.tables levels.sensors ∧ m.frame = some f
      ∧ (∀ z : Fin 12, ({ m.zones[z] with language := 0 } : Zone) = (s.zoneView z).stepIn f (s.store.tables.zone z)
          (occupiedRaw s.store.tables (activeSensors s.store.tables levels.sensors) z))
      ∧ (∀ b : Fin 16, m.buttons[b] =
          (s.monitor.buttons[b]).stepIn f (s.store.tables.button b) s.monitor.seeded (!levels.buttons.getLsbD b))
      ∧ ∀ b : Fin 16, ({ m.lamps[b] with flash := 0 } : Lamp) =
          (s.lampView b).stepIn f (autoPattern s.store s.engine.scenes s.monitor.house.asserted b) := by
  obtain ⟨⟨lit, lampsEq⟩, lampSteps⟩ := State.lamps_pass (s.sensed f levels) f
  obtain ⟨⟨store1, pending1, monitor1⟩, zoneSteps⟩ := State.zones_pass (s.lampsTaken f levels) f
    (occupiedRaw s.store.tables (activeSensors s.store.tables levels.sensors))
  obtain ⟨presses, buttonSteps⟩ := State.buttons_pass (s.zonesTaken f levels) f (fun b => !levels.buttons.getLsbD b)
  obtain ⟨house, store3, pending3⟩ := (s.buttonsTaken f levels).houseFrame_monitor (!levels.houseN) f
  obtain ⟨estop, store4, pending4⟩ :=
    ((s.buttonsTaken f levels).houseFrame (!levels.houseN) f).estopFrame_monitor (!levels.estopN) f
  rw [← State.lampsTaken] at lampsEq lampSteps
  rw [← State.zonesTaken] at store1 pending1 monitor1 zoneSteps
  rw [← State.takeSample_eq] at estop store4 pending4
  generalize s.takeSample levels f = t at estop store4 pending4 ⊢
  unfold State.buttonsTaken at house store3 pending3 estop store4 pending4
  dsimp only at house store3 pending3 estop store4 pending4
  generalize (List.finRange 16).foldl (fun t b => t.buttonFrame b (!levels.buttons.getLsbD b) f) (s.zonesTaken f levels) =
    u at presses buttonSteps house store3 pending3 estop store4 pending4
  generalize s.zonesTaken f levels = w at presses buttonSteps store1 pending1 monitor1 zoneSteps
  generalize s.lampsTaken f levels = v at lampsEq lampSteps store1 pending1 monitor1 zoneSteps
  have tables : v.store = s.store := by rw [lampsEq]; rfl
  have sensed : v.monitor = { s.monitor with
      sensors := activeSensors s.store.tables levels.sensors, frame := some f, lamps := lit } := by rw [lampsEq]; rfl
  have zoned : w.monitor = { s.monitor with
      sensors := activeSensors s.store.tables levels.sensors, frame := some f, lamps := lit,
      zones := w.monitor.zones } := by
    rw [sensed] at monitor1
    exact (congrArg (fun m : Monitor => { m with zones := w.monitor.zones }) monitor1 :)
  have pressed : u.monitor = { s.monitor with
      sensors := activeSensors s.store.tables levels.sensors, frame := some f,
      buttons := u.monitor.buttons, lamps := u.monitor.lamps, zones := u.monitor.zones } := by
    have monitor := presses.monitor
    rw [State.withButtons, zoned] at monitor
    exact (congrArg (fun m : Monitor => { m with zones := u.monitor.zones, lamps := u.monitor.lamps }) monitor :)
  have own {α : Type} (part : Monitor → α) : part u.monitor = part { s.monitor with
      sensors := activeSensors s.store.tables levels.sensors, frame := some f,
      buttons := u.monitor.buttons, lamps := u.monitor.lamps, zones := u.monitor.zones } := congrArg part pressed
  refine ⟨u.monitor, ?_, ?_, ?_, own Monitor.sensors, own Monitor.frame, fun z => ?_, fun b => ?_, fun b => ?_⟩
  · rw [estop, house, own Monitor.house, own Monitor.estop]
  · exact store4.trans (store3.trans (presses.store.trans (store1.trans tables)))
  · rw [pending4, pending3]
    refine presses.pending.trans (pending1.trans ?_)
    rw [lampsEq]
    rfl
  · refine (presses.zones z).trans ?_
    show ({ w.monitor.zones[z] with language := 0 } : Zone) = _
    rw [zoneSteps z, tables, Zone.stepIn_view, sensed]
    rfl
  · rw [buttonSteps b, zoned, show w.store = s.store from store1.trans tables]
  · refine (presses.lamps b).trans ?_
    show ({ w.monitor.lamps[b] with flash := 0 } : Lamp) = _
    rw [zoned]
    dsimp only
    rw [← show v.monitor.lamps = lit by rw [sensed], lampSteps b, Lamp.stepIn_view]
    rfl

end Passes

theorem onceIn_new {β : Type} {f : Nat} {frame : β → Option Nat} {step : β → β} {x : β} (new : frame x ≠ some f) :
    onceIn f frame step x = step x := if_neg new

/-- R172: a button's step. -/
theorem Button.stepIn_new {f : Nat} {r : ButtonRec} {seeded pressed : Bool} {x : Button} (new : x.frame ≠ some f) :
    x.stepIn f r seeded pressed =
      if seeded = false then ⟨pressed, 0, some f⟩
      else if pressed = x.pressed then ⟨x.pressed, 0, some f⟩
      else if r.debounce ≤ x.counter + 1 then ⟨pressed, 0, some f⟩
      else ⟨x.pressed, x.counter + 1, some f⟩ := by
  rw [Button.stepIn, onceIn_new new]
  cases seeded with
  | false => rfl
  | true =>
    rw [if_pos rfl, if_neg (show ¬ true = false by decide), Button.step, Button.changes]
    split
    · rfl
    · by_cases last : r.debounce ≤ x.counter + 1
      · rw [if_pos last, if_pos (decide_eq_true last)]
      · rw [if_neg last, if_neg (mt of_decide_eq_true last)]

/-- R179: ESTOP asserts at one sample and is released at two. -/
theorem Safety.stepEstop_told {x : Safety} {sample : Bool} (told : x.published = true) :
    ((x.stepEstop sample).asserted, (x.stepEstop sample).count) =
      if sample = x.asserted then (x.asserted, 0)
      else if sample = true ∨ 1 ≤ x.count then (sample, 0) else (x.asserted, 1) := by
  obtain ⟨asserted, count, published, frame⟩ := x
  rw [Safety.stepEstop, if_pos told, Safety.filter]
  cases sample <;> cases asserted
  case false.true =>
    by_cases again : 1 ≤ count <;> simp [again]
  all_goals rfl

/-- R174: a blink counter's last value. -/
theorem Pattern.advance_eq (p : Pattern) (counter : Nat) :
    p.advance counter = if (if p = .fast then 19 else 99) ≤ counter then 0 else counter + 1 := by
  cases p <;> rfl

/-- Settles O53. -/
theorem inputSampleStepsEveryUnit : Obligations.InputSampleStepsEveryUnit := by
  unfold Obligations.InputSampleStepsEveryUnit
  intro s levels f live new
  obtain ⟨m, monitor, store, pending, sensors, frame, zones, buttons, lamps⟩ := State.takeSample_leaves (s.atFrame f) levels f
  have done : exec (.inputSample levels f) s = .next ((s.atFrame f).takeSample levels f).finishLink :=
    congrArg Host.Outcome.next (State.frameStep_due _ live rfl new)
  generalize (s.atFrame f).takeSample levels f = t at *
  refine ⟨t, done, pending, store, by rw [monitor], by rw [monitor]; exact frame, fun i => ?_, fun z first => ?_,
    fun b first => ?_, fun b first => ?_, fun first told => ?_, fun first told => ?_⟩
  · rw [monitor]
    dsimp only
    rw [sensors]
    exact activeSensors_bit ..
  · have zone := zones z
    rw [Zone.stepIn, onceIn_new (show ((s.atFrame f).zoneView z).frame ≠ some f from first), Zone.step_eq] at zone
    have state := congrArg Zone.state zone
    have counter := congrArg Zone.counter zone
    have raw := congrArg Zone.raw zone
    rw [monitor]
    dsimp only at state counter raw ⊢
    rw [sensors, raw, state, counter]
    have occupied := occupiedRaw_iff (t := s.store.tables) (active := activeSensors s.store.tables levels.sensors) (z := z)
    refine ⟨occupied, fun some => ?_, fun none => ?_⟩
    · rw [show occupiedRaw (s.atFrame f).store.tables (activeSensors (s.atFrame f).store.tables levels.sensors) z = true
        from occupied.2 some]
      show Zone.next (s.store.tables.zone z) true (s.monitor.zones[z]).state (s.monitor.zones[z]).counter = _
      cases (s.monitor.zones[z]).state <;> rfl
    · rw [show occupiedRaw (s.atFrame f).store.tables (activeSensors (s.atFrame f).store.tables levels.sensors) z = false
        from Bool.eq_false_iff.2 (mt occupied.1 none)]
      show Zone.next (s.store.tables.zone z) false (s.monitor.zones[z]).state (s.monitor.zones[z]).counter = _
      cases (s.monitor.zones[z]).state <;> rfl
  · rw [monitor]
    dsimp only
    rw [buttons b]
    exact Button.stepIn_new first
  · have lamp := lamps b
    rw [Lamp.stepIn, onceIn_new (show ((s.atFrame f).lampView b).frame ≠ some f from first)] at lamp
    have mode := congrArg Lamp.mode lamp
    have pattern := congrArg Lamp.pattern lamp
    have blink := congrArg Lamp.blink lamp
    rw [monitor]
    dsimp only at mode pattern blink ⊢
    rw [mode, pattern, blink]
    refine ⟨rfl, rfl, fun changed => if_neg changed, fun same => ?_⟩
    refine (if_pos same).trans ?_
    rw [Pattern.advance_eq]
    rfl
  · rw [monitor]
    dsimp only
    rw [onceIn_new (show (s.atFrame f).monitor.house.frame ≠ some f from first)]
    show (((s.monitor.house.stepHouse (!levels.houseN)).asserted), ((s.monitor.house.stepHouse (!levels.houseN)).count)) = _
    rw [Safety.stepHouse, if_pos told, Safety.filter]
    split
    · rfl
    · split <;> rfl
  · rw [monitor]
    dsimp only
    rw [onceIn_new (show (s.atFrame f).monitor.estop.frame ≠ some f from first)]
    show (((s.monitor.estop.stepEstop (!levels.estopN)).asserted), ((s.monitor.estop.stepEstop (!levels.estopN)).count)) = _
    exact Safety.stepEstop_told told

end Sys2Proof.Machine
end

section
/-! Proofs about SET BED (R138) and the sample event (R128, R135, R139 to R141). -/

namespace Sys2Proof.Machine

/-! ### SET BED -/

section SetBed

variable {s : State} {n low high gain : Byte} {rest : List Request} {o : Fin 4} {clip : Option (Fin 256)}

theorem setBed_served : Serves .setBed State.finish 0x13 false (exactly 4) State.answerSetBed := fun _ => rfl

theorem bedOperands?_bad (bad : 4 ≤ n.toNat ∨ (256 ≤ low.toNat + 256 * high.toNat ∧ low.toNat + 256 * high.toNat ≠ 65535)) :
    bedOperands? [n, low, high, gain] = none := by
  rw [bedOperands?, show byteAt [n, low, high, gain] 0 = n.toNat from rfl]
  rcases bad with bad | ⟨beyond, other⟩
  · rw [index?_ge bad]
    rfl
  · rw [show get16 [n, low, high, gain] 1 = low.toNat + 256 * high.toNat from rfl, clipOrNone?, if_neg other, index?_ge beyond]
    cases index? 4 n.toNat <;> rfl

theorem bedOperands?_good (own : n.toNat = o.val)
    (number : low.toNat + 256 * high.toNat = match clip with | some c => c.val | none => 65535) :
    bedOperands? [n, low, high, gain] = some (o, clip, gain.toNat) := by
  have named : clipOrNone? (low.toNat + 256 * high.toNat) = some clip := by
    rw [number]
    cases clip with
    | none => rfl
    | some c =>
      dsimp only
      rw [clipOrNone?, if_neg (by omega), index?_val rfl]
      rfl
  rw [bedOperands?, show byteAt [n, low, high, gain] 0 = n.toNat from rfl, index?_val own,
    show get16 [n, low, high, gain] 1 = low.toNat + 256 * high.toNat from rfl, named]
  rfl

/-- R125: a burst in flight once the playbacks of the streams that `drops` tells have ended. -/
def droppedFlight (drops : Fin 8 → Bool) : Option Flight → Option Flight
  | some (.stream m a k d) => some (.stream m a k (d || drops m))
  | some .image => some .image
  | none => none

theorem Sound.dropFlight_eq (x : Sound) (n : Fin 8) :
    x.dropFlight n = { x with flight := droppedFlight (fun m => decide (m = n)) x.flight } := by
  obtain ⟨voices, beds, served, flight, house, out⟩ := x
  match flight with
  | none => rfl
  | some .image => rfl
  | some (.stream m a k d) =>
    simp only [Sound.dropFlight, droppedFlight]
    by_cases same : m = n
    · rw [if_pos same, decide_eq_true same, Bool.or_true]
    · rw [if_neg same, decide_eq_false same, Bool.or_false]

theorem bedStream_val (m : Fin 8) (o : Fin 4) : m = bedStream o ↔ m.val = 4 + o.val := by
  have := o.isLt
  rw [Fin.ext_iff, bedStream, Fin.val_ofNat]
  omega

/-- R138: SET BED while the playback of the bed is kept. -/
theorem Sound.setBed_kept {x : Sound} {t : Tables} {gain : Nat} {running : Bool}
    (kept : running = false ∨ (decide (clip ≠ none) && decide (clip = x.beds[o].clip) && x.beds[o].playing) = true) :
    x.setBed t o clip gain running = { x with
      beds := x.beds.set o { x.beds[o] with clip := clip, gain := gain, duck := min (t.bed o).duck gain } } := by
  unfold Sound.setBed
  dsimp only
  rcases kept with standby | goesOn
  · rw [standby, if_pos (by rfl)]
    rfl
  · rw [goesOn, Bool.or_true, if_pos rfl, Bed.set]
    obtain ⟨both, plays⟩ := Bool.and_eq_true_iff.1 goesOn
    obtain ⟨some, same⟩ := Bool.and_eq_true_iff.1 both
    cases running with
    | false => rfl
    | true =>
      rw [if_pos rfl, if_neg (of_decide_eq_true some), if_pos (by rw [same, plays]; rfl)]

/-- R138: SET BED in SHOW when the playback of the bed is dropped. -/
theorem Sound.setBed_drops {x : Sound} {t : Tables} {gain : Nat}
    (drops : (decide (clip ≠ none) && decide (clip = x.beds[o].clip) && x.beds[o].playing) = false) :
    x.setBed t o clip gain true = { x with
      beds := x.beds.set o (x.beds[o].set t o clip gain true)
      flight := droppedFlight (fun m => decide (m = bedStream o)) x.flight } := by
  unfold Sound.setBed
  dsimp only
  rw [drops, if_neg (by decide), Sound.dropFlight_eq]

theorem droppedFlight_bed (o : Fin 4) : (fun m => decide (m = bedStream o)) = fun m : Fin 8 => decide (m.val = 4 + o.val) := by
  funext m
  rw [Bool.eq_iff_iff, decide_eq_true_iff, decide_eq_true_iff, bedStream_val]

theorem State.answerSetBed_sets (own : n.toNat = o.val)
    (number : low.toNat + 256 * high.toNat = match clip with | some c => c.val | none => 65535) :
    s.answerSetBed [n, low, high, gain] =
      ({ s with sound := s.sound.setBed s.store.tables o clip gain.toNat (decide (s.store.mode = .running)) }, [0]) := by
  rw [State.answerSetBed, bedOperands?_good own number]
  rfl

end SetBed

/-- Settles O40. -/
theorem bedsAreSet : Obligations.BedsAreSet := by
  unfold Obligations.BedsAreSet
  intro s n low high gain rest next
  refine ⟨setBed_served.refused next, fun mode bad => setBed_served.own next (.inr mode) rfl ?_,
    fun o clip mode own number => ?_⟩
  · rw [State.answerSetBed, bedOperands?_bad bad]
    rfl
  · dsimp only
    have answered := setBed_served.own next (.inr mode) rfl (State.answerSetBed_sets (s := s.took rest) own number)
    refine ⟨fun kept => ?_, fun running silent => ?_, fun c running drops named => ?_⟩
    · have stands : s.store.mode = .standby → decide ((s.took rest).store.mode = .running) = false := fun standby => by
        rw [show (s.took rest).store.mode = .standby from standby]
        rfl
      rw [answered, Sound.setBed_kept (x := (s.took rest).sound) (kept.imp_left stands)]
      rfl
    · subst silent
      rw [answered, show decide ((s.took rest).store.mode = .running) = true from decide_eq_true running,
        Sound.setBed_drops rfl, droppedFlight_bed]
      rfl
    · subst named
      have begins : (s.sound.beds[o]).set s.store.tables o (some c) gain.toNat true =
          { s.sound.beds[o] with
            clip := some c, gain := gain.toNat, duck := min (s.store.tables.bed o).duck gain.toNat, state := .priming,
            feed := Feed.start ((s.store.tables.clip c).variant 0) (s.store.tables.clip c).loop } := by
        rw [Bed.set]
        dsimp only
        rw [if_pos rfl, if_neg nofun, if_neg]
        · rfl
        · intro both
          obtain ⟨same, plays⟩ := Bool.and_eq_true_iff.1 both
          rw [same, plays] at drops
          cases drops
      rw [answered, show decide ((s.took rest).store.mode = .running) = true from decide_eq_true running,
        Sound.setBed_drops (x := (s.took rest).sound) drops, droppedFlight_bed]
      rw [show ((s.took rest).sound.beds[o]).set (s.took rest).store.tables o (some c) gain.toNat true = _ from begins]
      rfl

/-! ### The sample event -/

section Sample

variable {x : Voice} {y : Bed} {b : Byte} {rest : List Byte}

theorem Voice.sample_playing (state : x.state = .playing) (bytes : x.feed.buffer = b :: rest) :
    x.sample = (if rest.isEmpty then
        if x.feed.left = 0 then
          { x with feed := { x.feed with buffer := rest }, state := .idle, clip := none, variant := none }
        else { x with feed := { x.feed with buffer := rest }, state := .stalled, stall := 0 }
      else { x with feed := { x.feed with buffer := rest } }, decodeSample b) := by
  have whole : (decodeSample b * (Config.voiceGain * 8 : Nat)).tdiv 2040 = decodeSample b :=
    Int.mul_tdiv_cancel _ (by decide)
  unfold Voice.sample
  rw [state, bytes]
  dsimp only
  rw [whole]
  split
  · split <;> rfl
  · rfl

theorem Voice.sample_ends (state : x.state = .playing) (bytes : x.feed.buffer = [b]) (last : x.feed.left = 0) :
    x.sample = ({ x with feed := { x.feed with buffer := [] }, state := .idle, clip := none, variant := none },
      decodeSample b) := by
  rw [Voice.sample_playing state bytes, if_pos (by rfl), if_pos last]

theorem Voice.sample_stalls (state : x.state = .playing) (bytes : x.feed.buffer = [b]) (more : x.feed.left ≠ 0) :
    x.sample = ({ x with feed := { x.feed with buffer := [] }, state := .stalled, stall := 0 }, decodeSample b) := by
  rw [Voice.sample_playing state bytes, if_pos (by rfl), if_neg more]

theorem Voice.sample_fading (state : x.state = .fading) (bytes : x.feed.buffer = b :: rest) :
    x.sample = ({ x with feed := { x.feed with buffer := rest } },
      (decodeSample b * (255 * (8 - x.fade) : Nat)).tdiv 2040) := by
  unfold Voice.sample
  rw [state, bytes]
  rfl

theorem Voice.sample_none (still : x.feed.buffer = [] ∨ x.state ≠ .playing ∧ x.state ≠ .fading) : x.sample = (x, 0) := by
  unfold Voice.sample
  split
  · next state bytes => rw [state, bytes] at still; simp at still
  · next state bytes => rw [state, bytes] at still; simp at still
  · rfl

theorem Bed.sample_playing (state : y.state = .playing) (bytes : y.feed.buffer = b :: rest) :
    y.sample = ({ y with feed := { y.feed with buffer := rest },
                         state := if rest ≠ [] then .playing else if y.feed.left = 0 then .ended else .stalled },
      (decodeSample b * ((y.gain - (y.gain - y.duck) * y.stage / 7 : Nat) : Int)).tdiv 255) := by
  unfold Bed.sample
  rw [state, bytes]
  dsimp only
  cases rest with
  | nil => by_cases last : y.feed.left = 0 <;> simp [last, Bed.applied]
  | cons c rest => simp [Bed.applied]

theorem Bed.sample_none (still : y.feed.buffer = [] ∨ y.state ≠ .playing) : y.sample = (y, 0) := by
  unfold Bed.sample
  split
  · next state bytes => rw [state, bytes] at still; simp at still
  · rfl

/-- R139: the term of a voice in the mix of output `o`. -/
theorem Voice.sample_term (x : Voice) (o : Fin 4) : (if x.output = o then x.sample.2 else 0) =
    match x.state, x.feed.buffer with
    | .playing, b :: _ => if x.output = o then decodeSample b else 0
    | .fading, b :: _ => if x.output = o then (decodeSample b * (255 * (8 - x.fade) : Nat)).tdiv 2040 else 0
    | _, _ => 0 := by
  have still (none : x.feed.buffer = [] ∨ x.state ≠ .playing ∧ x.state ≠ .fading) :
      (if x.output = o then x.sample.2 else 0) = 0 := by
    rw [Voice.sample_none none, ite_self]
  cases bytes : x.feed.buffer with
  | nil =>
    rw [still (.inl bytes)]
    cases x.state <;> rfl
  | cons b rest =>
    cases state : x.state with
    | playing => rw [Voice.sample_playing state bytes]
    | fading => rw [Voice.sample_fading state bytes]
    | idle => rw [still (.inr (by rw [state]; decide))]
    | priming => rw [still (.inr (by rw [state]; decide))]
    | stalled => rw [still (.inr (by rw [state]; decide))]

theorem Bed.sample_term (y : Bed) : y.sample.2 = match y.state, y.feed.buffer with
    | .playing, b :: _ => (decodeSample b * ((y.gain - (y.gain - y.duck) * y.stage / 7 : Nat) : Int)).tdiv 255
    | _, _ => 0 := by
  split
  · next state bytes => rw [Bed.sample_playing state bytes]
  · next plays =>
    rw [Bed.sample_none]
    cases bytes : y.feed.buffer with
    | nil => exact .inl rfl
    | cons b rest => exact .inr fun state => plays b rest state bytes

theorem saturate_eq (z : Int) : saturate z = max (-32768) (min 32767 z) := by
  unfold saturate
  omega

end Sample

/-- Settles O41. -/
theorem sampleEventTakesAndMixes : Obligations.SampleEventTakesAndMixes := by
  unfold Obligations.SampleEventTakesAndMixes
  intro s live
  have done : exec .sampleEvent s = .next (State.finish { s with sound := s.sound.sampleEvent }) := by
    show Host.Outcome.next (s.live _) = _
    rw [State.live_running _ live]
  have voice (v : Fin 4) : s.sound.sampleEvent.voices[v] = (s.sound.voices[v]).sample.1 := by
    show (Vector.ofFn _)[v] = _
    simp
  have bed (o : Fin 4) : s.sound.sampleEvent.beds[o] = (s.sound.beds[o]).sample.1 := by
    show (Vector.ofFn _)[o] = _
    simp
  have out (o : Fin 4) : s.sound.sampleEvent.out[o] = s.sound.mix o := by
    show (Vector.ofFn _)[o] = _
    simp
  refine ⟨_, done, rfl, rfl, fun v => ?_, fun o => ?_, fun o => ?_⟩
  · dsimp only
    rw [voice v]
    refine ⟨fun b rest state bytes => ?_, fun b rest state bytes => ?_, fun still => ?_⟩
    · cases rest with
      | nil =>
        by_cases last : (s.sound.voices[v]).feed.left = 0
        · rw [Voice.sample_ends state bytes last]
          exact ⟨rfl, rfl, fun some => absurd rfl some, fun _ _ => ⟨rfl, rfl, rfl⟩, fun _ more => absurd last (by omega)⟩
        · rw [Voice.sample_stalls state bytes last]
          exact ⟨rfl, rfl, fun some => absurd rfl some, fun _ none => absurd none last, fun _ _ => ⟨rfl, rfl⟩⟩
      | cons c rest =>
        rw [Voice.sample_playing state bytes]
        exact ⟨rfl, rfl, fun _ => state, nofun, nofun⟩
    · rw [Voice.sample_fading state bytes]
    · rw [Voice.sample_none still]
  · dsimp only
    rw [bed o]
    refine ⟨fun b rest state bytes => ?_, fun still => ?_⟩
    · rw [Bed.sample_playing state bytes]
      exact ⟨rfl, rfl, rfl⟩
    · rw [Bed.sample_none still]
  · dsimp only
    rw [out o, Sound.mix]
    split
    · rfl
    · rw [saturate_eq]
      congr 2
      rw [show (List.finRange 4 : List (Fin 4)) = [0, 1, 2, 3] from rfl]
      simp only [List.map_cons, List.map_nil, List.sum_cons, List.sum_nil, Int.add_zero, ← Int.add_assoc]
      exact add_same (add_same (add_same (add_same (Bed.sample_term _) (Voice.sample_term _ o)) (Voice.sample_term _ o))
        (Voice.sample_term _ o)) (Voice.sample_term _ o)

end Sys2Proof.Machine
end

section
/-! Proofs about the sound frame event (R130, R131, R136, R142). -/

namespace Sys2Proof.Machine

/-! ### One voice -/

section VoiceFrame

variable {x : Voice} {f : Nat}

/-- R130, R131: a voice after its sound frame event of show frame `f`. -/
def Voice.countIn (f : Nat) (x : Voice) : Voice := onceIn f Voice.frame (fun x => { x.count with frame := some f }) x

/-- R130, R131: the playback of the voice is dropped in its sound frame event of show frame `f`. -/
def Voice.endsIn (f : Nat) (x : Voice) : Bool := decide (x.frame ≠ some f) && (x.stallEnds || x.fadeEnds)

theorem Voice.stallEnds_iff : x.stallEnds = true ↔ x.state = .stalled ∧ 49 ≤ x.stall := by
  unfold Voice.stallEnds
  rw [Bool.and_eq_true, decide_eq_true_iff, decide_eq_true_iff]
  exact and_congr_right' (show 50 ≤ x.stall + 1 ↔ 49 ≤ x.stall by omega)

theorem Voice.fadeEnds_iff : x.fadeEnds = true ↔ x.state = .fading ∧ 7 ≤ x.fade := by
  unfold Voice.fadeEnds
  rw [Bool.and_eq_true, decide_eq_true_iff, decide_eq_true_iff]
  exact and_congr_right' (show 8 ≤ x.fade + 1 ↔ 7 ≤ x.fade by omega)

/-- R130, R131: a voice's stage or stall at a sound frame event. -/
theorem Voice.count_eq (x : Voice) : x.count = match x.state with
    | .fading => if 7 ≤ x.fade then { x with state := .idle, clip := none, variant := none, feed := Feed.reset, fade := 8 }
        else { x with fade := x.fade + 1 }
    | .stalled => if 49 ≤ x.stall then
          { x with state := .idle, clip := none, variant := none, feed := Feed.reset, stall := 50 }
        else { x with stall := x.stall + 1 }
    | .idle | .priming | .playing => x := by
  unfold Voice.count
  cases state : x.state with
  | idle | priming | playing => rfl
  | fading =>
    dsimp only
    by_cases last : 7 ≤ x.fade
    · rw [if_pos last, if_pos (Voice.fadeEnds_iff.2 ⟨state, last⟩)]
      rfl
    · rw [if_neg last, if_neg fun ends => last (Voice.fadeEnds_iff.1 ends).2]
  | stalled =>
    dsimp only
    by_cases last : 49 ≤ x.stall
    · rw [if_pos last, if_pos (Voice.stallEnds_iff.2 ⟨state, last⟩)]
      rfl
    · rw [if_neg last, if_neg fun ends => last (Voice.stallEnds_iff.1 ends).2]

theorem Voice.count_idle (running : x.state ≠ .idle) : x.count.state = .idle ↔ (x.stallEnds || x.fadeEnds) = true := by
  rw [Bool.or_eq_true, Voice.stallEnds_iff, Voice.fadeEnds_iff, Voice.count_eq]
  cases state : x.state with
  | idle => exact absurd state running
  | priming | playing => simp [state]
  | fading => by_cases last : 7 ≤ x.fade <;> simp [last]
  | stalled => by_cases last : 49 ≤ x.stall <;> simp [last]

theorem Voice.countIn_new (new : x.frame ≠ some f) : x.countIn f = { x.count with frame := some f } := if_neg new

theorem Voice.countIn_eq (f : Nat) (x : Voice) : x.countIn f =
    if x.frame = some f then x
    else match x.state with
      | .fading => if 7 ≤ x.fade
          then { x with state := .idle, clip := none, variant := none, feed := Feed.reset, fade := 8, frame := some f }
          else { x with fade := x.fade + 1, frame := some f }
      | .stalled => if 49 ≤ x.stall
          then { x with state := .idle, clip := none, variant := none, feed := Feed.reset, stall := 50, frame := some f }
          else { x with stall := x.stall + 1, frame := some f }
      | .idle | .priming | .playing => { x with frame := some f } := by
  by_cases taken : x.frame = some f
  · rw [if_pos taken]
    exact if_pos taken
  · rw [if_neg taken, Voice.countIn_new taken, Voice.count_eq]
    obtain ⟨state, clip, variant, feed, output, fade, stall, frame⟩ := x
    cases state with
    | idle | priming | playing => rfl
    | fading => dsimp only; split <;> rfl
    | stalled => dsimp only; split <;> rfl

/-- R130, R131: a playback is dropped when its voice comes to be IDLE. -/
theorem Voice.endsIn_eq (f : Nat) (x : Voice) : x.endsIn f =
    (!decide (x.frame = some f) && !decide (x.state = .idle) && decide ((x.countIn f).state = .idle)) := by
  unfold Voice.endsIn
  by_cases taken : x.frame = some f
  · simp [taken]
  · have ends (running : x.state ≠ .idle) : decide ((x.countIn f).state = .idle) = (x.stallEnds || x.fadeEnds) := by
      rw [Bool.eq_iff_iff, decide_eq_true_iff, ← Voice.count_idle running, Voice.countIn_new taken]
    by_cases idle : x.state = .idle
    · simp [Voice.stallEnds, Voice.fadeEnds, idle]
    · rw [ends idle, decide_eq_false taken, decide_eq_false idle, decide_eq_true taken]
      rfl

end VoiceFrame

/-! ### The voices in a row -/

section Voices

variable {s : State} {f : Nat}

theorem voiceStream_val (m : Fin 8) (v : Fin 4) : m = voiceStream v ↔ m.val = v.val := by
  have := v.isLt
  rw [Fin.ext_iff, voiceStream, Fin.val_ofNat]
  omega

theorem droppedFlight_none (flight : Option Flight) : droppedFlight (fun _ => false) flight = flight := by
  match flight with
  | none => rfl
  | some .image => rfl
  | some (.stream m a k d) => exact congrArg some (congrArg (Flight.stream m a k) (Bool.or_false d))

theorem droppedFlight_twice (p q : Fin 8 → Bool) (flight : Option Flight) :
    droppedFlight q (droppedFlight p flight) = droppedFlight (fun m => p m || q m) flight := by
  match flight with
  | none => rfl
  | some .image => rfl
  | some (.stream m a k d) => exact congrArg some (congrArg (Flight.stream m a k) (Bool.or_assoc ..))

/-- R130, R131: the sound frame event of one voice. -/
theorem Sound.voiceFrame_eq (x : Sound) (v : Fin 4) (f : Nat) : x.voiceFrame v f = { x with
    voices := x.voices.set v ((x.voices[v]).countIn f)
    flight := droppedFlight (fun m => decide (m.val = v.val) && (x.voices[v]).endsIn f) x.flight } := by
  unfold Sound.voiceFrame Voice.countIn Voice.endsIn onceIn
  dsimp only
  split
  · next taken =>
    rw [decide_eq_false (Classical.not_not.2 taken)]
    simp only [Bool.false_and, Bool.and_false, droppedFlight_none]
    rw [show x.voices.set v x.voices[v] = x.voices from Vector.set_getElem_self ..]
  · next new =>
    rw [decide_eq_true new, Bool.true_and]
    cases (x.voices[v]).stallEnds || (x.voices[v]).fadeEnds with
    | false => simp [droppedFlight_none]
    | true =>
      rw [if_pos rfl, Sound.dropFlight_eq]
      simp [voiceStream_val]

/-- R130: the report of a voice whose stall runs out, if it does. -/
def State.underrunIn (s : State) (f : Nat) (l : Link) (v : Fin 4) : Link :=
  if (s.sound.voices[v]).frame ≠ some f ∧ (s.sound.voices[v]).stallEnds = true then l.raise (s.underrun v) else l

theorem State.voiceFrame_eq (s : State) (v : Fin 4) (f : Nat) : s.voiceFrame v f =
    { s with link := s.underrunIn f s.link v, sound := s.sound.voiceFrame v f } := by
  unfold State.voiceFrame State.underrunIn
  dsimp only
  by_cases raised : (s.sound.voices[v]).frame ≠ some f ∧ (s.sound.voices[v]).stallEnds = true
  · rw [if_pos raised, if_pos (by rw [decide_eq_true raised.1, raised.2]; rfl)]
    rfl
  · rw [if_neg raised, if_neg fun both => raised
      ⟨of_decide_eq_true (Bool.and_eq_true_iff.1 both).1, (Bool.and_eq_true_iff.1 both).2⟩]

/-- R130, R131: the sound frame event of a voice whose playback is dropped. -/
theorem State.voiceDropped {v : Fin 4} (new : (s.sound.voices[v]).frame ≠ some f)
    (ends : (s.sound.voices[v]).state = .fading ∧ 7 ≤ (s.sound.voices[v]).fade
      ∨ (s.sound.voices[v]).state = .stalled ∧ 49 ≤ (s.sound.voices[v]).stall) :
    (s.atFrame f).sound.voiceFrame v f = { s.sound with
      voices := s.sound.voices.set v ((s.sound.voices[v]).countIn f)
      flight := droppedFlight (fun m => decide (m.val = v.val)) s.sound.flight } := by
  have drops : (s.sound.voices[v]).endsIn f = true := by
    rw [Voice.endsIn, decide_eq_true new, Bool.true_and, Bool.or_eq_true, Voice.stallEnds_iff, Voice.fadeEnds_iff]
    exact ends.symm
  rw [show (s.atFrame f).sound = s.sound from rfl, Sound.voiceFrame_eq, drops]
  simp only [Bool.and_true]

/-- R142: what the sound frame events of the voices of `vs` leave. -/
structure State.VoicesCounted (s t : State) (f : Nat) (vs : List (Fin 4)) : Prop where
  rest : { t with sound := s.sound, link := s.link } = s
  link : t.link = vs.foldl (s.underrunIn f) s.link
  sound : { t.sound with voices := s.sound.voices, flight := s.sound.flight } = s.sound
  voices : ∀ v : Fin 4, t.sound.voices[v] = if v ∈ vs then (s.sound.voices[v]).countIn f else s.sound.voices[v]
  flight : t.sound.flight = droppedFlight
    (fun m => vs.any fun v => decide (m.val = v.val) && (s.sound.voices[v]).endsIn f) s.sound.flight

theorem State.voices_counted (s : State) (f : Nat) {vs : List (Fin 4)} (nodup : vs.Nodup) :
    s.VoicesCounted (vs.foldl (fun t v => t.voiceFrame v f) s) f vs := by
  induction vs using snocInduction with
  | nil => exact ⟨rfl, rfl, rfl, fun _ => rfl, (droppedFlight_none _).symm⟩
  | append_singleton vs v ih =>
    rw [List.nodup_append] at nodup
    obtain ⟨before, -, apart⟩ := nodup
    have fresh : v ∉ vs := fun old => apart v old v (List.mem_singleton.2 rfl) rfl
    rw [List.foldl_append, List.foldl_cons, List.foldl_nil]
    obtain ⟨rest, link, sound, voices, flight⟩ := ih before
    generalize vs.foldl (fun t v => t.voiceFrame v f) s = t at *
    have own : t.sound.voices[v] = s.sound.voices[v] := (voices v).trans (if_neg fresh)
    have engine : t.engine = s.engine := (congrArg State.engine rest :)
    rw [State.voiceFrame_eq, Sound.voiceFrame_eq]
    refine ⟨rest, ?_, sound, fun w => ?_, ?_⟩
    · dsimp only
      rw [List.foldl_append, List.foldl_cons, List.foldl_nil, ← link, State.underrunIn, State.underrunIn, State.underrun,
        State.underrun, own, State.sceneOf, State.sceneOf, engine]
    · dsimp only
      rw [Vector.getElem_setFin, own, voices w]
      by_cases same : v = w
      · subst same
        rw [if_pos rfl, if_pos (List.mem_append_right _ (List.mem_singleton.2 rfl))]
      · rw [if_neg same]
        refine ite_of_iff ?_
        rw [List.mem_append, List.mem_singleton, or_iff_left (Ne.symm same)]
    · dsimp only
      rw [flight, own, droppedFlight_twice]
      simp only [List.any_append, List.any_cons, List.any_nil, Bool.or_false]

end Voices

/-! ### One bed -/

section BedFrame

/-- R136: a bed after its sound frame event of show frame `f`. -/
def Bed.frameIn (f : Nat) (running : Bool) (step : Nat) (speaking : Bool) (x : Bed) : Bed :=
  onceIn f Bed.frame (fun x => if running then Bed.envelope { x with frame := some f } speaking step
    else { x with frame := some f }) x

theorem Sound.bedFrame_eq (x : Sound) (t : Tables) (running : Bool) (b : Fin 4) (f : Nat) :
    x.bedFrame t running b f =
      { x with beds := x.beds.set b ((x.beds[b]).frameIn f running (t.bed b).step (x.speaking b)) } := by
  unfold Sound.bedFrame Bed.frameIn onceIn
  dsimp only
  split
  · rw [show x.beds.set b x.beds[b] = x.beds from Vector.set_getElem_self ..]
  · rfl

/-- R142: what the sound frame events of the beds leave. -/
theorem State.beds_framed (s : State) (f : Nat) :
    let t := (List.finRange 4).foldl (fun t b => t.bedFrame b f) s
    (∃ beds, t = { s with sound := { s.sound with beds := beds } })
    ∧ ∀ b : Fin 4, t.sound.beds[b] = (s.sound.beds[b]).frameIn f (decide (s.store.mode = .running))
        (s.store.tables.bed b).step (s.sound.speaking b) := by
  have pass := foldl_each (view := fun (t : State) (b : Fin 4) => t.sound.beds[b]) (step := fun t b => t.bedFrame b f)
    (own := fun b x => x.frameIn f (decide (s.store.mode = .running)) (s.store.tables.bed b).step (s.sound.speaking b))
    (Inv := fun t => ∃ beds, t = { s with sound := { s.sound with beds := beds } })
    (by
      rintro t b ⟨beds, rfl⟩
      rw [State.bedFrame, Sound.bedFrame_eq]
      exact ⟨_, rfl⟩)
    (by
      rintro t b ⟨beds, rfl⟩ c
      rw [State.bedFrame, Sound.bedFrame_eq]
      exact Vector.getElem_setFin ..)
    (List.nodup_finRange 4) (s := s) ⟨_, rfl⟩
  exact ⟨pass.1, fun b => (pass.2 b).trans (if_pos (List.mem_finRange b))⟩

/-- R136: one step of the duck envelope, or none. -/
theorem Bed.frameIn_eq (f : Nat) (running : Bool) (step : Nat) (speaking : Bool) (x : Bed) :
    x.frameIn f running step speaking =
      if x.frame = some f then x
      else if running = false then { x with frame := some f }
      else if x.dir ≠ (if speaking then .up else .down) then
        { x with dir := if speaking then .up else .down, timer := 0, frame := some f }
      else if (if speaking then decide (7 ≤ x.stage) else decide (x.stage = 0)) = true then
        { x with timer := 0, frame := some f }
      else if step ≤ x.timer + 1 then
        { x with stage := if speaking then x.stage + 1 else x.stage - 1, timer := 0, frame := some f }
      else { x with timer := x.timer + 1, frame := some f } := by
  unfold Bed.frameIn onceIn
  by_cases taken : x.frame = some f
  · rw [if_pos taken, if_pos taken]
  · rw [if_neg taken, if_neg taken]
    cases running with
    | false => rfl
    | true =>
      rw [if_neg (show ¬ true = false by decide)]
      refine (if_pos rfl).trans ?_
      unfold Bed.envelope
      dsimp only
      by_cases turns : x.dir ≠ (if speaking then .up else .down)
      · rw [if_pos turns, if_pos turns]
      · rw [if_neg turns, if_neg turns, Classical.not_not.1 turns]
        cases speaking with
        | true =>
          by_cases rests : 7 ≤ x.stage <;> by_cases last : step ≤ x.timer + 1 <;> simp [rests, last]
        | false =>
          by_cases rests : x.stage = 0 <;> by_cases last : step ≤ x.timer + 1 <;> simp [rests, last]

theorem Bed.envelope_frame (x : Bed) (frame : Option Nat) (speaking : Bool) (step : Nat) :
    ({ x with frame := frame } : Bed).envelope speaking step = { x.envelope speaking step with frame := frame } := by
  obtain ⟨clip, gain, duck, state, feed, stage, dir, timer, was⟩ := x
  cases dir <;> cases speaking
  case up.true =>
    by_cases rests : 7 ≤ stage <;> by_cases last : step ≤ timer + 1 <;> simp [Bed.envelope, rests, last]
  case down.false =>
    by_cases rests : stage = 0 <;> by_cases last : step ≤ timer + 1 <;> simp [Bed.envelope, rests, last]
  all_goals rfl

theorem Bed.frameIn_stage {x : Bed} {f step : Nat} {speaking : Bool} (new : x.frame ≠ some f) :
    (x.frameIn f true step speaking).stage = (x.envelope speaking step).stage := by
  rw [Bed.frameIn, onceIn_new new, if_pos rfl, Bed.envelope_frame]

end BedFrame

/-- Settles O42. -/
theorem soundFrameCountsStages : Obligations.SoundFrameCountsStages := by
  unfold Obligations.SoundFrameCountsStages
  intro s f live
  dsimp only
  refine ⟨?_, fun v new => ⟨fun fading last => ?_, fun stalled last => ?_⟩, fun b new running moves => ?_⟩
  · have done : exec (.soundFrameEvent f) s = .next ((s.atFrame f).soundFrame f).finishLink :=
      congrArg Host.Outcome.next (State.frameStep_due _ live rfl nofun)
    obtain ⟨rest, link, sound, voices, flight⟩ := (s.atFrame f).voices_counted f (List.nodup_finRange 4)
    rw [State.soundFrame] at done
    generalize (List.finRange 4).foldl (fun t v => t.voiceFrame v f) (s.atFrame f) = u at *
    obtain ⟨⟨beds, framed⟩, steps⟩ := u.beds_framed f
    generalize (List.finRange 4).foldl (fun t b => t.bedFrame b f) u = t at *
    have store : u.store = s.store := (congrArg State.store rest :)
    have was : u.sound.beds = s.sound.beds := (congrArg Sound.beds sound :)
    subst framed
    refine ⟨_, done, (congrArg (fun x : State => { x with frame := s.frame }) rest :), (congrArg State.frame rest :),
      (congrArg (fun x : Sound => { x with beds := s.sound.beds }) sound :), fun v => ?_, fun b => ?_, ?_, ?_⟩
    · exact ((voices v).trans (if_pos (List.mem_finRange v))).trans (Voice.countIn_eq ..)
    · refine (steps b).trans ?_
      rw [Bed.frameIn_eq, was, store]
      exact ite_congr rfl (fun _ => rfl) fun _ => ite_of_iff decide_eq_false_iff_not
    · refine flight.trans ?_
      show droppedFlight (fun m => (List.finRange 4).any fun v => decide (m.val = v.val) && (s.sound.voices[v]).endsIn f)
        s.sound.flight = _
      simp only [Voice.endsIn_eq, Voice.countIn_eq, ← Bool.and_assoc]
      cases s.sound.flight with
      | none => rfl
      | some flight => cases flight <;> rfl
    · refine link.trans ?_
      show (List.finRange 4).foldl (s.underrunIn f) s.link = _
      refine congrArg (fun g => List.foldl g s.link (List.finRange 4)) ?_
      funext l v
      exact ite_of_iff (and_congr_right' Voice.stallEnds_iff)
  · have done : exec (.fadeOutEnd v f) s = .next ((s.atFrame f).voiceFrame v f) :=
      congrArg Host.Outcome.next (State.frameStep_due _ live (Voice.fadeEnds_iff.2 ⟨fading, last⟩) new)
    have quiet : (s.atFrame f).underrunIn f (s.atFrame f).link v = s.link := if_neg fun both => by
      have stalled := (Voice.stallEnds_iff.1 both.2).1
      rw [show ((s.atFrame f).sound.voices[v]).state = .fading from fading] at stalled
      cases stalled
    rw [done, State.voiceFrame_eq, quiet, State.voiceDropped new (.inl ⟨fading, last⟩), Voice.countIn_eq]
    rfl
  · have done : exec (.stallTimeout v f) s = .next ((s.atFrame f).voiceFrame v f).finishLink :=
      congrArg Host.Outcome.next (State.frameStep_due _ live (Voice.stallEnds_iff.2 ⟨stalled, last⟩) new)
    have told : (s.atFrame f).underrunIn f (s.atFrame f).link v = s.link.raise (s.underrun v) :=
      if_pos ⟨new, Voice.stallEnds_iff.2 ⟨stalled, last⟩⟩
    rw [done, State.voiceFrame_eq, told, State.voiceDropped new (.inr ⟨stalled, last⟩), Voice.countIn_eq]
    rfl
  · have frame : (s.sound.beds[b]).frameIn f true (s.store.tables.bed b).step (s.sound.speaking b) = _ := Bed.frameIn_eq ..
    have same := Bed.frameIn_stage (step := (s.store.tables.bed b).step) (speaking := s.sound.speaking b) new
    have moved : ((s.sound.beds[b]).envelope (s.sound.speaking b) (s.store.tables.bed b).step).stage ≠
        (s.sound.beds[b]).stage := by
      rw [← same, Bed.frameIn_eq]
      intro still
      refine moves (Eq.trans (congrArg Bed.stage ?_) still)
      exact ite_congr rfl (fun _ => rfl) fun _ => ite_of_iff (iff_of_false (Classical.not_not.2 running) (by decide))
    have due : s.duckMoves b = true := by
      rw [State.duckMoves, decide_eq_true running, decide_eq_true moved]
      rfl
    have done : exec (.duckStep b f) s = .next ((s.atFrame f).bedFrame b f) :=
      congrArg Host.Outcome.next (State.frameStep_due _ live due new)
    rw [done, State.bedFrame, Sound.bedFrame_eq, Bed.frameIn_eq]
    refine congrArg (fun y : Bed => Host.Outcome.next { s.atFrame f with sound := { s.sound with
      beds := s.sound.beds.set b y } }) ?_
    exact ite_congr rfl (fun _ => rfl) fun _ => ite_of_iff decide_eq_false_iff_not

end Sys2Proof.Machine
end

section
/-! Proofs about the fetch arbiter (R124) and completed bursts (R125, R127, R129, R134, R135). -/

namespace Sys2Proof.Machine

/-! ### Who requests (R124) -/

section Requests

variable {x : Sound} {n : Fin 8}

/-- R124: the feed of a stream. -/
def Sound.feedOf (x : Sound) (n : Fin 8) : Feed :=
  if n.val < 4 then (x.voices[Fin.ofNat 4 n.val]).feed else (x.beds[Fin.ofNat 4 n.val]).feed

/-- R124: a stream has a playback in progress. -/
def Sound.playsOn (x : Sound) (n : Fin 8) : Bool :=
  if n.val < 4 then (x.voices[Fin.ofNat 4 n.val]).playing else (x.beds[Fin.ofNat 4 n.val]).playing

/-- R124: a stream requests. -/
def Sound.Requests (x : Sound) (n : Fin 8) : Prop :=
  x.playsOn n = true ∧ (x.feedOf n).buffer.length ≤ 256 ∧ 0 < (x.feedOf n).left

theorem Sound.requesting?_eq (x : Sound) (n : Fin 8) : x.requesting? n =
    if x.playsOn n && decide ((x.feedOf n).buffer.length ≤ 256) && decide (0 < (x.feedOf n).left) then some (x.feedOf n)
    else none := by
  match n with
  | 0 | 1 | 2 | 3 | 4 | 5 | 6 | 7 => rfl

theorem Sound.requesting?_some (h : x.Requests n) : x.requesting? n = some (x.feedOf n) := by
  obtain ⟨plays, low, more⟩ := h
  rw [Sound.requesting?_eq, plays, decide_eq_true low, decide_eq_true more]
  rfl

theorem Sound.requesting?_none (h : ¬ x.Requests n) : x.requesting? n = none := by
  rw [Sound.requesting?_eq, if_neg]
  intro all
  obtain ⟨both, more⟩ := Bool.and_eq_true_iff.1 all
  obtain ⟨plays, low⟩ := Bool.and_eq_true_iff.1 both
  exact h ⟨plays, of_decide_eq_true low, of_decide_eq_true more⟩

theorem Bed.playing_iff {b : Bed} : b.playing = true ↔ b.state = .priming ∨ b.state = .playing ∨ b.state = .stalled := by
  unfold Bed.playing
  cases b.state <;> simp

theorem Sound.playsOn_iff : x.playsOn n = true ↔
    n.val < 4 ∧ (x.voices[Fin.ofNat 4 n.val]).state ≠ .idle
    ∨ 4 ≤ n.val ∧ ((x.beds[Fin.ofNat 4 n.val]).state = .priming ∨ (x.beds[Fin.ofNat 4 n.val]).state = .playing
        ∨ (x.beds[Fin.ofNat 4 n.val]).state = .stalled) := by
  unfold Sound.playsOn
  by_cases voice : n.val < 4
  · rw [if_pos voice, Voice.playing, decide_eq_true_iff, or_iff_left (by omega), and_iff_right voice]
  · rw [if_neg voice, Bed.playing_iff]
    exact ⟨fun plays => .inr ⟨by omega, plays⟩, fun either => either.elim (fun both => absurd both.1 voice) And.right⟩

end Requests

/-! ### The choice (R124) -/

section Choice

variable {x : Sound}

/-- R124: the place of a stream in the order that begins with the one after the stream served last. -/
def serveTurn (served n : Fin 8) : Nat := (n.val + 7 - served.val) % 8

theorem serveOrder_turns : ∀ served : Fin 8,
    (serveOrder served).Pairwise (fun m n => serveTurn served m < serveTurn served n) ∧ ∀ n, n ∈ serveOrder served := by
  decide

/-- R124: `best` has the lowest fill of the requesting streams of `seen`, and is the first of those with that fill. -/
def Sound.BestOf (x : Sound) (seen : List (Fin 8)) : Option (Fin 8 × Feed) → Prop
  | none => ∀ m ∈ seen, ¬ x.Requests m
  | some (n, feed) => x.Requests n ∧ feed = x.feedOf n ∧ n ∈ seen ∧ ∀ m ∈ seen, x.Requests m →
      (x.feedOf n).buffer.length < (x.feedOf m).buffer.length
      ∨ (x.feedOf n).buffer.length = (x.feedOf m).buffer.length ∧ serveTurn x.served n ≤ serveTurn x.served m

theorem Sound.BestOf.step {seen : List (Fin 8)} {best : Option (Fin 8 × Feed)} {p : Fin 8} (h : x.BestOf seen best)
    (later : ∀ m ∈ seen, serveTurn x.served m < serveTurn x.served p) :
    x.BestOf (seen ++ [p]) (betterStream best p (x.requesting? p)) := by
  by_cases asks : x.Requests p
  · rw [Sound.requesting?_some asks]
    match best with
    | none =>
      refine ⟨asks, rfl, List.mem_append_right _ (List.mem_singleton.2 rfl), fun m member wants => ?_⟩
      rcases List.mem_append.1 member with old | new
      · exact absurd wants (h m old)
      · rw [List.mem_singleton.1 new]
        exact .inr ⟨rfl, Nat.le_refl _⟩
    | some (n, feed) =>
      obtain ⟨wants, rfl, among, least⟩ := h
      unfold betterStream
      dsimp only
      split
      · next lower =>
        refine ⟨asks, rfl, List.mem_append_right _ (List.mem_singleton.2 rfl), fun m member other => ?_⟩
        rcases List.mem_append.1 member with old | new
        · have bound := least m old other
          omega
        · rw [List.mem_singleton.1 new]
          exact .inr ⟨rfl, Nat.le_refl _⟩
      · next higher =>
        refine ⟨wants, rfl, List.mem_append_left _ among, fun m member other => ?_⟩
        rcases List.mem_append.1 member with old | new
        · exact least m old other
        · rw [List.mem_singleton.1 new]
          have before := later n among
          omega
  · rw [Sound.requesting?_none asks]
    match best with
    | none =>
      intro m member
      rcases List.mem_append.1 member with old | new
      · exact h m old
      · rwa [List.mem_singleton.1 new]
    | some (n, feed) =>
      obtain ⟨wants, own, among, least⟩ := h
      refine ⟨wants, own, List.mem_append_left _ among, fun m member other => ?_⟩
      rcases List.mem_append.1 member with old | new
      · exact least m old other
      · rw [List.mem_singleton.1 new] at other
        exact absurd other asks

/-- R124: the choice of a grant. -/
theorem Sound.choice_bestOf (x : Sound) : x.BestOf (serveOrder x.served) x.choice := by
  have part (l : List (Fin 8)) (turns : l.Pairwise fun m n => serveTurn x.served m < serveTurn x.served n) :
      x.BestOf l (l.foldl (fun best n => betterStream best n (x.requesting? n)) none) := by
    induction l using snocInduction with
    | nil => exact fun _ member => nomatch member
    | append_singleton l p ih =>
      obtain ⟨before, -, across⟩ := List.pairwise_append.1 turns
      rw [List.foldl_append]
      exact (ih before).step fun m member => across m member p (List.mem_singleton.2 rfl)
  exact part _ (serveOrder_turns x.served).1

theorem Sound.grant_none {imageWaits : Bool} (idle : x.flight = none) (quiet : ∀ n, ¬ x.Requests n) :
    x.grant imageWaits = if imageWaits then { x with flight := some .image } else x := by
  have best := x.choice_bestOf
  unfold Sound.grant
  rw [idle]
  cases chosen : x.choice with
  | none => rfl
  | some pick =>
    rw [chosen] at best
    exact absurd best.1 (quiet pick.1)

theorem Sound.grant_some {imageWaits : Bool} (idle : x.flight = none) (some' : ∃ n, x.Requests n) :
    ∃ n, x.Requests n
      ∧ x.grant imageWaits =
          { x with served := n, flight := some (.stream n (x.feedOf n).cursor (min 64 (x.feedOf n).left) false) }
      ∧ ∀ m, x.Requests m → (x.feedOf n).buffer.length < (x.feedOf m).buffer.length
          ∨ (x.feedOf n).buffer.length = (x.feedOf m).buffer.length ∧ serveTurn x.served n ≤ serveTurn x.served m := by
  have best := x.choice_bestOf
  obtain ⟨k, wants⟩ := some'
  cases chosen : x.choice with
  | none =>
    rw [chosen] at best
    exact absurd wants (best k ((serveOrder_turns x.served).2 k))
  | some pick =>
    obtain ⟨n, feed⟩ := pick
    rw [chosen] at best
    obtain ⟨asks, rfl, -, least⟩ := best
    refine ⟨n, asks, ?_, fun m => least m ((serveOrder_turns x.served).2 m)⟩
    unfold Sound.grant
    rw [idle, chosen]
    rfl

end Choice

/-- Settles O44. -/
theorem arbiterServesTheLowestFill : Obligations.ArbiterServesTheLowestFill := by
  unfold Obligations.ArbiterServesTheLowestFill
  refine ⟨fun x imageWaits => ?_, fun s => rfl⟩
  have requests (n : Fin 8) := and_congr_left' (c := (x.feedOf n).buffer.length ≤ 256 ∧ 0 < (x.feedOf n).left)
    (Sound.playsOn_iff (x := x) (n := n))
  dsimp only
  refine ⟨fun n => ⟨fun wants => ?_, fun not => ?_⟩, fun flight held => ?_, fun idle none => ?_, fun idle some => ?_⟩
  · exact Sound.requesting?_some ((requests n).2 wants)
  · exact Sound.requesting?_none (mt (requests n).1 not)
  · unfold Sound.grant
    rw [held]
  · exact Sound.grant_none idle fun n => mt (requests n).1 (none n)
  · obtain ⟨n, asks, granted, least⟩ := Sound.grant_some (imageWaits := imageWaits) idle
      (some.imp fun n wants => (requests n).2 wants)
    exact ⟨n, (requests n).1 asks, granted, fun m wants => least m ((requests m).2 wants)⟩

/-! ### Completed bursts -/

section Bursts

theorem Feed.append_eq (x : Feed) (data : List Byte) : x.append data =
    if x.left ≤ data.length ∧ x.loop = true then
      { x with buffer := x.buffer ++ data, cursor := x.address, left := x.length }
    else { x with
      buffer := x.buffer ++ data, left := x.left - data.length
      cursor := if x.cursor + data.length < 67108864 then x.cursor + data.length
        else (Config.cursorPastFlash (x.cursor + data.length)).toNat } := by
  unfold Feed.append
  dsimp only
  by_cases wraps : x.left ≤ data.length ∧ x.loop = true
  · rw [if_pos wraps, if_pos]
    rw [wraps.2, decide_eq_true (Nat.sub_eq_zero_of_le wraps.1)]
    rfl
  · rw [if_neg wraps, if_neg]
    · rfl
    · intro both
      obtain ⟨empty, loops⟩ := Bool.and_eq_true_iff.1 both
      exact wraps ⟨Nat.sub_eq_zero_iff_le.1 (of_decide_eq_true empty), loops⟩

theorem Feed.filled_iff {x : Feed} {data : List Byte} {mark : Nat} : x.filled data mark = true ↔
    mark ≤ x.buffer.length + data.length ∨ x.left ≤ data.length := by
  rw [Feed.filled, Bool.or_eq_true, decide_eq_true_iff, decide_eq_true_iff]

theorem burstData_whole (data : List Byte) : burstData data.length data = data := List.take_left

theorem Sound.deliver_voice (x : Sound) (v : Fin 4) {n : Fin 8} (own : n.val = v.val) (data : List Byte) :
    x.deliver n data = { x with voices := x.voices.set v ((x.voices[v]).complete data) } := by
  obtain rfl : n = Fin.castLE (by decide) v := Fin.ext own
  exact dif_pos v.isLt

theorem Sound.deliver_bed (x : Sound) (b : Fin 4) {n : Fin 8} (own : n.val = 4 + b.val) (data : List Byte) :
    x.deliver n data = { x with beds := x.beds.set b ((x.beds[b]).complete data) } := by
  obtain rfl : n = Fin.natAdd 4 b := Fin.ext own
  match b with
  | 0 | 1 | 2 | 3 => rfl

/-- R127, R129: the buffer of a playback is full enough to go on. -/
def Feed.Full (x : Feed) (data : List Byte) (mark : Nat) : Prop :=
  mark ≤ x.buffer.length + data.length ∨ x.left ≤ data.length

/-- R127, R129: a completion starts or resumes the playback of a voice. -/
def Voice.Starts (x : Voice) (data : List Byte) : Prop :=
  x.state = .priming ∧ x.feed.Full data 256 ∨ x.state = .stalled ∧ x.feed.Full data 128

theorem Voice.complete_starts {x : Voice} {data : List Byte} (h : x.Starts data) :
    x.complete data = { x with
      feed := x.feed.append data, state := .playing, stall := if x.state = .stalled then 0 else x.stall } := by
  unfold Voice.complete
  dsimp only
  rcases h with ⟨state, full⟩ | ⟨state, full⟩
  · rw [state]
    exact if_pos (Feed.filled_iff.2 full)
  · rw [state]
    exact if_pos (Feed.filled_iff.2 full)

theorem Voice.complete_stays {x : Voice} {data : List Byte} (h : ¬ x.Starts data) :
    x.complete data = { x with feed := x.feed.append data } := by
  unfold Voice.complete
  dsimp only
  cases state : x.state with
  | idle | playing | fading => rfl
  | priming => exact if_neg fun full => h (.inl ⟨state, Feed.filled_iff.1 full⟩)
  | stalled => exact if_neg fun full => h (.inr ⟨state, Feed.filled_iff.1 full⟩)

/-- R134, R135: a completion starts or resumes the playback of a bed. -/
def Bed.Starts (x : Bed) (data : List Byte) : Prop :=
  x.state = .priming ∧ x.feed.Full data 256 ∨ x.state = .stalled ∧ x.feed.Full data 128

theorem Bed.complete_starts {x : Bed} {data : List Byte} (h : x.Starts data) :
    x.complete data = { x with feed := x.feed.append data, state := .playing } := by
  unfold Bed.complete
  dsimp only
  rcases h with ⟨state, full⟩ | ⟨state, full⟩
  · rw [state]
    exact if_pos (Feed.filled_iff.2 full)
  · rw [state]
    exact if_pos (Feed.filled_iff.2 full)

theorem Bed.complete_stays {x : Bed} {data : List Byte} (h : ¬ x.Starts data) :
    x.complete data = { x with feed := x.feed.append data } := by
  unfold Bed.complete
  dsimp only
  cases state : x.state with
  | off | playing | ended => rfl
  | priming => exact if_neg fun full => h (.inl ⟨state, Feed.filled_iff.1 full⟩)
  | stalled => exact if_neg fun full => h (.inr ⟨state, Feed.filled_iff.1 full⟩)

/-- R124, R125: a burst of a stream completes. -/
theorem exec_burstComplete {s : State} {data : List Byte} {n : Fin 8} {a k : Nat} {dropped : Bool}
    (live : s.inReset = false) (flight : s.sound.flight = some (.stream n a k dropped)) :
    exec (.burstComplete data) s = .next (State.finish { s with
      sound := if dropped then { s.sound with flight := none }
        else ({ s.sound with flight := none } : Sound).deliver n (burstData k data) }) := by
  show Host.Outcome.next (s.live _) = _
  rw [State.live_running _ live, flight]
  dsimp only
  unfold Sound.complete
  rw [flight]

end Bursts

/-- Settles O43. -/
theorem burstCompletionFeedsTheStream : Obligations.BurstCompletionFeedsTheStream := by
  unfold Obligations.BurstCompletionFeedsTheStream
  intro s data live
  dsimp only
  refine ⟨fun idle => ?_, fun n a k flight => ?_, fun v n a own flight => ?_, fun b n a own flight => ?_⟩
  · show Host.Outcome.next (s.live _) = _
    rw [State.live_running _ live]
    rcases idle with idle | idle <;> rw [idle]
  · exact exec_burstComplete live flight
  · refine ⟨(s.sound.voices[v]).complete data, ?_, ?_⟩
    · rw [exec_burstComplete live flight, burstData_whole, Sound.deliver_voice _ v own]
      rfl
    · by_cases starts : (s.sound.voices[v]).Starts data
      · rw [Voice.complete_starts starts, Feed.append_eq]
        exact ⟨rfl, rfl, fun _ => ⟨rfl, fun stalled => if_pos stalled⟩, fun not => absurd starts not⟩
      · rw [Voice.complete_stays starts, Feed.append_eq]
        exact ⟨rfl, rfl, fun does => absurd does starts, fun _ => ⟨rfl, rfl⟩⟩
  · refine ⟨(s.sound.beds[b]).complete data, ?_, ?_⟩
    · rw [exec_burstComplete live flight, burstData_whole, Sound.deliver_bed _ b own]
      rfl
    · by_cases starts : (s.sound.beds[b]).Starts data
      · rw [Bed.complete_starts starts, Feed.append_eq]
        exact ⟨rfl, rfl, fun _ => rfl, fun not => absurd starts not⟩
      · rw [Bed.complete_stays starts, Feed.append_eq]
        exact ⟨rfl, rfl, fun does => absurd does starts, fun _ => rfl⟩

end Sys2Proof.Machine
end

section
/-! The frame event of a player and the cues of one frame event (chapter 3), as equations. -/

namespace Sys2Proof.Machine

/-! ### Stops do not depend on where a player stands -/

section Stands

variable {s : State} {p : Fin 8} {r y : Run}

theorem State.setPlayer_player (s : State) (p : Fin 8) (r : Option Run) : (s.setPlayer p r).engine.players[p] = r := by
  show (s.engine.players.set p r)[p] = r
  rw [Vector.getElem_setFin, if_pos rfl]

theorem State.setPlayer_setPlayer (s : State) (p : Fin 8) (r r' : Option Run) :
    (s.setPlayer p r).setPlayer p r' = s.setPlayer p r' := by
  unfold State.setPlayer
  simp only [Vector.set_set]

theorem lowerOrders_set (players : Vector (Option Run) 8) (p : Fin 8) (r : Option Run) (order : Nat) :
    lowerOrders (players.set p r) p order = lowerOrders players p order := by
  refine Vector.ext fun i hi => ?_
  have at' (v : Vector (Option Run) 8) := lowerOrders_get v p order ⟨i, hi⟩
  refine (at' _).trans (Eq.trans ?_ (at' players).symm)
  by_cases own : (⟨i, hi⟩ : Fin 8) = p
  · rw [if_pos own, if_pos own]
  · rw [if_neg own, if_neg own, Vector.getElem_setFin, if_neg (Ne.symm own)]

/-- `y` is the record `r` but for its phase, its loops, its voice and its counts. -/
structure Run.Alike (y r : Run) : Prop where
  scene : y.scene = r.scene
  cue : y.cue = r.cue
  order : y.order = r.order

theorem State.halt_alike (held : s.engine.players[p] = some r) (alike : y.Alike r) (reason : StopReason) :
    (s.setPlayer p (some y)).halt p reason = s.halt p reason := by
  rw [State.halt_eq (s.setPlayer_player p (some y)), State.halt_eq held]
  obtain ⟨scene, cue, phase, loops, order⟩ := y
  obtain ⟨same, stands, place⟩ := alike
  dsimp only at same stands place
  subst same stands place
  unfold State.setPlayer
  dsimp only
  rw [lowerOrders_set]

/-- R57: the stop of a player does not depend on the phase and the counts of its record. -/
theorem State.stopAndRescan_alike (held : s.engine.players[p] = some r) (alike : y.Alike r) (reason : StopReason) :
    (s.setPlayer p (some y)).stopAndRescan p reason = s.stopAndRescan p reason := by
  unfold State.stopAndRescan State.stopPlayer
  rw [s.setPlayer_player p (some y), held]
  dsimp only
  rw [State.halt_alike held alike, alike.scene]
  rfl

end Stands

/-! ### The cues, one equation for each -/

section Cues

variable {s : State} {p : Fin 8} {r : Run}

/-- The cue at the cue pointer; an empty record ends the player (R45). -/
def State.cueOf (s : State) (r : Run) : Cue := ((s.store.tables.cue r.cue).cue?).getD .finish

theorem State.execCue_mark {code : Nat} (cue : s.cueOf r = .mark code) :
    s.execCue p r = .goes (s.raise (.mark code r.scene p r.cue)) (r.cue.val + 1) := by
  unfold State.execCue
  dsimp only
  rw [show ((s.store.tables.cue r.cue).cue?).getD .finish = _ from cue]

theorem State.execCue_loop {count : Nat} (cue : s.cueOf r = .loop count) (room : r.loops.length < 4) :
    s.execCue p r = .goes (s.setLoops p r (r.loops ++ [⟨r.cue, count⟩])) (r.cue.val + 1) := by
  unfold State.execCue
  dsimp only
  rw [show ((s.store.tables.cue r.cue).cue?).getD .finish = _ from cue]
  exact if_pos room

theorem State.execCue_loopFull {count : Nat} (cue : s.cueOf r = .loop count) (full : 4 ≤ r.loops.length) :
    s.execCue p r = .stops .cueError := by
  unfold State.execCue
  dsimp only
  rw [show ((s.store.tables.cue r.cue).cue?).getD .finish = _ from cue]
  exact if_neg (Nat.not_lt.2 full)

theorem State.execCue_lamp {b : Fin 16} {mode : LampMode} (cue : s.cueOf r = .lamp b mode) :
    s.execCue p r = .goes (s.setLamp b mode) (r.cue.val + 1) := by
  unfold State.execCue
  dsimp only
  rw [show ((s.store.tables.cue r.cue).cue?).getD .finish = _ from cue]

theorem State.execCue_goto {target : Nat} (cue : s.cueOf r = .goto target) : s.execCue p r = .goes s target := by
  unfold State.execCue
  dsimp only
  rw [show ((s.store.tables.cue r.cue).cue?).getD .finish = _ from cue]

theorem State.execCue_finish (cue : s.cueOf r = .finish) : s.execCue p r = .stops .finish := by
  unfold State.execCue
  dsimp only
  rw [show ((s.store.tables.cue r.cue).cue?).getD .finish = _ from cue]

theorem State.execCue_next (cue : s.cueOf r = .next) : s.execCue p r = s.cueNext p r := by
  unfold State.execCue
  dsimp only
  rw [show ((s.store.tables.cue r.cue).cue?).getD .finish = _ from cue]

theorem State.execCue_await {cond : AwaitCond} {operand : Byte} {timeout : Nat} {target : Fin 2048}
    (cue : s.cueOf r = .await cond operand timeout target) :
    s.execCue p r = s.cueAwait p r cond operand timeout target := by
  unfold State.execCue
  dsimp only
  rw [show ((s.store.tables.cue r.cue).cue?).getD .finish = _ from cue]

theorem State.execCue_light {look : Fin 128} {mask : BitVec 16} {fade : Nat} {curve : FadeCurve}
    (cue : s.cueOf r = .light look mask fade curve) :
    s.execCue p r = .goes
      { s with light := s.light.applyLook s.store.tables look
                 (fun g => mask.getLsbD g && decide (s.engine.claims.groups[g] = .player p)) fade curve }
      (r.cue.val + 1) := by
  unfold State.execCue
  dsimp only
  rw [show ((s.store.tables.cue r.cue).cue?).getD .finish = _ from cue]

theorem State.execCue_level {c : Fin 48} {level fade : Nat} (cue : s.cueOf r = .level c level fade) :
    s.execCue p r = .goes
      (if s.engine.claims.groups[(s.store.tables.channel c).group] = .player p then
        { s with light := s.light.startFade c level fade .linear } else s) (r.cue.val + 1) := by
  unfold State.execCue
  dsimp only
  rw [show ((s.store.tables.cue r.cue).cue?).getD .finish = _ from cue]
  simp only [decide_eq_true_eq]

theorem State.execCue_master {g : Fin 16} {level fade : Nat} (cue : s.cueOf r = .master g level fade) :
    s.execCue p r = .goes
      (if s.engine.claims.groups[g] = .player p then { s with light := s.light.startMaster g level fade } else s)
      (r.cue.val + 1) := by
  unfold State.execCue
  dsimp only
  rw [show ((s.store.tables.cue r.cue).cue?).getD .finish = _ from cue]
  simp only [decide_eq_true_eq]

theorem State.execCue_mute {clip : Fin 256} (cue : s.cueOf r = .say clip ∨ s.cueOf r = .hush) (mute : r.voice = none) :
    s.execCue p r = .goes s (r.cue.val + 1) := by
  unfold State.execCue
  dsimp only
  rcases cue with cue | cue <;>
    rw [show ((s.store.tables.cue r.cue).cue?).getD .finish = _ from cue] <;> dsimp only <;> rw [mute]

theorem State.execCue_say {clip : Fin 256} {v : Fin 4} (cue : s.cueOf r = .say clip) (voice : r.voice = some v) :
    s.execCue p r = if (s.sound.voices[v]).state = .idle then
      .goes { s with sound := s.sound.say s.store.tables v clip (s.narration r.scene).1 (s.narration r.scene).2 }
        (r.cue.val + 1) else .blocks := by
  unfold State.execCue
  dsimp only
  rw [show ((s.store.tables.cue r.cue).cue?).getD .finish = _ from cue]
  dsimp only
  rw [voice]

theorem State.execCue_hush {v : Fin 4} (cue : s.cueOf r = .hush) (voice : r.voice = some v) :
    s.execCue p r = .goes { s with sound := s.sound.fadeOut v } (r.cue.val + 1) := by
  unfold State.execCue
  dsimp only
  rw [show ((s.store.tables.cue r.cue).cue?).getD .finish = _ from cue]
  dsimp only
  rw [voice]

theorem State.execCue_move {a : Fin 8} {position : Int} {profile : Option (Fin 16)}
    (cue : s.cueOf r = .move a position profile) :
    s.execCue p r = if s.engine.claims.axes[a] = some p then s.cueMove r a position profile else .stops .cueError := by
  unfold State.execCue
  dsimp only
  rw [show ((s.store.tables.cue r.cue).cue?).getD .finish = _ from cue]

theorem State.execCue_home {a : Fin 8} (cue : s.cueOf r = .home a) :
    s.execCue p r = if s.engine.claims.axes[a] = some p then s.cueHome r a else .stops .cueError := by
  unfold State.execCue
  dsimp only
  rw [show ((s.store.tables.cue r.cue).cue?).getD .finish = _ from cue]

theorem State.cueNext_empty (bare : r.loops = []) : s.cueNext p r = .stops .cueError := by
  unfold State.cueNext
  rw [bare]
  rfl

section Newest

variable {front : List LoopEntry} {e : LoopEntry}

theorem State.cueNext_ends (loops : r.loops = front ++ [e]) (last : e.count = 1) :
    s.cueNext p r = .goes (s.setLoops p r front) (r.cue.val + 1) := by
  unfold State.cueNext
  rw [loops, List.getLast?_concat]
  dsimp only
  rw [if_pos last, List.dropLast_concat]

theorem State.cueNext_forever (loops : r.loops = front ++ [e]) (endless : e.count = 0) :
    s.cueNext p r = .goes s (e.cue.val + 1) := by
  unfold State.cueNext
  rw [loops, List.getLast?_concat]
  dsimp only
  rw [if_neg (by rw [endless]; decide), if_pos endless]

theorem State.cueNext_repeats (loops : r.loops = front ++ [e]) (more : 1 < e.count) :
    s.cueNext p r = .goes (s.setLoops p r (front ++ [⟨e.cue, e.count - 1⟩])) (e.cue.val + 1) := by
  unfold State.cueNext
  rw [loops, List.getLast?_concat]
  dsimp only
  rw [if_neg (by omega), if_neg (by omega), List.dropLast_concat]

end Newest

/-! ### The cues of one frame event -/

variable {n : Nat} {t : State}

theorem State.runCues_stops {reason : StopReason} (held : s.engine.players[p] = some r)
    (done : s.execCue p r = .stops reason) : s.runCues (n + 1) p = (s, some reason) := by
  rw [State.runCues, held]
  dsimp only
  rw [done]

theorem State.runCues_blocks (held : s.engine.players[p] = some r) (done : s.execCue p r = .blocks) :
    s.runCues (n + 1) p = (s.setPlayer p (some { r with phase := .blocked }), none) := by
  rw [State.runCues, held]
  dsimp only
  rw [done]

theorem State.runCues_awaits {a : Await} (held : s.engine.players[p] = some r) (done : s.execCue p r = .awaits t a) :
    s.runCues (n + 1) p = (t.setPlayer p (some { r with phase := .awaiting a, executed := r.executed + 1 }), none) := by
  rw [State.runCues, held]
  dsimp only
  rw [done]

/-- R44: the record of a player that has executed one cue more and arrives at cue `c`. -/
def Run.onto (q : Run) (t : Tables) (c : Fin 2048) : Run :=
  { q with cue := c, phase := .delaying (t.cue c).delay, executed := q.executed + 1 }

variable {q : Run} {target : Nat} {c : Fin 2048}

/-- R43: the player arrives at a cue, and goes on from there when its delay is 0 and the limit allows it. -/
theorem State.runCues_goes (held : s.engine.players[p] = some r) (done : s.execCue p r = .goes t target)
    (kept : t.engine.players[p] = some q) (aim : target = c.val) :
    s.runCues (n + 1) p =
      if (t.store.tables.cue c).delay = 0 ∧ q.executed + 1 < 16 then
        (t.setPlayer p (some (q.onto t.store.tables c))).runCues n p
      else (t.setPlayer p (some (q.onto t.store.tables c)), none) := by
  rw [State.runCues, held]
  dsimp only
  rw [done]
  dsimp only
  rw [kept, Option.getD_some, index?_val aim]
  rfl

theorem State.runCues_arrives (held : s.engine.players[p] = some r) (done : s.execCue p r = .goes t target)
    (kept : t.engine.players[p] = some q) (aim : target = c.val) (waits : (t.store.tables.cue c).delay ≠ 0) :
    s.runCues (n + 1) p = (t.setPlayer p (some (q.onto t.store.tables c)), none) := by
  rw [State.runCues_goes held done kept aim, if_neg fun h => waits h.1]

/-- R44: past cue 2047 the player ends. -/
theorem State.runCues_ends (held : s.engine.players[p] = some r) (done : s.execCue p r = .goes t target)
    (kept : t.engine.players[p] = some q) (past : 2048 ≤ target) :
    s.runCues (n + 1) p = (t.setPlayer p (some { q with executed := q.executed + 1 }), some .finish) := by
  rw [State.runCues, held]
  dsimp only
  rw [done]
  dsimp only
  rw [kept, Option.getD_some, index?_ge past]

end Cues

/-! ### The frame event of a player -/

section Frame

variable {s t : State} {p : Fin 8} {r : Run} {f : Nat}

/-- The record of a player whose frame event in show frame f is under way, in a phase. -/
def Run.under (r : Run) (phase : Phase) (f : Nat) : Run := { r with phase := phase, executed := 0, frame := some f }

/-- The part in show frame f, with player `p` under way in a phase. -/
def State.under (s : State) (p : Fin 8) (r : Run) (phase : Phase) (f : Nat) : State :=
  (s.atFrame f).setPlayer p (some (r.under phase f))

theorem State.under_held (s : State) (p : Fin 8) (r : Run) (phase : Phase) (f : Nat) :
    (s.under p r phase f).engine.players[p] = some (r.under phase f) := State.setPlayer_player ..

theorem Run.under_alike (r : Run) (phase : Phase) (f : Nat) : (r.under phase f).Alike r := ⟨rfl, rfl, rfl⟩

theorem State.playerFrame_goes (held : s.engine.players[p] = some r)
    (acted : (s.under p r r.phase f).playerActs p (r.under r.phase f) = (t, none)) :
    (s.atFrame f).playerFrame p f = t := by
  unfold State.under Run.under at acted
  unfold State.playerFrame
  rw [show (s.atFrame f).engine.players[p] = some r from held]
  dsimp only
  rw [acted]

theorem State.playerFrame_stops {reason : StopReason} (held : s.engine.players[p] = some r)
    (acted : (s.under p r r.phase f).playerActs p (r.under r.phase f) = (t, some reason)) :
    (s.atFrame f).playerFrame p f = t.stopAndRescan p reason := by
  unfold State.under Run.under at acted
  unfold State.playerFrame
  rw [show (s.atFrame f).engine.players[p] = some r from held]
  dsimp only
  rw [acted]

theorem State.playerActs_waits {d : Nat} (phase : r.phase = .delaying d) (long : 1 < d) :
    (s.under p r r.phase f).playerActs p (r.under r.phase f) = (s.under p r (.delaying (d - 1)) f, none) := by
  unfold State.playerActs
  rw [show (r.under r.phase f).phase = .delaying d from phase]
  dsimp only
  rw [if_neg (by omega)]
  unfold State.under
  rw [State.setPlayer_setPlayer]
  rfl

theorem State.playerActs_due {d : Nat} (phase : r.phase = .delaying d) (due : d ≤ 1) :
    (s.under p r r.phase f).playerActs p (r.under r.phase f) = (s.under p r (.delaying 0) f).runCues (15 + 1) p := by
  unfold State.playerActs
  rw [show (r.under r.phase f).phase = .delaying d from phase]
  dsimp only
  rw [if_pos due]
  unfold State.under
  rw [State.setPlayer_setPlayer]
  rfl

theorem exec_playerFrameEvent_new (live : s.inReset = false) (held : s.engine.players[p] = some r) (new : r.frame ≠ some f) :
    exec (.playerFrameEvent p f) s = .next (((s.atFrame f).playerFrame p f).finish) := by
  refine congrArg Host.Outcome.next (State.frameStep_due _ live ?_ ?_)
  · rw [held]
    rfl
  · unfold State.playerStamp
    rw [held]
    exact new

theorem exec_cueDelayExpiry_due {d : Nat} (live : s.inReset = false) (held : s.engine.players[p] = some r) (new : r.frame ≠ some f)
    (phase : r.phase = .delaying d) (due : d ≤ 1) :
    exec (.cueDelayExpiry p f) s = .next (((s.atFrame f).playerFrame p f).finish) := by
  refine congrArg Host.Outcome.next (State.frameStep_due _ live ?_ ?_)
  · rw [held, Option.any_some, Run.delayEnds, phase]
    exact decide_eq_true due
  · unfold State.playerStamp
    rw [held]
    exact new

end Frame

end Sys2Proof.Machine
end

section
/-! The frame event of a DELAYING player (O28). -/

namespace Sys2Proof.Machine

/-! ### A delay that is over -/

/-- R43: player `p`, whose record is `r`, executes the cue at its cue pointer in show frame f. -/
structure State.Due (s : State) (p : Fin 8) (r : Run) (f : Nat) : Prop where
  live : s.inReset = false
  held : s.engine.players[p] = some r
  new : r.frame ≠ some f
  delay : ∃ d : Nat, r.phase = .delaying d ∧ d ≤ 1

section Due

variable {s y : State} {p : Fin 8} {r q : Run} {f target : Nat} {c : Fin 2048}

/-- PLAYER_FRAME_EVENT and CUE_DELAY_EXPIRY of player `p` in show frame f both lead to `t`. -/
def State.FramesTo (s : State) (p : Fin 8) (f : Nat) (t : State) : Prop :=
  exec (.playerFrameEvent p f) s = .next t.finish ∧ exec (.cueDelayExpiry p f) s = .next t.finish

theorem State.Due.framesTo (due : s.Due p r f) {t : State} (frame : (s.atFrame f).playerFrame p f = t) :
    s.FramesTo p f t := by
  subst frame
  obtain ⟨d, phase, short⟩ := due.delay
  exact ⟨exec_playerFrameEvent_new due.live due.held due.new, exec_cueDelayExpiry_due due.live due.held due.new phase short⟩

theorem State.Due.acts (due : s.Due p r f) {x : State × Option StopReason}
    (runs : (s.under p r (.delaying 0) f).runCues (15 + 1) p = x) :
    (s.under p r r.phase f).playerActs p (r.under r.phase f) = x := by
  obtain ⟨d, phase, short⟩ := due.delay
  exact (State.playerActs_due phase short).trans runs

theorem State.Due.stays (due : s.Due p r f) (runs : (s.under p r (.delaying 0) f).runCues (15 + 1) p = (y, none)) :
    s.FramesTo p f y := due.framesTo (State.playerFrame_goes due.held (due.acts runs))

theorem State.Due.arrives (due : s.Due p r f)
    (done : (s.under p r (.delaying 0) f).execCue p (r.under (.delaying 0) f) = .goes (y.setPlayer p (some q)) target)
    (aim : target = c.val) (waits : (y.store.tables.cue c).delay ≠ 0) :
    s.FramesTo p f (y.setPlayer p (some (q.onto y.store.tables c))) := by
  refine due.stays ?_
  rw [State.runCues_arrives (State.under_held ..) done (State.setPlayer_player ..) aim waits, State.setPlayer_setPlayer]
  rfl

theorem State.Due.stops (due : s.Due p r f) {reason : StopReason}
    (done : (s.under p r (.delaying 0) f).execCue p (r.under (.delaying 0) f) = .stops reason) :
    s.FramesTo p f ((s.atFrame f).stopAndRescan p reason) := by
  refine due.framesTo ?_
  rw [State.playerFrame_stops due.held (due.acts (State.runCues_stops (State.under_held ..) done))]
  exact State.stopAndRescan_alike (s := s.atFrame f) due.held (Run.under_alike ..) reason

/-- R44, R55: the player goes past cue 2047. -/
theorem State.Due.ends (due : s.Due p r f) (held : y.engine.players[p] = some r)
    (done : (s.under p r (.delaying 0) f).execCue p (r.under (.delaying 0) f) =
      .goes (y.setPlayer p (some (r.under (.delaying 0) f))) target)
    (past : 2048 ≤ target) : s.FramesTo p f (y.stopAndRescan p .finish) := by
  refine due.framesTo ?_
  rw [State.playerFrame_stops due.held
    (due.acts (State.runCues_ends (State.under_held ..) done (State.setPlayer_player ..) past)), State.setPlayer_setPlayer]
  exact State.stopAndRescan_alike (y := { r.under (.delaying 0) f with executed := 1 }) held ⟨rfl, rfl, rfl⟩ .finish

theorem State.under_setLoops (loops : List LoopEntry) (phase : Phase) :
    (s.under p r phase f).setLoops p (r.under phase f) loops =
      (s.atFrame f).setPlayer p (some { r.under phase f with loops := loops }) := State.setPlayer_setPlayer ..

end Due

/-! ### Sixteen cues in one frame event -/

section Marks

variable {s : State} {p : Fin 8} {r : Run} {f : Nat} {codes : Nat → Nat} {last : Fin 2048}

/-- The reports of the first `k` MARK cues. -/
def Link.marked (l : Link) (codes : Nat → Nat) (r : Run) (p : Fin 8) (k : Nat) : Link :=
  (List.range k).foldl
    (fun (l : Link) (k : Nat) => l.raise (.mark (codes k) r.scene p (Fin.ofNat 2048 (r.cue.val + k)))) l

/-- The part after the first `k` MARK cues of a frame event. -/
def State.marked (s : State) (codes : Nat → Nat) (p : Fin 8) (r : Run) (f k : Nat) : State :=
  { s with
    frame := some f
    link := s.link.marked codes r p k
    engine := { s.engine with players := s.engine.players.set p (some
      { r with cue := Fin.ofNat 2048 (r.cue.val + k), phase := .delaying 0, executed := k, frame := some f }) } }

theorem State.marked_zero : s.marked codes p r f 0 = s.under p r (.delaying 0) f := by
  have same : Fin.ofNat 2048 (r.cue.val + 0) = r.cue := Fin.ext (Nat.mod_eq_of_lt r.cue.isLt)
  unfold State.marked
  rw [same]
  rfl

theorem Link.marked_succ (l : Link) (k : Nat) :
    l.marked codes r p (k + 1) =
      (l.marked codes r p k).raise (.mark (codes k) r.scene p (Fin.ofNat 2048 (r.cue.val + k))) := by
  unfold Link.marked
  rw [List.range_succ, List.foldl_append]
  rfl

theorem State.marked_runs (ends : last.val = r.cue.val + 16)
    (marks : ∀ (k : Nat) (c : Fin 2048), k < 16 → c.val = r.cue.val + k →
      (s.store.tables.cue c).cue? = some (.mark (codes k)))
    (zero : ∀ c : Fin 2048, r.cue < c → c ≤ last → (s.store.tables.cue c).delay = 0) :
    ∀ n k : Nat, k + n = 16 → (s.marked codes p r f k).runCues n p = (s.marked codes p r f 16, none) := by
  intro n
  induction n with
  | zero =>
    intro k all
    rw [← all]
    rfl
  | succ n ih =>
    intro k all
    have room : r.cue.val + (k + 1) < 2048 := by omega
    have here : (Fin.ofNat 2048 (r.cue.val + k)).val = r.cue.val + k := Nat.mod_eq_of_lt (by omega)
    have there : (Fin.ofNat 2048 (r.cue.val + (k + 1))).val = r.cue.val + (k + 1) := Nat.mod_eq_of_lt room
    have delay := zero (Fin.ofNat 2048 (r.cue.val + (k + 1))) (Fin.lt_def.2 (by omega)) (Fin.le_def.2 (by omega))
    have held : (s.marked codes p r f k).engine.players[p] = some
        { r with cue := Fin.ofNat 2048 (r.cue.val + k), phase := .delaying 0, executed := k, frame := some f } :=
      State.setPlayer_player ..
    have cue : (s.marked codes p r f k).cueOf
        { r with cue := Fin.ofNat 2048 (r.cue.val + k), phase := .delaying 0, executed := k, frame := some f } =
          .mark (codes k) := by
      unfold State.cueOf
      dsimp only
      rw [show (s.marked codes p r f k).store = s.store from rfl, marks k _ (by omega) here, Option.getD_some]
    have arrived : ((s.marked codes p r f k).raise
          (.mark (codes k) r.scene p (Fin.ofNat 2048 (r.cue.val + k)))).setPlayer p (some
            (Run.onto { r with cue := Fin.ofNat 2048 (r.cue.val + k), phase := .delaying 0, executed := k, frame := some f }
              s.store.tables (Fin.ofNat 2048 (r.cue.val + (k + 1))))) = s.marked codes p r f (k + 1) := by
      unfold Run.onto State.marked State.setPlayer State.raise
      dsimp only
      rw [delay, Link.marked_succ, Vector.set_set]
    have step := State.runCues_goes (n := n) held (State.execCue_mark cue) held (c := Fin.ofNat 2048 (r.cue.val + (k + 1)))
      (by rw [there]; show (Fin.ofNat 2048 (r.cue.val + k)).val + 1 = _; omega)
    refine step.trans ?_
    rw [show ((s.marked codes p r f k).raise _).store.tables = s.store.tables from rfl]
    rw [show State.setPlayer _ p _ = _ from arrived, ih (k + 1) (by omega)]
    split
    · rfl
    · next stop =>
      have full : k + 1 = 16 :=
        Decidable.byContradiction fun differs => stop ⟨delay, show k + 1 < 16 by omega⟩
      rw [full]

end Marks

/-- Settles O28. -/
theorem delaysCountAndCuesExecute : Obligations.DelaysCountAndCuesExecute := by
  unfold Obligations.DelaysCountAndCuesExecute
  intro s p f live
  refine ⟨fun free => ⟨?_, ?_⟩, fun r d held phase => ?_⟩
  · exact congrArg Host.Outcome.next (State.frameStep_idle _ (.inr (.inl (by rw [free]; rfl))))
  · exact congrArg Host.Outcome.next (State.frameStep_idle _ (.inr (.inl (by rw [free]; rfl))))
  have stamp : s.playerStamp p = r.frame := by
    unfold State.playerStamp
    rw [held]
    rfl
  intro becomes cue delay base goes stops
  refine ⟨fun taken => ⟨?_, ?_⟩, fun new long => ⟨?_, ?_⟩, fun new short => ?_⟩
  · exact congrArg Host.Outcome.next (State.frameStep_idle _ (.inr (.inr (stamp.trans taken))))
  · exact congrArg Host.Outcome.next (State.frameStep_idle _ (.inr (.inr (stamp.trans taken))))
  · rw [exec_playerFrameEvent_new live held new, State.playerFrame_goes held (State.playerActs_waits phase long)]
    rfl
  · refine congrArg Host.Outcome.next (State.frameStep_idle _ (.inr (.inl ?_)))
    rw [held, Option.any_some, Run.delayEnds, phase]
    exact decide_eq_false (Nat.not_le.2 long)
  have due : s.Due p r f := ⟨live, held, new, d, phase, short⟩
  have asks : (s.under p r (.delaying 0) f).cueOf (r.under (.delaying 0) f) = s.cueOf r := rfl
  have halts (reason : StopReason)
      (done : (s.under p r (.delaying 0) f).execCue p (r.under (.delaying 0) f) = .stops reason) : stops base reason :=
    fun empty rests => ⟨_, due.stops done, State.stopAndRescan_stops (s := base) held (.inr rests) empty⟩
  refine ⟨fun next follows waits => ⟨fun code is => ?_, fun count is room => ?_, fun front e is loops once => ?_,
      fun b mode is => ?_⟩,
    fun front e target is loops aim waits => ⟨fun endless => ?_, fun more => ?_⟩, fun target is waits => ?_,
    fun codes last ends marks zero => ?_, fun is => ?_, fun target is past => ?_, fun code is top => ?_, fun is bare => ?_,
    fun count is full => ?_, fun is again house => ⟨fun q voice free => ?_, fun empty out => ?_⟩⟩
  · exact due.arrives (y := (s.atFrame f).raise (.mark code r.scene p r.cue)) (State.execCue_mark is) follows.symm waits
  · exact due.arrives (y := s.atFrame f)
      ((State.execCue_loop (asks.trans is) room).trans (congrArg (CueEffect.goes · _) (State.under_setLoops ..)))
      follows.symm waits
  · exact due.arrives (y := s.atFrame f) ((State.execCue_next (asks.trans is)).trans
      ((State.cueNext_ends (r := r.under (.delaying 0) f) loops once).trans
        (congrArg (CueEffect.goes · _) (State.under_setLoops ..)))) follows.symm waits
  · exact due.arrives (y := (s.atFrame f).setLamp b mode) (State.execCue_lamp is) follows.symm waits
  · exact due.arrives (y := s.atFrame f)
      ((State.execCue_next (asks.trans is)).trans (State.cueNext_forever loops endless)) aim.symm waits
  · exact due.arrives (y := s.atFrame f) ((State.execCue_next (asks.trans is)).trans
      ((State.cueNext_repeats (r := r.under (.delaying 0) f) loops more).trans
        (congrArg (CueEffect.goes · _) (State.under_setLoops ..)))) aim.symm waits
  · exact due.arrives (y := s.atFrame f) (State.execCue_goto is) rfl waits
  · have runs := State.marked_runs (p := p) (f := f) ends marks zero 16 0 rfl
    rw [State.marked_zero] at runs
    have top : Fin.ofNat 2048 (r.cue.val + 16) = last := Fin.ext ((Nat.mod_eq_of_lt (by omega)).trans ends.symm)
    have reached := due.stays runs
    unfold State.marked at reached
    rw [top] at reached
    exact reached
  · exact halts .finish (State.execCue_finish is)
  · exact fun empty rests => ⟨_, due.ends (y := s.atFrame f) held (State.execCue_goto is) past,
      State.stopAndRescan_stops (s := base) held (.inr rests) empty⟩
  · exact fun empty rests => ⟨_, due.ends (y := (s.atFrame f).raise (.mark code r.scene p r.cue)) held
        (State.execCue_mark is) (by show 2048 ≤ r.cue.val + 1; rw [top]; decide),
      State.stopAndRescan_stops (s := { base with link := s.link.raise (.mark code r.scene p r.cue) }) held (.inr rests) empty⟩
  · exact halts .cueError ((State.execCue_next (asks.trans is)).trans (State.cueNext_empty bare))
  · exact halts .cueError (State.execCue_loopFull (asks.trans is) full)
  · have stopped := due.stops (State.execCue_finish is)
    rw [State.stopAndRescan_starts (s := s.atFrame f) held free again rfl house] at stopped
    exact ⟨_, stopped, State.restarting_restarts (s := s.atFrame f) held free ..⟩
  · obtain ⟨waits, -⟩ := State.waitsOrDrops_intro (s := s.atFrame f) held empty out .again
      fun _ _ o ends => State.stopAndRescan_offers (s := s.atFrame f) (reason := .finish) held out again rfl house o ends
    exact ⟨_, _, State.halt_stops (s := s.atFrame f) held .finish, waits, due.stops (State.execCue_finish is)⟩

end Sys2Proof.Machine
end

section
/-! AWAIT cues and the frame event of an AWAITING player (O29). -/

namespace Sys2Proof.Machine

/-! ### The test of a condition -/

section Tests

variable {s : State} {p : Fin 8} {voice : Option (Fin 4)} {seen : Bool}

theorem AxisState.awaited_holds {x : AxisState} : x.awaited = .holds ↔ x = .idle ∨ x = .unhomed := by
  cases x <;> decide

theorem AxisState.awaited_fails {x : AxisState} : x.awaited = .fails ↔ x = .fault := by
  cases x <;> decide

theorem Engine.mem_axesOf {e : Engine} {a : Fin 8} : a ∈ e.axesOf p ↔ e.claims.axes[a] = some p := by
  unfold Engine.axesOf
  rw [List.mem_filter, decide_eq_true_eq, and_iff_right (List.mem_finRange a)]

/-- R51: the test of several conditions together. -/
def AwaitTest.all (tests : List AwaitTest) : AwaitTest :=
  if tests.contains .fails then .fails else if tests.contains .waits then .waits else .holds

theorem AwaitTest.all_fails {tests : List AwaitTest} : AwaitTest.all tests = .fails ↔ .fails ∈ tests := by
  unfold AwaitTest.all
  simp only [List.contains_iff_mem]
  by_cases fails : AwaitTest.fails ∈ tests
  · rw [if_pos fails]
    exact iff_of_true rfl fails
  · rw [if_neg fails]
    refine iff_of_false ?_ fails
    split <;> nofun

theorem AwaitTest.all_holds {tests : List AwaitTest} : AwaitTest.all tests = .holds ↔ ∀ x ∈ tests, x = .holds := by
  unfold AwaitTest.all
  simp only [List.contains_iff_mem]
  refine ⟨fun all x inside => ?_, fun all => ?_⟩
  · cases x with
    | holds => rfl
    | fails =>
      rw [if_pos inside] at all
      exact all
    | waits =>
      split at all
      · exact absurd all nofun
      · exact all
  · rw [if_neg (show AwaitTest.fails ∉ tests from fun inside => nomatch all _ inside),
      if_neg (show AwaitTest.waits ∉ tests from fun inside => nomatch all _ inside)]

theorem State.testAwait_axesDone :
    s.testAwait p voice seen .axesDone =
      AwaitTest.all ((s.engine.axesOf p).map fun a => (s.motion.axes[a]).state.awaited) := rfl

theorem State.axesDone_fails :
    s.testAwait p voice seen .axesDone = .fails ↔
      ∃ a : Fin 8, s.engine.claims.axes[a] = some p ∧ (s.motion.axes[a]).state = .fault := by
  simp only [State.testAwait_axesDone, AwaitTest.all_fails, List.mem_map, Engine.mem_axesOf, AxisState.awaited_fails]

theorem State.axesDone_holds :
    s.testAwait p voice seen .axesDone = .holds ↔
      ∀ a : Fin 8, s.engine.claims.axes[a] = some p →
        (s.motion.axes[a]).state = .idle ∨ (s.motion.axes[a]).state = .unhomed := by
  simp only [State.testAwait_axesDone, AwaitTest.all_holds, List.mem_map, Engine.mem_axesOf, forall_exists_index, and_imp,
    forall_apply_eq_imp_iff₂, AxisState.awaited_holds]

theorem State.zoneTests {z : Fin 12} :
    (¬ ((s.monitor.zones[z]).state = .occupied ∨ (s.monitor.zones[z]).state = .emptying) →
      s.testAwait p voice seen (.zoneClear z) = .holds ∧ s.testAwait p voice seen (.zoneOccupied z) = .waits)
    ∧ ((s.monitor.zones[z]).state = .occupied ∨ (s.monitor.zones[z]).state = .emptying →
      s.testAwait p voice seen (.zoneClear z) = .waits ∧ s.testAwait p voice seen (.zoneOccupied z) = .holds) := by
  unfold State.testAwait
  dsimp only
  cases (s.monitor.zones[z]).state <;> simp

end Tests

/-! ### The AWAIT cue -/

section AwaitCue

variable {s : State} {p : Fin 8} {r : Run} {cond : AwaitCond} {operand : Byte} {timeout : Nat} {target : Fin 2048}

/-- R50: the condition is about an axis that the player does not claim. -/
def State.Unclaimed (s : State) (p : Fin 8) (cond : AwaitCond) : Prop :=
  ∃ a : Fin 8, cond = .axisDone a ∧ s.engine.claims.axes[a] ≠ some p

theorem State.cueAwait_unclaimed (apart : s.Unclaimed p cond) :
    s.cueAwait p r cond operand timeout target = .stops .cueError := by
  obtain ⟨a, rfl, other⟩ := apart
  exact if_pos (decide_eq_true other)

/-- R50: what an AWAIT comes to by the test of its condition. -/
def State.awaitCue (s : State) (r : Run) (a : Await) : AwaitTest → CueEffect
  | .holds => .goes s (r.cue.val + 1)
  | .fails => .stops .axisFault
  | .waits => .awaits s a

theorem State.cueAwait_tests (own : ¬ s.Unclaimed p cond) :
    s.cueAwait p r cond operand timeout target =
      s.awaitCue r ⟨cond, operand, if timeout = 0 then none else some timeout, target, false⟩
        (s.testAwait p r.voice false cond) := by
  unfold State.cueAwait
  dsimp only
  refine (if_neg ?_).trans ?_
  · cases cond with
    | axisDone a => exact fun other => own ⟨a, rfl, of_decide_eq_true other⟩
    | _ => exact Bool.false_ne_true
  · cases s.testAwait p r.voice false cond <;> rfl

end AwaitCue

/-! ### The frame event of an AWAITING player -/

section Awaiting

variable {s t : State} {p : Fin 8} {r : Run} {f : Nat} {a : Await}

/-- R51, R52: what the frame event of an AWAITING player comes to by the test of its condition. -/
def State.awaitEvent (s : State) (p : Fin 8) (r : Run) (a : Await) : AwaitTest → State × Option StopReason
  | .holds => s.leaveAwait p r (r.cue.val + 1)
  | .fails => (s, some .axisFault)
  | .waits =>
    match a.timeout with
    | none => (s, none)
    | some t =>
      if t ≤ 1 then s.leaveAwait p r a.target
      else (s.setPlayer p (some { r with phase := .awaiting { a with timeout := some (t - 1) } }), none)

theorem State.playerActs_tests (phase : r.phase = .awaiting a) {test : AwaitTest}
    (tested : s.testAwait p r.voice a.seen a.cond = test) :
    (s.under p r r.phase f).playerActs p (r.under r.phase f) =
      (s.under p r r.phase f).awaitEvent p (r.under r.phase f) a test := by
  unfold State.playerActs
  rw [show (r.under r.phase f).phase = .awaiting a from phase]
  dsimp only
  rw [show (s.under p r r.phase f).testAwait p (r.under r.phase f).voice a.seen a.cond = test from tested]
  cases test <;> rfl

theorem State.awaitEvent_stays (endless : a.timeout = none) : s.awaitEvent p r a .waits = (s, none) := by
  rw [State.awaitEvent, endless]

theorem State.awaitEvent_counts {n : Nat} (counts : a.timeout = some n) (long : 1 < n) :
    s.awaitEvent p r a .waits =
      (s.setPlayer p (some { r with phase := .awaiting { a with timeout := some (n - 1) } }), none) := by
  rw [State.awaitEvent, counts]
  exact if_neg (Nat.not_le.2 long)

theorem State.awaitEvent_expires {n : Nat} (counts : a.timeout = some n) (last : n ≤ 1) :
    s.awaitEvent p r a .waits = s.leaveAwait p r a.target := by
  rw [State.awaitEvent, counts]
  exact if_pos last

theorem State.playerActs_stays (phase : r.phase = .awaiting a)
    (waits : s.testAwait p r.voice a.seen a.cond = .waits) (endless : a.timeout = none) :
    (s.under p r r.phase f).playerActs p (r.under r.phase f) = (s.under p r r.phase f, none) :=
  (State.playerActs_tests phase waits).trans (State.awaitEvent_stays endless)

/-- R52: a timeout above 1 falls by 1. -/
theorem State.playerActs_counts {n : Nat} (phase : r.phase = .awaiting a)
    (waits : s.testAwait p r.voice a.seen a.cond = .waits) (counts : a.timeout = some n) (long : 1 < n) :
    (s.under p r r.phase f).playerActs p (r.under r.phase f) =
      (s.under p r (.awaiting { a with timeout := some (n - 1) }) f, none) := by
  refine ((State.playerActs_tests phase waits).trans (State.awaitEvent_counts counts long)).trans ?_
  unfold State.under
  rw [State.setPlayer_setPlayer]
  rfl

theorem State.playerActs_expires {n : Nat} (phase : r.phase = .awaiting a)
    (waits : s.testAwait p r.voice a.seen a.cond = .waits) (counts : a.timeout = some n) (last : n ≤ 1) :
    (s.under p r r.phase f).playerActs p (r.under r.phase f) =
      (s.under p r r.phase f).leaveAwait p (r.under r.phase f) a.target :=
  (State.playerActs_tests phase waits).trans (State.awaitEvent_expires counts last)

/-- R44: the player leaves its await for a cue with a delay. -/
theorem State.leaveAwait_waits {target : Nat} {c : Fin 2048} (aim : target = c.val)
    (waits : (s.store.tables.cue c).delay ≠ 0) :
    (s.under p r r.phase f).leaveAwait p (r.under r.phase f) target =
      (s.under p { r with cue := c } (.delaying (s.store.tables.cue c).delay) f, none) := by
  unfold State.leaveAwait
  rw [index?_val aim]
  dsimp only
  rw [if_neg (show ¬ ((s.under p r r.phase f).store.tables.cue c).delay = 0 from waits)]
  unfold State.under
  rw [State.setPlayer_setPlayer]
  rfl

theorem exec_awaitTimeout_due {n : Nat} (live : s.inReset = false) (held : s.engine.players[p] = some r)
    (new : r.frame ≠ some f) (phase : r.phase = .awaiting a) (counts : a.timeout = some n) (last : n ≤ 1) :
    exec (.awaitTimeout p f) s = .next (((s.atFrame f).playerFrame p f).finish) := by
  refine congrArg Host.Outcome.next (State.frameStep_due _ live ?_ ?_)
  · rw [held, Option.any_some, Run.awaitEnds, phase]
    dsimp only
    rw [counts, Option.any_some]
    exact decide_eq_true last
  · unfold State.playerStamp
    rw [held]
    exact new

/-- R52: with no timeout, or one above 1, AWAIT_TIMEOUT is no event. -/
theorem exec_awaitTimeout_idle (held : s.engine.players[p] = some r) (phase : r.phase = .awaiting a)
    (early : ∀ n : Nat, a.timeout = some n → 1 < n) : exec (.awaitTimeout p f) s = .next s := by
  refine congrArg Host.Outcome.next (State.frameStep_idle _ (.inr (.inl ?_)))
  rw [held, Option.any_some, Run.awaitEnds, phase]
  dsimp only
  cases counts : a.timeout with
  | none => rfl
  | some n => exact decide_eq_false (Nat.not_le.2 (early n counts))

end Awaiting

/-- Settles O29. -/
theorem awaitsEndOrTimeOut : Obligations.AwaitsEndOrTimeOut := by
  unfold Obligations.AwaitsEndOrTimeOut
  refine ⟨fun s p voice seen => ?_, fun s p f r live held new => ?_⟩
  · refine ⟨fun v own => ?_, fun mute => ?_, fun a => ⟨AxisState.awaited_holds, AxisState.awaited_fails⟩,
      State.axesDone_fails, State.axesDone_holds, fun z => State.zoneTests, fun b => rfl⟩
    · rw [own]
      rfl
    · rw [mute]
      rfl
  intro becomes stays arrives stops
  have frames {t : State} {x : State × Option StopReason}
      (acted : (s.under p r r.phase f).playerActs p (r.under r.phase f) = x) (ends : x = (t, none)) :
      exec (.playerFrameEvent p f) s = .next t.finish := by
    rw [exec_playerFrameEvent_new live held new, State.playerFrame_goes held (acted.trans ends)]
  refine ⟨fun d cond operand timeout target phase short is => ?_,
    fun a phase => ⟨fun waits => ⟨fun endless => ⟨?_, ?_⟩, fun n counts long => ⟨?_, ?_⟩, fun n counts last delay => ?_⟩,
      fun holds next follows delay => ?_, fun fails empty rests => ?_⟩⟩
  · intro unclaimed
    have due : s.Due p r f := ⟨live, held, new, d, phase, short⟩
    have cue : (s.under p r (.delaying 0) f).execCue p (r.under (.delaying 0) f) = _ :=
      State.execCue_await (s := s.under p r (.delaying 0) f) (r := r.under (.delaying 0) f) is
    have tested (own : ¬ unclaimed) {test : AwaitTest} (result : s.testAwait p r.voice false cond = test) :
        (s.under p r (.delaying 0) f).execCue p (r.under (.delaying 0) f) =
          (s.under p r (.delaying 0) f).awaitCue (r.under (.delaying 0) f)
            ⟨cond, operand, if timeout = 0 then none else some timeout, target, false⟩ test := by
      rw [cue, State.cueAwait_tests (s := s.under p r (.delaying 0) f) own, ← result]
      rfl
    have halts (reason : StopReason)
        (done : (s.under p r (.delaying 0) f).execCue p (r.under (.delaying 0) f) = .stops reason) : stops reason :=
      fun empty rests => ⟨_, (due.stops done).1, State.stopAndRescan_stops (s := s.atFrame f) held (.inr rests) empty⟩
    refine ⟨fun apart => ?_, fun own fails => ?_, fun own waits => ?_, fun own holds next follows delay => ?_⟩
    · exact halts .cueError (cue.trans (State.cueAwait_unclaimed (s := s.under p r (.delaying 0) f) apart))
    · exact halts .axisFault (tested own fails)
    · have runs := State.runCues_awaits (n := 15) (State.under_held ..) (tested own waits)
      unfold State.under at runs
      rw [State.setPlayer_setPlayer] at runs
      exact (due.stays runs).1
    · exact (due.arrives (y := s.atFrame f) (tested own holds) follows.symm delay).1
  · exact frames (State.playerActs_stays phase waits endless) rfl
  · exact exec_awaitTimeout_idle held phase fun n counts => by rw [endless] at counts; nomatch counts
  · exact frames (State.playerActs_counts phase waits counts long) rfl
  · exact exec_awaitTimeout_idle held phase fun m other => by
      rw [counts] at other
      exact Option.some.inj other ▸ long
  · have left := (State.playerActs_expires (f := f) phase waits counts last).trans (State.leaveAwait_waits rfl delay)
    refine ⟨frames left rfl, ?_⟩
    rw [exec_awaitTimeout_due live held new phase counts last, State.playerFrame_goes held left]
    rfl
  · refine frames (State.playerActs_tests phase holds) ?_
    exact (State.leaveAwait_waits follows.symm delay).trans rfl
  · refine ⟨_, ?_, State.stopAndRescan_stops (s := s.atFrame f) held (.inr rests) empty⟩
    rw [exec_playerFrameEvent_new live held new, State.playerFrame_stops held (State.playerActs_tests phase fails)]
    exact congrArg (Host.Outcome.next ·.finish)
      (State.stopAndRescan_alike (s := s.atFrame f) held (Run.under_alike ..) .axisFault)

end Sys2Proof.Machine
end

section
/-! The lighting, sound and motion cues, and what any cue leaves alone (O30). -/

namespace Sys2Proof.Machine

/-! ### A player that executes its cue, due or blocked before -/

/-- R43, R49: player `p`, whose record is `r`, executes its cue in show frame f, from this phase. -/
structure State.Executes (s : State) (p : Fin 8) (r : Run) (f : Nat) (phase : Phase) : Prop where
  live : s.inReset = false
  held : s.engine.players[p] = some r
  new : r.frame ≠ some f
  runs : (s.under p r r.phase f).playerActs p (r.under r.phase f) = (s.under p r phase f).runCues (15 + 1) p

section Executes

variable {s y : State} {p : Fin 8} {r q : Run} {f target : Nat} {c : Fin 2048} {phase : Phase}

theorem State.Due.executes (due : s.Due p r f) : s.Executes p r f (.delaying 0) :=
  ⟨due.live, due.held, due.new, due.acts rfl⟩

theorem State.playerActs_blocked (blocked : r.phase = .blocked) :
    (s.under p r r.phase f).playerActs p (r.under r.phase f) =
      if s.blockedReady r then (s.under p r .blocked f).runCues (15 + 1) p else (s.under p r .blocked f, none) := by
  unfold State.playerActs
  rw [show (r.under r.phase f).phase = .blocked from blocked, blocked]
  rfl

theorem State.Executes.arrives (does : s.Executes p r f phase)
    (done : (s.under p r phase f).execCue p (r.under phase f) = .goes (y.setPlayer p (some q)) target)
    (aim : target = c.val) (waits : (y.store.tables.cue c).delay ≠ 0) :
    exec (.playerFrameEvent p f) s = .next (y.setPlayer p (some (q.onto y.store.tables c))).finish := by
  rw [exec_playerFrameEvent_new does.live does.held does.new, State.playerFrame_goes does.held (does.runs.trans
    (State.runCues_arrives (State.under_held ..) done (State.setPlayer_player ..) aim waits)), State.setPlayer_setPlayer]
  rfl

theorem State.Executes.blocks (does : s.Executes p r f phase)
    (done : (s.under p r phase f).execCue p (r.under phase f) = .blocks) :
    exec (.playerFrameEvent p f) s = .next (s.under p r .blocked f).finish := by
  rw [exec_playerFrameEvent_new does.live does.held does.new, State.playerFrame_goes does.held (does.runs.trans
    (State.runCues_blocks (State.under_held ..) done))]
  exact congrArg (Host.Outcome.next ·.finish) (State.setPlayer_setPlayer ..)

theorem exec_playerFrameEvent_blocked (live : s.inReset = false) (held : s.engine.players[p] = some r) (new : r.frame ≠ some f)
    (blocked : r.phase = .blocked) (unready : s.blockedReady r = false) :
    exec (.playerFrameEvent p f) s = .next (s.under p r .blocked f).finish := by
  have acted := State.playerActs_blocked (s := s) (p := p) (f := f) blocked
  rw [unready, if_neg Bool.false_ne_true] at acted
  rw [exec_playerFrameEvent_new live held new, State.playerFrame_goes held acted]

end Executes

/-! ### When a blocked cue is ready -/

section Ready

variable {s : State} {p : Fin 8} {r : Run} {clip : Fin 256} {a : Fin 8} {position : Int} {profile : Option (Fin 16)}

theorem State.blockedReady_say (cue : s.cueOf r = .say clip) :
    s.blockedReady r = true ↔ ∀ v : Fin 4, r.voice = some v → (s.sound.voices[v]).state = .idle := by
  unfold State.blockedReady
  dsimp only
  rw [show ((s.store.tables.cue r.cue).cue?).getD .finish = _ from cue]
  dsimp only
  cases r.voice with
  | none => exact iff_of_true rfl nofun
  | some v => exact decide_eq_true_iff.trans ⟨fun idle w own => Option.some.inj own ▸ idle, fun h => h v rfl⟩

/-- R49: the axis of a blocked cue is ready. -/
def AxisState.Rests (x : AxisState) : Prop := x = .idle ∨ x = .held ∨ x = .unhomed

theorem State.blockedReady_axis (cue : s.cueOf r = .move a position profile ∨ s.cueOf r = .home a) :
    s.blockedReady r = true ↔ (s.motion.axes[a]).state.Rests := by
  unfold State.blockedReady AxisState.Rests
  dsimp only
  rcases cue with cue | cue <;>
    rw [show ((s.store.tables.cue r.cue).cue?).getD .finish = _ from cue] <;> dsimp only <;>
    cases (s.motion.axes[a]).state <;> decide

end Ready

/-! ### Axes -/

section Axes

variable {s : State} {p : Fin 8} {r : Run} {a : Fin 8} {position : Int} {profile : Option (Fin 16)} {y : Axis}

theorem State.cueMove_stopping (stopping : (s.motion.axes[a]).state = .stopping) :
    s.cueMove r a position profile = .blocks := by
  unfold State.cueMove
  dsimp only
  rw [stopping]

theorem State.cueHome_stopping (stopping : (s.motion.axes[a]).state = .stopping) : s.cueHome r a = .blocks := by
  unfold State.cueHome
  rw [stopping]

theorem State.cueMove_fault (fault : (s.motion.axes[a]).state = .fault) :
    s.cueMove r a position profile = .stops .axisFault := by
  unfold State.cueMove
  dsimp only
  rw [fault]

theorem State.cueHome_estop (fault : (s.motion.axes[a]).state = .fault) (cause : (s.motion.axes[a]).cause = some .estop) :
    s.cueHome r a = .stops .axisFault := by
  unfold State.cueHome Axis.takeHome?
  rw [fault, cause]
  rfl

theorem State.cueMove_taken (free : (s.motion.axes[a]).state ≠ .stopping)
    (taken : (s.motion.axes[a]).takeMove? s.store.tables (s.store.tables.axis a) (s.holdPresent a)
      ⟨position, profile.getD (s.store.tables.axis a).profile⟩ = some y) :
    s.cueMove r a position profile = .goes (s.setAxis a y) (r.cue.val + 1) := by
  have sound : (s.motion.axes[a]).state ≠ .fault := by
    intro fault
    unfold Axis.takeMove? at taken
    rw [fault] at taken
    nomatch taken
  unfold State.cueMove
  dsimp only
  rw [taken]
  cases state : (s.motion.axes[a]).state with
  | stopping => exact absurd state free
  | fault => exact absurd state sound
  | _ => rfl

theorem State.cueHome_taken (free : (s.motion.axes[a]).state ≠ .stopping)
    (taken : (s.motion.axes[a]).takeHome? (s.store.tables.axis a) (s.holdPresent a) = some y) :
    s.cueHome r a = .goes (s.setAxis a y) (r.cue.val + 1) := by
  unfold State.cueHome
  rw [taken]
  cases state : (s.motion.axes[a]).state with
  | stopping => exact absurd state free
  | _ => rfl

theorem State.cueMove_refused (free : (s.motion.axes[a]).state ≠ .stopping)
    (refused : (s.motion.axes[a]).takeMove? s.store.tables (s.store.tables.axis a) (s.holdPresent a)
      ⟨position, profile.getD (s.store.tables.axis a).profile⟩ = none) :
    s.cueMove r a position profile = .stops .axisFault := by
  unfold State.cueMove
  dsimp only
  rw [refused]
  cases state : (s.motion.axes[a]).state with
  | stopping => exact absurd state free
  | _ => rfl

theorem State.cueHome_refused (free : (s.motion.axes[a]).state ≠ .stopping)
    (refused : (s.motion.axes[a]).takeHome? (s.store.tables.axis a) (s.holdPresent a) = none) :
    s.cueHome r a = .stops .axisFault := by
  unfold State.cueHome
  rw [refused]
  cases state : (s.motion.axes[a]).state with
  | stopping => exact absurd state free
  | _ => rfl

end Axes

/-! ### Looks and clips -/

theorem Lighting.applyLook_takes (l : Lighting) (t : Tables) (look : Fin 128) (eligible : Fin 16 → Bool) (length : Nat)
    (curve : FadeCurve) :
    l.TakesLook (l.applyLook t look eligible length curve) t look (fun g => eligible g = true) (fun _ => length) curve := by
  refine ⟨l.applyLook_rest .., fun c => ⟨fun own => ?_, fun other => ?_⟩⟩
  · rw [l.applyLook_channel, if_pos own]
  · rw [l.applyLook_channel, if_neg other]

theorem ClipRec.choose_match {r : ClipRec} {language : Fin 4} {i : Nat} {w : Variant} (place : r.variants[i]? = some w)
    (fits : w.language = language)
    (first : ∀ (k : Nat) (y : Variant), k < i → r.variants[k]? = some y → y.language ≠ language) :
    r.choose language = i := by
  have found : r.variants.findIdx? (fun v => decide (v.language = language)) = some i := by
    rw [List.findIdx?_eq_some_iff_getElem]
    obtain ⟨inside, here⟩ := List.getElem?_eq_some_iff.1 place
    exact ⟨inside, decide_eq_true (here ▸ fits), fun k before => by
      simpa using first k _ before (List.getElem?_eq_getElem (by omega))⟩
  unfold ClipRec.choose
  rw [found]

theorem ClipRec.choose_default {r : ClipRec} {language : Fin 4} (none_ : ∀ y ∈ r.variants, y.language ≠ language) :
    r.choose language = 0 := by
  have missing : r.variants.findIdx? (fun v => decide (v.language = language)) = none := by
    rw [List.findIdx?_eq_none_iff]
    exact fun y inside => decide_eq_false (none_ y inside)
  unfold ClipRec.choose
  rw [missing]

theorem ClipRec.variant_eq {r : ClipRec} {i : Nat} {w : Variant} (place : r.variants[i]? = some w) : r.variant i = w := by
  rw [ClipRec.variant, List.getD_eq_getElem?_getD, place, Option.getD_some]

end Sys2Proof.Machine
end

section
/-! What any cue leaves alone, and the settlement of O30. -/

namespace Sys2Proof.Machine

/-! ### What any cue leaves alone -/

section Spares

variable {s t : State} {p : Fin 8} {r : Run}

/-- R45 to R49, R75: `t` differs from `s` only in what player `p`, whose record is `r`, has. -/
def State.Spares (s t : State) (p : Fin 8) (r : Run) : Prop :=
  t.store = s.store ∧ t.engine.claims = s.engine.claims ∧ t.engine.queue = s.engine.queue
  ∧ t.engine.scenes = s.engine.scenes
  ∧ (∀ q : Fin 8, q ≠ p → t.engine.players[q] = s.engine.players[q])
  ∧ (∀ c : Fin 48, s.engine.claims.groups[(s.store.tables.channel c).group] ≠ .player p →
      t.light.channels[c] = s.light.channels[c])
  ∧ (∀ g : Fin 16, s.engine.claims.groups[g] ≠ .player p → t.light.masters[g] = s.light.masters[g])
  ∧ t.light.grand = s.light.grand
  ∧ (∀ a : Fin 8, s.engine.claims.axes[a] ≠ some p → t.motion.axes[a] = s.motion.axes[a])
  ∧ (∀ v : Fin 4, r.voice ≠ some v → t.sound.voices[v] = s.sound.voices[v]) ∧ t.sound.beds = s.sound.beds
  ∧ t.monitor.zones = s.monitor.zones

theorem State.Spares.refl : s.Spares s p r :=
  ⟨rfl, rfl, rfl, rfl, fun _ _ => rfl, fun _ _ => rfl, fun _ _ => rfl, rfl, fun _ _ => rfl, fun _ _ => rfl, rfl, rfl⟩

theorem State.Spares.raise (x : Report) : s.Spares (s.raise x) p r := State.Spares.refl (s := s)

theorem State.Spares.setLamp (b : Fin 16) (mode : LampMode) : s.Spares (s.setLamp b mode) p r := State.Spares.refl (s := s)

theorem State.Spares.setLoops (loops : List LoopEntry) : s.Spares (s.setLoops p r loops) p r := by
  refine ⟨rfl, rfl, rfl, rfl, fun q other => ?_, fun _ _ => rfl, fun _ _ => rfl, rfl, fun _ _ => rfl, fun _ _ => rfl, rfl, rfl⟩
  exact (Vector.getElem_setFin ..).trans (if_neg (Ne.symm other))

theorem State.Spares.light {l : Lighting} (grand : l.grand = s.light.grand)
    (channels : ∀ c : Fin 48, s.engine.claims.groups[(s.store.tables.channel c).group] ≠ .player p →
      l.channels[c] = s.light.channels[c])
    (masters : ∀ g : Fin 16, s.engine.claims.groups[g] ≠ .player p → l.masters[g] = s.light.masters[g]) :
    s.Spares { s with light := l } p r :=
  ⟨rfl, rfl, rfl, rfl, fun _ _ => rfl, channels, masters, grand, fun _ _ => rfl, fun _ _ => rfl, rfl, rfl⟩

theorem State.Spares.voice {v : Fin 4} (own : r.voice = some v) (y : Voice) :
    s.Spares { s with sound := { s.sound with voices := s.sound.voices.set v y } } p r := by
  refine ⟨rfl, rfl, rfl, rfl, fun _ _ => rfl, fun _ _ => rfl, fun _ _ => rfl, rfl, fun _ _ => rfl, fun w other => ?_, rfl, rfl⟩
  exact (Vector.getElem_setFin ..).trans (if_neg fun same => other (own.trans (congrArg some same)))

theorem State.Spares.setAxis {a : Fin 8} (own : s.engine.claims.axes[a] = some p) (y : Axis) :
    s.Spares (s.setAxis a y) p r := by
  refine ⟨rfl, rfl, rfl, rfl, fun _ _ => rfl, fun _ _ => rfl, fun _ _ => rfl, rfl, fun b other => ?_, fun _ _ => rfl, rfl, rfl⟩
  exact (Vector.getElem_setFin ..).trans (if_neg fun same => by subst same; exact other own)

theorem State.Spares.look (look : Fin 128) (mask : BitVec 16) (fade : Nat) (curve : FadeCurve) :
    s.Spares { s with light := s.light.applyLook s.store.tables look
                        (fun g => mask.getLsbD g && decide (s.engine.claims.groups[g] = .player p)) fade curve } p r := by
  obtain ⟨rest, channels⟩ := s.light.applyLook_takes s.store.tables look
    (fun g => mask.getLsbD g && decide (s.engine.claims.groups[g] = .player p)) fade curve
  refine State.Spares.light ?_ (fun c other => (channels c).2 ?_) fun g _ => ?_
  · exact (congrArg Lighting.grand rest :)
  · dsimp only
    rw [decide_eq_false other, Bool.and_false]
    exact Bool.false_ne_true
  · exact (congrArg (fun l : Lighting => l.masters[g]) rest :)

theorem State.Spares.fade {c : Fin 48} (own : s.engine.claims.groups[(s.store.tables.channel c).group] = .player p)
    (level length : Nat) (curve : FadeCurve) :
    s.Spares { s with light := s.light.startFade c level length curve } p r := by
  refine State.Spares.light rfl (fun d other => ?_) fun _ _ => rfl
  exact (Lighting.startFade_channel ..).trans (if_neg fun same => by subst same; exact other own)

theorem State.Spares.master {g : Fin 16} (own : s.engine.claims.groups[g] = .player p) (level length : Nat) :
    s.Spares { s with light := s.light.startMaster g level length } p r := by
  refine State.Spares.light rfl (fun _ _ => rfl) fun h other => ?_
  exact (Lighting.startMaster_master ..).trans (if_neg fun same => by subst same; exact other own)

/-- A cue leads to the part `t`, at the next cue or at its await. -/
def CueEffect.Leads (e : CueEffect) (t : State) : Prop := (∃ target : Nat, e = .goes t target) ∨ ∃ a : Await, e = .awaits t a

theorem CueEffect.leads_goes {u : State} {target : Nat} : (CueEffect.goes u target).Leads t ↔ t = u := by
  unfold CueEffect.Leads
  refine ⟨?_, fun same => .inl ⟨target, same ▸ rfl⟩⟩
  rintro (⟨_, same⟩ | ⟨_, same⟩)
  · exact (CueEffect.goes.inj same).1.symm
  · nomatch same

theorem CueEffect.leads_awaits {u : State} {a : Await} : (CueEffect.awaits u a).Leads t ↔ t = u := by
  unfold CueEffect.Leads
  refine ⟨?_, fun same => .inr ⟨a, same ▸ rfl⟩⟩
  rintro (⟨_, same⟩ | ⟨_, same⟩)
  · nomatch same
  · exact (CueEffect.awaits.inj same).1.symm

theorem CueEffect.leads_blocks : ¬ CueEffect.blocks.Leads t := by
  rintro (⟨_, same⟩ | ⟨_, same⟩) <;> nomatch same

theorem CueEffect.leads_stops {reason : StopReason} : ¬ (CueEffect.stops reason).Leads t := by
  rintro (⟨_, same⟩ | ⟨_, same⟩) <;> nomatch same

theorem State.Spares.of_goes {u : State} {target : Nat} (leads : (CueEffect.goes u target).Leads t) (spares : s.Spares u p r) :
    s.Spares t p r := by
  rwa [CueEffect.leads_goes.1 leads]

theorem State.Spares.cueMove {a : Fin 8} {position : Int} {profile : Option (Fin 16)}
    (own : s.engine.claims.axes[a] = some p) (leads : (s.cueMove r a position profile).Leads t) : s.Spares t p r := by
  by_cases free : (s.motion.axes[a]).state = .stopping
  · rw [State.cueMove_stopping free] at leads
    exact absurd leads CueEffect.leads_blocks
  · cases taken : (s.motion.axes[a]).takeMove? s.store.tables (s.store.tables.axis a) (s.holdPresent a)
      ⟨position, profile.getD (s.store.tables.axis a).profile⟩ with
    | some y =>
      rw [State.cueMove_taken free taken] at leads
      exact .of_goes leads (.setAxis own _)
    | none =>
      rw [State.cueMove_refused free taken] at leads
      exact absurd leads CueEffect.leads_stops

theorem State.Spares.cueHome {a : Fin 8} (own : s.engine.claims.axes[a] = some p)
    (leads : (s.cueHome r a).Leads t) : s.Spares t p r := by
  by_cases free : (s.motion.axes[a]).state = .stopping
  · rw [State.cueHome_stopping free] at leads
    exact absurd leads CueEffect.leads_blocks
  · cases taken : (s.motion.axes[a]).takeHome? (s.store.tables.axis a) (s.holdPresent a) with
    | some y =>
      rw [State.cueHome_taken free taken] at leads
      exact .of_goes leads (.setAxis own _)
    | none =>
      rw [State.cueHome_refused free taken] at leads
      exact absurd leads CueEffect.leads_stops

theorem State.Spares.cueAwait {cond : AwaitCond} {operand : Byte} {timeout : Nat} {target : Fin 2048}
    (leads : (s.cueAwait p r cond operand timeout target).Leads t) : s.Spares t p r := by
  by_cases apart : s.Unclaimed p cond
  · rw [State.cueAwait_unclaimed apart] at leads
    exact absurd leads CueEffect.leads_stops
  · rw [State.cueAwait_tests apart] at leads
    cases test : s.testAwait p r.voice false cond with
    | holds => exact .of_goes (test ▸ leads) .refl
    | fails => exact absurd (test ▸ leads) CueEffect.leads_stops
    | waits =>
      rw [test] at leads
      rw [CueEffect.leads_awaits.1 leads]
      exact .refl

theorem State.Spares.cueNext (leads : (s.cueNext p r).Leads t) : s.Spares t p r := by
  unfold State.cueNext at leads
  split at leads
  · exact absurd leads CueEffect.leads_stops
  · split at leads
    · exact .of_goes leads (.setLoops _)
    · split at leads
      · exact .of_goes leads .refl
      · exact .of_goes leads (.setLoops _)

/-- R45 to R49, R75: whatever cue a player executes, it acts only on what the player has. -/
theorem State.execCue_spares (leads : (s.execCue p r).Leads t) : s.Spares t p r := by
  cases cue : s.cueOf r with
  | light look mask fade curve =>
    rw [State.execCue_light cue] at leads
    exact .of_goes leads (.look ..)
  | level c level fade =>
    rw [State.execCue_level cue] at leads
    refine .of_goes leads ?_
    split
    · next own => exact .fade own ..
    · exact .refl
  | master g level fade =>
    rw [State.execCue_master cue] at leads
    refine .of_goes leads ?_
    split
    · next own => exact .master own ..
    · exact .refl
  | say clip =>
    cases voice : r.voice with
    | none =>
      rw [State.execCue_mute (.inl cue) voice] at leads
      exact .of_goes leads .refl
    | some v =>
      rw [State.execCue_say cue voice] at leads
      split at leads
      · exact .of_goes leads (.voice voice _)
      · exact absurd leads CueEffect.leads_blocks
  | hush =>
    cases voice : r.voice with
    | none =>
      rw [State.execCue_mute (clip := 0) (.inr cue) voice] at leads
      exact .of_goes leads .refl
    | some v =>
      rw [State.execCue_hush cue voice] at leads
      exact .of_goes leads (.voice voice _)
  | move a position profile =>
    rw [State.execCue_move cue] at leads
    split at leads
    · next own => exact .cueMove own leads
    · exact absurd leads CueEffect.leads_stops
  | home a =>
    rw [State.execCue_home cue] at leads
    split at leads
    · next own => exact .cueHome own leads
    · exact absurd leads CueEffect.leads_stops
  | await cond operand timeout target =>
    rw [State.execCue_await cue] at leads
    exact .cueAwait leads
  | loop count =>
    by_cases room : r.loops.length < 4
    · rw [State.execCue_loop cue room] at leads
      exact .of_goes leads (.setLoops _)
    · rw [State.execCue_loopFull cue (Nat.not_lt.1 room)] at leads
      exact absurd leads CueEffect.leads_stops
  | next =>
    rw [State.execCue_next cue] at leads
    exact .cueNext leads
  | lamp b mode =>
    rw [State.execCue_lamp cue] at leads
    exact .of_goes leads (.setLamp ..)
  | mark code =>
    rw [State.execCue_mark cue] at leads
    exact .of_goes leads (.raise _)
  | goto target =>
    rw [State.execCue_goto cue] at leads
    exact .of_goes leads .refl
  | finish =>
    rw [State.execCue_finish cue] at leads
    exact absurd leads CueEffect.leads_stops

end Spares

/-! ### The lighting, sound and motion cues -/

/-- R127: a playback that begins with the chosen variant. -/
theorem Sound.say_eq (x : Sound) (t : Tables) {v : Fin 4} {clip : Fin 256} {language : Fin 4} (output : Fin 4) {i : Nat}
    {w : Variant} (chosen : (t.clip clip).choose language = i) (variant : (t.clip clip).variant i = w) :
    x.say t v clip language output =
      { x with
        voices := x.voices.set v
          { x.voices[v] with
            state := .priming, clip := some clip, variant := some (Fin.ofNat 4 i, w.language), output := output,
            feed := ⟨w.address, w.length, [], w.address, w.length, (t.clip clip).loop⟩, fade := 0, stall := 0 } } := by
  unfold Sound.say Voice.begin
  dsimp only
  rw [chosen, variant]
  rfl

/-- Settles O30. -/
theorem cuesActOnlyOnClaims : Obligations.CuesActOnlyOnClaims := by
  unfold Obligations.CuesActOnlyOnClaims
  refine ⟨fun s p f r live held new => ?_, fun s p r t _ leads => State.execCue_spares leads⟩
  intro due blocked cue does blocks stops axis rests ready move home
  have dueDoes : due → s.Executes p r f (.delaying 0) :=
    fun ⟨d, phase, short⟩ => State.Due.executes ⟨live, held, new, d, phase, short⟩
  have dueStops {reason : StopReason} (h : due)
      (done : (s.under p r (.delaying 0) f).execCue p (r.under (.delaying 0) f) = .stops reason) :
      s.FramesTo p f ((s.atFrame f).stopAndRescan p reason) :=
    h.elim fun d h => State.Due.stops ⟨live, held, new, d, h⟩ done
  have asks (phase : Phase) {c : Cue} (is : cue = c) : (s.under p r phase f).cueOf (r.under phase f) = c := is
  have blockedDoes (b : blocked) (h : s.blockedReady r = true) : s.Executes p r f .blocked :=
    ⟨live, held, new, (State.playerActs_blocked b).trans (if_pos h)⟩
  have readyDoes (a : Fin 8) (position : Int) (profile : Option (Fin 16))
      (is : cue = .move a position profile ∨ cue = .home a) (h : ready a) :
      axis a ≠ .stopping ∧ ∃ phase : Phase, s.Executes p r f phase := by
    rcases h with ⟨now, free⟩ | ⟨b, still⟩
    · exact ⟨free, _, dueDoes now⟩
    · refine ⟨fun stopping => ?_, _, blockedDoes b ((State.blockedReady_axis is).2 still)⟩
      have clear (x : AxisState) (eq : axis a = x) (apart : x ≠ .stopping) : False := apart (eq.symm.trans stopping)
      rcases still with eq | eq | eq <;> exact clear _ eq (by decide)
  have sayDoes (clip : Fin 256) (is : cue = .say clip) (h : due ∨ blocked)
      (idle : ∀ v : Fin 4, r.voice = some v → (s.sound.voices[v]).state = .idle) :
      ∃ phase : Phase, s.Executes p r f phase := by
    rcases h with now | b
    · exact ⟨_, dueDoes now⟩
    · exact ⟨_, blockedDoes b ((State.blockedReady_say is).2 idle)⟩
  refine ⟨fun next follows waits => ?_, fun clip v h is own busy => ?_, fun a position profile is =>
    ⟨fun now apart empty rest => ?_, fun now own stopping => ?_, fun b unready => ?_,
      fun now own fault refuses empty rest => ?_⟩⟩
  · intro goes lit voiced
    refine ⟨fun look mask fade curve now is => ?_, fun c level fade now is => ?_, fun g level fade now is => ?_,
      fun clip h is => ⟨fun mute => ?_, fun v own idle => ?_⟩, fun now is => ⟨fun mute => ?_, fun v own => ?_⟩,
      fun a position profile y h own is taken => ?_, fun a y h own is taken => ?_⟩
    · have takes := s.light.applyLook_takes s.store.tables look
        (fun g => mask.getLsbD g && decide (s.engine.claims.groups[g] = .player p)) fade curve
      refine ⟨s.light.applyLook s.store.tables look
        (fun g => mask.getLsbD g && decide (s.engine.claims.groups[g] = .player p)) fade curve, ?_, ?_⟩
      · exact (dueDoes now).arrives (State.execCue_light (asks (.delaying 0) is)) follows.symm waits
          (y := State.atFrame (lit (s.light.applyLook s.store.tables look
            (fun g => mask.getLsbD g && decide (s.engine.claims.groups[g] = .player p)) fade curve)) f)
      · simpa only [Bool.and_eq_true, decide_eq_true_eq] using takes
    · have done := State.execCue_level (p := p) (asks (.delaying 0) is)
      refine ⟨fun other => ?_, fun own => ?_⟩
      · exact (dueDoes now).arrives (y := s.atFrame f) (done.trans (congrArg (CueEffect.goes · _) (if_neg other)))
          follows.symm waits
      · exact (dueDoes now).arrives (y := State.atFrame (lit (s.light.startFade c level fade .linear)) f)
          (done.trans (congrArg (CueEffect.goes · _) (if_pos own))) follows.symm waits
    · have done := State.execCue_master (p := p) (asks (.delaying 0) is)
      refine ⟨fun other => ?_, fun own => ?_⟩
      · exact (dueDoes now).arrives (y := s.atFrame f) (done.trans (congrArg (CueEffect.goes · _) (if_neg other)))
          follows.symm waits
      · exact (dueDoes now).arrives (y := State.atFrame (lit (s.light.startMaster g level fade)) f)
          (done.trans (congrArg (CueEffect.goes · _) (if_pos own))) follows.symm waits
    · obtain ⟨phase, executes⟩ := sayDoes clip is h fun v own => by rw [mute] at own; nomatch own
      exact executes.arrives (y := s.atFrame f) (State.execCue_mute (.inl (asks phase is)) mute) follows.symm waits
    · obtain ⟨phase, executes⟩ := sayDoes clip is h fun w other => Option.some.inj (own.symm.trans other) ▸ idle
      intro place record begins
      have done := (State.execCue_say (p := p) (asks phase is) own).trans (if_pos idle)
      have begun (i : Nat) (w : Variant) (chosen : record.choose place.1 = i) (variant : record.variant i = w) :
          begins i w := by
        rw [show (s.under p r phase f).sound = s.sound from rfl, show (s.under p r phase f).store = s.store from rfl,
          show (s.under p r phase f).narration (r.under phase f).scene = place from rfl,
          Sound.say_eq s.sound s.store.tables place.2 chosen variant] at done
        exact executes.arrives (y := State.atFrame (voiced v _) f) done follows.symm waits
      refine ⟨fun i w there fits first => ?_, fun w there unfit => ?_⟩
      · exact begun i w (ClipRec.choose_match there fits first) (ClipRec.variant_eq there)
      · exact begun 0 w (ClipRec.choose_default unfit) (ClipRec.variant_eq (List.head?_eq_getElem? ▸ there))
    · exact (dueDoes now).arrives (y := s.atFrame f) (State.execCue_mute (clip := 0) (.inr (asks _ is)) mute)
        follows.symm waits
    · exact (dueDoes now).arrives (y := State.atFrame (voiced v _) f) (State.execCue_hush (asks _ is) own)
        follows.symm waits
    · obtain ⟨free, phase, executes⟩ := readyDoes a position profile (.inl is) h
      exact executes.arrives (y := State.atFrame (s.setAxis a y) f) ((State.execCue_move (asks phase is)).trans
        ((if_pos own).trans (State.cueMove_taken (s := s.under p r phase f) free taken))) follows.symm waits
    · obtain ⟨free, phase, executes⟩ := readyDoes a 0 none (.inr is) h
      exact executes.arrives (y := State.atFrame (s.setAxis a y) f) ((State.execCue_home (asks phase is)).trans
        ((if_pos own).trans (State.cueHome_taken (s := s.under p r phase f) free taken))) follows.symm waits
  · rcases h with now | b
    · exact (dueDoes now).blocks ((State.execCue_say (asks _ is) own).trans (if_neg busy))
    · exact exec_playerFrameEvent_blocked live held new b (Bool.eq_false_iff.2 fun idle =>
        busy ((State.blockedReady_say is).1 idle v own))
  · refine ⟨_, (dueStops now ?_).1, State.stopAndRescan_stops (s := s.atFrame f) held (.inr rest) empty⟩
    rcases is with is | is
    · exact (State.execCue_move (asks _ is)).trans (if_neg apart)
    · exact (State.execCue_home (asks _ is)).trans (if_neg apart)
  · refine (dueDoes now).blocks ?_
    rcases is with is | is
    · exact (State.execCue_move (asks _ is)).trans
        ((if_pos own).trans (State.cueMove_stopping (s := s.under p r (.delaying 0) f) stopping))
    · exact (State.execCue_home (asks _ is)).trans
        ((if_pos own).trans (State.cueHome_stopping (s := s.under p r (.delaying 0) f) stopping))
  · exact exec_playerFrameEvent_blocked live held new b (Bool.eq_false_iff.2 fun still =>
      unready ((State.blockedReady_axis is).1 still))
  · refine ⟨_, (dueStops now ?_).1, State.stopAndRescan_stops (s := s.atFrame f) held (.inr rest) empty⟩
    rcases is with is | is
    · exact (State.execCue_move (asks _ is)).trans
        ((if_pos own).trans (State.cueMove_fault (s := s.under p r (.delaying 0) f) fault))
    · have cause := refuses.resolve_left (by rw [is]; nofun)
      exact (State.execCue_home (asks _ is)).trans
        ((if_pos own).trans (State.cueHome_estop (s := s.under p r (.delaying 0) f) fault cause))

end Sys2Proof.Machine
end

section
/-! The ends of a load, and the apply pass over a section (O16). -/

namespace Sys2Proof.Machine

/-! ### What the ends of a load leave -/

section Ends

variable {s : State} {ld : Load}

/-- R17, R21, R170: no load goes on, every scene is as its record says and every zone has its default language. -/
def State.Settled (t : State) : Prop :=
  t.store.load = none
  ∧ (∀ sc : Fin 64, t.engine.scenes[sc] =
      ⟨if (t.store.tables.scene sc).enabled then .ready else .disabled, 0, false, none⟩)
  ∧ ∀ z : Fin 12, (t.monitor.zones[z]).language = (t.store.tables.zone z).language

theorem State.Settled.congr {t u : State} (h : t.Settled) (store : u.store = t.store) (engine : u.engine = t.engine)
    (monitor : u.monitor = t.monitor) : u.Settled := by
  unfold State.Settled
  rw [store, engine, monitor]
  exact h

theorem State.loadSettles_link (s : State) : s.loadSettles.link = s.link := State.initialLamps_link _

theorem State.loadSettles_zone (s : State) (z : Fin 12) :
    (s.loadSettles.monitor.zones[z]).language = (s.store.tables.zone z).language := by
  unfold State.loadSettles
  rw [State.initialLamps_zones]
  show ((Vector.ofFn _ : Vector Zone 12)[z]).language = _
  simp

theorem State.loadSettles_settled (done : s.store.load = none) : s.loadSettles.Settled := by
  refine ⟨by rw [State.loadSettles_store, done], fun sc => ?_, fun z => ?_⟩
  · rw [State.loadSettles_engine, State.loadSettles_store]
    show (Vector.ofFn _)[sc] = _
    simp [SceneRec.initial]
  · rw [State.loadSettles_zone, State.loadSettles_store]

/-- R17: what a failed load leaves. -/
theorem State.loadFails_leaves (s : State) (ld : Load) (cause : LoadCause) (sect entry : Option Nat) :
    (s.loadFails ld cause sect entry).Settled
    ∧ (s.loadFails ld cause sect entry).store.tables = Tables.empty
    ∧ (s.loadFails ld cause sect entry).store.status = .failed cause
    ∧ (s.loadFails ld cause sect entry).store.mode = .standby
    ∧ (s.loadFails ld cause sect entry).store.triggersOn = false
    ∧ (s.loadFails ld cause sect entry).store.attractOn = false
    ∧ (s.loadFails ld cause sect entry).link = s.link.raise (.loadFailed cause ld.address sect entry) := by
  unfold State.loadFails
  dsimp only
  refine ⟨State.loadSettles_settled rfl, ?_, ?_, ?_, ?_, ?_, ?_⟩
  · rw [State.loadSettles_store]
    rfl
  · rw [State.loadSettles_store]
    rfl
  · rw [State.loadSettles_store]
    rfl
  · rw [State.loadSettles_store]
    rfl
  · rw [State.loadSettles_store]
    rfl
  · rw [State.loadSettles_link]
    rfl

theorem State.loadSucceeds_standby (goal : ld.goal = .standby) :
    s.loadSucceeds ld =
      (((s.endLoad .done).raise (.loadDone ld.address ld.sections)).setMode .standby false false).loadSettles := by
  unfold State.loadSucceeds
  dsimp only
  rw [goal]

/-- R17: a load that ends in SHOW, as the part is before the beds begin and the attract cycle follows. -/
def State.loadedIntoShow (s : State) (ld : Load) (triggers attract : Bool) : State :=
  (((s.endLoad .done).raise (.loadDone ld.address ld.sections)).setMode .running triggers attract).loadSettles

theorem State.loadSucceeds_running {triggers attract : Bool} (goal : ld.goal = .running triggers attract) :
    s.loadSucceeds ld = State.attractFollows
      { s.loadedIntoShow ld triggers attract with
        sound := (s.loadedIntoShow ld triggers attract).sound.startBeds
                   (s.loadedIntoShow ld triggers attract).store.tables } false := by
  unfold State.loadSucceeds State.loadedIntoShow
  dsimp only
  rw [goal]

/-- R17: what a load that succeeds leaves. -/
theorem State.loadSucceeds_leaves (s : State) (ld : Load) :
    (s.loadSucceeds ld).Settled ∧ (s.loadSucceeds ld).store.tables = s.store.tables
    ∧ (s.loadSucceeds ld).store.status = .done
    ∧ (s.loadSucceeds ld).link = s.link.raise (.loadDone ld.address (get16 ld.header 8))
    ∧ (ld.goal = .standby → (s.loadSucceeds ld).store.mode = .standby ∧ (s.loadSucceeds ld).store.triggersOn = false
        ∧ (s.loadSucceeds ld).store.attractOn = false)
    ∧ ∀ triggers attract : Bool, ld.goal = .running triggers attract →
        (s.loadSucceeds ld).store.mode = .running ∧ (s.loadSucceeds ld).store.triggersOn = triggers
        ∧ (s.loadSucceeds ld).store.attractOn = attract := by
  cases goal : ld.goal with
  | standby =>
    rw [State.loadSucceeds_standby goal, State.loadSettles_store, State.loadSettles_link]
    exact ⟨State.loadSettles_settled rfl, rfl, rfl, rfl, fun _ => ⟨rfl, rfl, rfl⟩, fun _ _ other => nomatch other⟩
  | running triggers attract =>
    have settled : (s.loadedIntoShow ld triggers attract).Settled := State.loadSettles_settled rfl
    have store : (s.loadSucceeds ld).store = (s.loadedIntoShow ld triggers attract).store := by
      rw [State.loadSucceeds_running goal, State.attractFollows_store]
    have link : (s.loadSucceeds ld).link = (s.loadedIntoShow ld triggers attract).link := by
      rw [State.loadSucceeds_running goal, State.attractFollows_link]
    have same : (s.loadSucceeds ld).Settled := by
      refine settled.congr store ?_ ?_ <;> rw [State.loadSucceeds_running goal]
      · rw [State.attractFollows_engine]
      · rw [State.attractFollows_monitor]
    rw [store, link]
    unfold State.loadedIntoShow
    rw [State.loadSettles_store, State.loadSettles_link]
    refine ⟨same, rfl, rfl, rfl, nofun, fun x y own => ?_⟩
    obtain ⟨rfl, rfl⟩ := LoadGoal.running.inj own
    exact ⟨rfl, rfl, rfl⟩

end Ends

/-! ### Whole units of the apply pass -/

section Units

variable {s : State} {ld : Load}

theorem State.setLoad_setLoad (s : State) (x y : Load) : (s.setLoad x).setLoad y = s.setLoad y := rfl

theorem State.setLoad_self (load : s.store.load = some ld) : s.setLoad ld = s := by
  unfold State.setLoad
  rw [← load]

/-- The bytes of the next unit of the apply pass: a descriptor, or a record of the present table. -/
def Load.unit (ld : Load) : Nat :=
  match ld.table with
  | none => 5
  | some t => recordSize t

/-- R16: a descriptor or a record is complete. -/
def State.takeUnit (s : State) (ld : Load) : State :=
  match ld.table with
  | none => s.takeDescriptor ld
  | some t => s.takeRecord ld t

theorem State.applyByte_eq (s : State) (ld : Load) (b : Byte) :
    s.applyByte ld b =
      if (ld.part ++ [b]).length < ld.unit then s.setLoad { ld with part := ld.part ++ [b], pos := ld.pos + 1 }
      else s.takeUnit { ld with part := ld.part ++ [b], pos := ld.pos + 1 } := by
  unfold State.applyByte State.takeUnit Load.unit
  dsimp only
  cases ld.table <;> rfl

theorem State.feedApply_cons (applying : ld.pass = .apply) (b : Byte) (rest : List Byte) :
    State.feedImage .apply (b :: rest) (s.setLoad ld) = State.feedImage .apply rest ((s.setLoad ld).applyByte ld b) := by
  rw [State.feedImage_cons (show (s.setLoad ld).store.load = some ld from rfl), if_pos applying]
  rfl

/-- R16: bytes that do not complete the unit join it. -/
theorem State.feedApply_collects (applying : ld.pass = .apply) (more rest : List Byte)
    (short : ld.part.length + more.length < ld.unit) :
    State.feedImage .apply (more ++ rest) (s.setLoad ld) =
      State.feedImage .apply rest (s.setLoad { ld with part := ld.part ++ more, pos := ld.pos + more.length }) := by
  induction more generalizing ld with
  | nil =>
    rw [List.nil_append, List.append_nil]
    rfl
  | cons b more ih =>
    rw [List.length_cons] at short
    have length : (ld.part ++ [b]).length = ld.part.length + 1 := by rw [List.length_append]; rfl
    rw [List.cons_append, State.feedApply_cons applying, State.applyByte_eq, if_pos (by omega), State.setLoad_setLoad,
      ih (ld := { ld with part := ld.part ++ [b], pos := ld.pos + 1 }) applying
        (by show (ld.part ++ [b]).length + more.length < ld.unit; omega)]
    congr 2
    simp only [List.append_assoc, List.singleton_append, List.length_cons, Load.mk.injEq, true_and, and_true]
    omega

/-- R16: the bytes of a whole unit. -/
theorem State.feedApply_unit (applying : ld.pass = .apply) (fresh : ld.part = []) (whole rest : List Byte)
    (size : whole.length = ld.unit) (positive : 0 < ld.unit) :
    ∃ y : Load, State.feedImage .apply (whole ++ rest) (s.setLoad ld) =
      State.feedImage .apply rest ((s.setLoad y).takeUnit { ld with part := whole, pos := ld.pos + whole.length }) := by
  have bytes : whole ≠ [] := by
    rintro rfl
    exact absurd size (Nat.ne_of_lt positive)
  obtain ⟨front, b, split⟩ := (List.eq_nil_or_concat whole).resolve_left bytes
  rw [List.concat_eq_append] at split
  subst split
  have length : (front ++ [b]).length = front.length + 1 := by rw [List.length_append]; rfl
  rw [List.append_assoc, State.feedApply_collects applying front _ (by rw [fresh, List.length_nil]; omega),
    fresh, List.nil_append, List.singleton_append,
    State.feedApply_cons (ld := { ld with part := front, pos := ld.pos + front.length }) applying, State.applyByte_eq]
  refine ⟨{ ld with part := front, pos := ld.pos + front.length },
    congrArg (State.feedImage .apply rest) ((if_neg (show ¬ (front ++ [b]).length < ld.unit by omega)).trans ?_)⟩
  rw [length]
  rfl

end Units

end Sys2Proof.Machine
end

section
/-! The apply pass takes a section (O16). -/

namespace Sys2Proof.Machine

/-! ### Image reads -/

section Reads

variable {s : State} {ld : Load} {bytes : List Byte}

/-- The image read in flight has come in. -/
def State.landed (s : State) : State := { s with sound := { s.sound with flight := none } }

theorem exec_imageReadComplete (live : s.inReset = false) (flight : s.sound.flight = some .image)
    (load : s.store.load = some ld) :
    exec (.imageReadComplete bytes) s = .next (State.feedImage ld.pass bytes s.landed).finish := by
  show Host.Outcome.next (s.live _) = _
  rw [State.live_running _ live, flight, load]
  rfl

/-- R17: the image read leads to the failure of the load. -/
def State.FailsTo (s : State) (ld : Load) (bytes : List Byte) (cause : LoadCause) (sect entry : Option Nat) : Prop :=
  ∃ t : State, exec (.imageReadComplete bytes) s = .next t.finish
    ∧ t.store.load = none ∧ t.store.status = .failed cause ∧ t.store.tables = Tables.empty
    ∧ t.store.mode = .standby ∧ t.store.triggersOn = false ∧ t.store.attractOn = false
    ∧ t.link = s.link.raise (.loadFailed cause ld.address sect entry)

/-- Once a load has failed, the rest of the read is not taken. -/
theorem State.failsTo {u : State} {x : Load} {rest : List Byte} {cause : LoadCause} {sect entry : Option Nat}
    (live : s.inReset = false) (flight : s.sound.flight = some .image) (load : s.store.load = some ld)
    (feeds : State.feedImage ld.pass bytes s.landed = State.feedImage ld.pass rest (u.loadFails x cause sect entry))
    (link : u.link = s.link) (address : x.address = ld.address) : s.FailsTo ld bytes cause sect entry := by
  obtain ⟨settled, tables, status, mode, triggers, attract, report⟩ := u.loadFails_leaves x cause sect entry
  refine ⟨u.loadFails x cause sect entry, ?_, settled.1, status, tables, mode, triggers, attract, ?_⟩
  · rw [exec_imageReadComplete live flight load, feeds, State.feedImage_idle settled.1]
  · rw [report, link, address]

end Reads

/-! ### Bytes at the front of a list -/

theorem byteAt_take (bs : List Byte) {n k : Nat} (inside : k < n) : byteAt (bs.take n) k = byteAt bs k := by
  unfold byteAt
  rw [List.getD_eq_getElem?_getD, List.getElem?_take_of_lt inside, List.getD_eq_getElem?_getD]

theorem get16_take (bs : List Byte) {n k : Nat} (inside : k + 1 < n) : get16 (bs.take n) k = get16 bs k := by
  unfold get16
  rw [byteAt_take bs (by omega), byteAt_take bs inside]

theorem get32_take (bs : List Byte) {n k : Nat} (inside : k + 3 < n) : get32 (bs.take n) k = get32 bs k := by
  unfold get32
  rw [get16_take bs (by omega), get16_take bs (by omega)]

theorem recordSize_pos (table : Fin 14) : 0 < recordSize table := by
  revert table
  decide

/-! ### The descriptor -/

section Descriptor

variable {s : State} {ld : Load} {table : Fin 14}

theorem State.takeDescriptor_unknown (unknown : 14 ≤ byteAt ld.part 0) :
    s.takeDescriptor ld = s.loadFails ld .table (some ld.sect) none := by
  unfold State.takeDescriptor
  dsimp only
  rw [index?_ge unknown]

theorem State.takeDescriptor_known (known : byteAt ld.part 0 = table.val) :
    s.takeDescriptor ld =
      if tableEntries table < get16 ld.part 1 + get16 ld.part 3
          ∨ ld.total < ld.pos + get16 ld.part 3 * recordSize table then
        s.loadFails ld .overrun (some ld.sect) none
      else if get16 ld.part 3 = 0 then s.endSection ld
      else s.setLoad
        { ld with part := [], table := some table, entry := get16 ld.part 1, left := get16 ld.part 3 } := by
  unfold State.takeDescriptor
  dsimp only
  rw [index?_val known]

theorem State.takeRecord_refused (refused : s.storeRecord? table ld.entry ld.part = none) :
    s.takeRecord ld table = s.loadFails ld .entry (some ld.sect) (some ld.entry) := by
  unfold State.takeRecord
  rw [refused]

theorem State.takeRecord_stored {u : State} (stored : s.storeRecord? table ld.entry ld.part = some u) :
    s.takeRecord ld table =
      if ld.left ≤ 1 then u.endSection ld
      else u.setLoad { ld with part := [], entry := ld.entry + 1, left := ld.left - 1 } := by
  unfold State.takeRecord
  rw [stored]

end Descriptor

/-! ### The records of a section, one after another -/

/-- `u` is the part `s` in the apply pass, with these tables. -/
structure State.Applied (s u : State) (tabs : Tables) : Prop where
  link : u.link = s.link
  tables : u.store.tables = tabs
  mode : u.store.mode = s.store.mode
  status : u.store.status = s.store.status

/-- A record offered to the tables in the apply pass. -/
theorem State.Applied.stores {s u : State} {tabs after : Tables} (h : s.Applied u tabs) (y : Load) {table : Fin 14}
    {i : Nat} {record : List Byte} (stored : tabs.storeEntry? table i record = some after) :
    ∃ v : State, (u.setLoad y).storeRecord? table i record = some v ∧ s.Applied v after := by
  have taken : ∃ v, (u.setLoad y).storeRecord? table i record = some v := by
    unfold State.storeRecord?
    rw [show (u.setLoad y).store.tables = tabs from h.tables, stored]
    exact ⟨_, rfl⟩
  obtain ⟨v, taken⟩ := taken
  obtain ⟨w, same, store⟩ := State.storeRecord?_store taken
  rw [show (u.setLoad y).store.tables = tabs from h.tables, stored] at same
  refine ⟨v, taken, (State.storeRecord?_link taken).trans h.link, ?_, ?_, ?_⟩
  · rw [store]
    exact (Option.some.inj same).symm
  · rw [store]
    exact h.mode
  · rw [store]
    exact h.status

/-- A record that the tables refuse. -/
theorem State.Applied.refuses {s u : State} {tabs : Tables} (h : s.Applied u tabs) (y : Load) {table : Fin 14}
    {i : Nat} {record : List Byte} (refused : tabs.storeEntry? table i record = none) :
    (u.setLoad y).storeRecord? table i record = none := by
  unfold State.storeRecord?
  rw [show (u.setLoad y).store.tables = tabs from h.tables, refused]
  rfl

section Section

variable {s : State} {ld : Load} {bytes : List Byte} {table : Fin 14}

/-- R16: an image read that begins with the descriptor of a section of a known table, which fits the table and the image. -/
structure State.ReadsSection (s : State) (ld : Load) (bytes : List Byte) (table : Fin 14) : Prop where
  load : s.store.load = some ld
  applying : ld.pass = .apply
  between : ld.table = none
  fresh : ld.part = []
  descriptor : 5 ≤ bytes.length

/-- R16: the descriptor is taken. -/
theorem State.ReadsSection.takesDescriptor (h : s.ReadsSection ld bytes table) :
    ∃ y : Load, State.feedImage .apply bytes s.landed = State.feedImage .apply (bytes.drop 5)
      ((s.landed.setLoad y).takeDescriptor { ld with part := bytes.take 5, pos := ld.pos + 5 }) := by
  have length : (bytes.take 5).length = 5 := List.length_take_of_le h.descriptor
  have unit : ld.unit = 5 := by
    unfold Load.unit
    rw [h.between]
  obtain ⟨y, taken⟩ := State.feedApply_unit (s := s.landed) h.applying h.fresh (bytes.take 5) (bytes.drop 5)
    (length.trans unit.symm) (by omega)
  rw [State.setLoad_self (s := s.landed) h.load, List.take_append_drop] at taken
  refine ⟨y, taken.trans ?_⟩
  unfold State.takeUnit
  dsimp only
  rw [h.between, length]

/-- The record at place `k` behind the descriptor. -/
def recordAt (bytes : List Byte) (table : Fin 14) (k : Nat) : List Byte :=
  (bytes.drop (5 + k * recordSize table)).take (recordSize table)

/-- The load before the record at place `k` of a section of `count` records from entry `start` on. -/
def Load.before (ld : Load) (table : Fin 14) (start count k : Nat) : Load :=
  { ld with
    part := [], pos := ld.pos + 5 + k * recordSize table, table := some table, entry := start + k, left := count - k }

/-- The load once the record at place `k` has come in. -/
def Load.behind (ld : Load) (bytes : List Byte) (table : Fin 14) (start count k : Nat) : Load :=
  { ld.before table start count k with
    part := recordAt bytes table k, pos := ld.pos + 5 + (k + 1) * recordSize table }

variable {start count : Nat} {tabs : Nat → Tables}

/-- R16: a descriptor whose entries and records fit. -/
structure State.Section (s : State) (ld : Load) (bytes : List Byte) (table : Fin 14) (start count : Nat) : Prop
    extends s.ReadsSection ld bytes table where
  known : byteAt bytes 0 = table.val
  starts : get16 bytes 1 = start
  counts : get16 bytes 3 = count
  room : start + count ≤ tableEntries table
  inside : ld.pos + 5 + count * recordSize table ≤ ld.total

theorem State.Section.takesDescriptor (h : s.Section ld bytes table start count) :
    ∃ y : Load, State.feedImage .apply bytes s.landed = State.feedImage .apply (bytes.drop 5)
      (if count = 0 then (s.landed.setLoad y).endSection { ld with part := bytes.take 5, pos := ld.pos + 5 }
        else s.landed.setLoad (ld.before table start count 0)) := by
  obtain ⟨y, taken⟩ := h.toReadsSection.takesDescriptor
  refine ⟨y, taken.trans (congrArg (State.feedImage .apply _) ?_)⟩
  have starts : get16 (bytes.take 5) 1 = start := (get16_take bytes (by decide)).trans h.starts
  have counts : get16 (bytes.take 5) 3 = count := (get16_take bytes (by decide)).trans h.counts
  have room := h.room
  have inside := h.inside
  rw [State.takeDescriptor_known ((byteAt_take bytes (by decide)).trans h.known)]
  dsimp only
  rw [starts, counts, if_neg (by
    show ¬ (_ ∨ ld.total < _)
    omega)]
  refine ite_congr rfl (fun _ => rfl) fun _ => ?_
  unfold Load.before
  rw [Nat.zero_mul]
  rfl

/-- A whole record of the section is taken. -/
theorem Load.before_takes {u : State} (applying : ld.pass = .apply) (k : Nat)
    (whole : 5 + (k + 1) * recordSize table ≤ bytes.length) :
    ∃ y : Load, State.feedImage .apply (bytes.drop (5 + k * recordSize table)) (u.setLoad (ld.before table start count k)) =
      State.feedImage .apply (bytes.drop (5 + (k + 1) * recordSize table))
        ((u.setLoad y).takeRecord (ld.behind bytes table start count k) table) := by
  have next : 5 + (k + 1) * recordSize table = 5 + k * recordSize table + recordSize table := by
    rw [Nat.add_mul, Nat.one_mul, Nat.add_assoc]
  have length : (recordAt bytes table k).length = recordSize table := by
    unfold recordAt
    rw [List.length_take_of_le]
    rw [List.length_drop]
    omega
  obtain ⟨y, taken⟩ := State.feedApply_unit (s := u) (ld := ld.before table start count k) applying rfl
    (recordAt bytes table k) (bytes.drop (5 + (k + 1) * recordSize table)) length (recordSize_pos table)
  have split : recordAt bytes table k ++ bytes.drop (5 + (k + 1) * recordSize table) =
      bytes.drop (5 + k * recordSize table) := by
    rw [next, ← List.drop_drop]
    exact List.take_append_drop ..
  rw [split] at taken
  refine ⟨y, taken.trans ?_⟩
  have pos : (ld.before table start count k).pos + (recordAt bytes table k).length =
      ld.pos + 5 + (k + 1) * recordSize table := by
    rw [length]
    show ld.pos + 5 + k * recordSize table + recordSize table = _
    omega
  rw [pos]
  rfl

/-- R16: the records of a section up to place `k` are stored one after another. -/
def StoresRecords (tabs : Nat → Tables) (bytes : List Byte) (table : Fin 14) (start k : Nat) : Prop :=
  ∀ j : Nat, j < k → (tabs j).storeEntry? table (start + j) (recordAt bytes table j) = some (tabs (j + 1))

theorem State.Section.stores (h : s.Section ld bytes table start count) (first : tabs 0 = s.store.tables) (k : Nat)
    (more : k < count) (whole : 5 + k * recordSize table ≤ bytes.length) (stored : StoresRecords tabs bytes table start k) :
    ∃ u : State, s.Applied u (tabs k) ∧ State.feedImage .apply bytes s.landed =
      State.feedImage .apply (bytes.drop (5 + k * recordSize table)) (u.setLoad (ld.before table start count k)) := by
  induction k with
  | zero =>
    obtain ⟨y, taken⟩ := h.takesDescriptor
    rw [if_neg (by omega)] at taken
    exact ⟨s.landed, ⟨rfl, first.symm, rfl, rfl⟩, by rw [taken, Nat.zero_mul]⟩
  | succ k ih =>
    have step : k * recordSize table ≤ (k + 1) * recordSize table := Nat.mul_le_mul_right _ (Nat.le_succ k)
    obtain ⟨u, applied, fed⟩ := ih (by omega) (by omega) fun j before => stored j (by omega)
    obtain ⟨y, taken⟩ := Load.before_takes (u := u) (start := start) (count := count) h.applying k whole
    obtain ⟨v, kept, after⟩ := applied.stores y (stored k (Nat.lt_succ_self k))
    refine ⟨v, after, fed.trans (taken.trans (congrArg (State.feedImage .apply _) ?_))⟩
    rw [State.takeRecord_stored (ld := ld.behind bytes table start count k) kept]
    refine (if_neg (show ¬ count - k ≤ 1 by omega)).trans ?_
    rfl

/-- R16: the last record of a section, or its descriptor when it has none, ends it. -/
theorem State.Section.ends (h : s.Section ld bytes table start count) (first : tabs 0 = s.store.tables)
    (whole : bytes.length = 5 + count * recordSize table) (stored : StoresRecords tabs bytes table start count) :
    ∃ (u : State) (part : List Byte) (now : Option (Fin 14)) (entry left : Nat), s.Applied u (tabs count)
      ∧ State.feedImage .apply bytes s.landed = u.endSection
          { ld with
            pos := ld.pos + 5 + count * recordSize table, part := part, table := now, entry := entry, left := left } := by
  cases count with
  | zero =>
    obtain ⟨y, taken⟩ := h.takesDescriptor
    rw [if_pos rfl, List.drop_eq_nil_of_le (by omega)] at taken
    refine ⟨s.landed.setLoad y, bytes.take 5, ld.table, ld.entry, ld.left, ⟨rfl, first.symm, rfl, rfl⟩, taken.trans ?_⟩
    rw [Nat.zero_mul]
    rfl
  | succ k =>
    have step : k * recordSize table ≤ (k + 1) * recordSize table := Nat.mul_le_mul_right _ (Nat.le_succ k)
    obtain ⟨u, applied, fed⟩ := h.stores first k (Nat.lt_succ_self k) (by omega) fun j before => stored j (by omega)
    obtain ⟨y, taken⟩ := Load.before_takes (u := u) (start := start) (count := k + 1) (bytes := bytes) h.applying k
      (Nat.le_of_eq whole.symm)
    obtain ⟨v, kept, after⟩ := applied.stores y (stored k (Nat.lt_succ_self k))
    rw [show bytes.drop (5 + (k + 1) * recordSize table) = [] from List.drop_eq_nil_of_le (Nat.le_of_eq whole)] at taken
    refine ⟨v, recordAt bytes table k, some table, start + k, k + 1 - k, after, fed.trans (taken.trans ?_)⟩
    rw [State.takeRecord_stored (ld := ld.behind bytes table start (k + 1) k) kept]
    exact if_pos (show k + 1 - k ≤ 1 by omega)

end Section

/-! ### The end of a section -/

section SectionEnds

variable {s : State} {ld : Load}

theorem State.endSection_overruns (more : ld.sect + 1 < get16 ld.header 8) (short : ld.total < ld.pos + 5) :
    s.endSection ld = s.loadFails { ld with sect := ld.sect + 1 } .overrun (some (ld.sect + 1)) none := by
  unfold State.endSection
  exact (if_pos more).trans (if_pos short)

theorem State.endSection_next (more : ld.sect + 1 < get16 ld.header 8) (room : ld.pos + 5 ≤ ld.total) :
    s.endSection ld = s.setLoad { ld with sect := ld.sect + 1, part := [], table := none } := by
  unfold State.endSection
  exact (if_pos more).trans (if_neg (Nat.not_lt.2 room))

theorem State.endSection_left (last : get16 ld.header 8 ≤ ld.sect + 1) (left : ld.pos < ld.total) :
    s.endSection ld = s.loadFails ld .length (some (get16 ld.header 8)) none := by
  unfold State.endSection
  exact (if_neg (Nat.not_lt.2 last)).trans (if_pos left)

theorem State.endSection_done (last : get16 ld.header 8 ≤ ld.sect + 1) (whole : ld.total ≤ ld.pos) :
    s.endSection ld = s.loadSucceeds ld := by
  unfold State.endSection
  exact (if_neg (Nat.not_lt.2 last)).trans (if_neg (Nat.not_lt.2 whole))

end SectionEnds

/-- Settles O16. -/
theorem loadEndsByItsOutcome : Obligations.LoadEndsByItsOutcome := by
  unfold Obligations.LoadEndsByItsOutcome
  refine ⟨fun s ld => ⟨fun cause sect entry => s.loadFails_leaves ld cause sect entry, s.loadSucceeds_leaves ld⟩, ?_⟩
  intro s ld bytes live flight load applying between fresh descriptor total sections start count becomes fails
  have reads (table : Fin 14) : s.ReadsSection ld bytes table := ⟨load, applying, between, fresh, descriptor⟩
  have failed {u : State} {x : Load} {rest : List Byte} {cause : LoadCause} {sect entry : Option Nat}
      (feeds : State.feedImage .apply bytes s.landed = State.feedImage .apply rest (u.loadFails x cause sect entry))
      (link : u.link = s.link) (address : x.address = ld.address) : fails cause sect entry := by
    obtain ⟨t, done, settled, status, tables, mode, -, -, report⟩ :=
      State.failsTo live flight load (by rwa [applying]) link address
    exact ⟨t, done, settled, status, tables, mode, report⟩
  have finishes {u : State} (feeds : State.feedImage .apply bytes s.landed = u) : becomes u := by
    show exec (.imageReadComplete bytes) s = .next u.finish
    rw [exec_imageReadComplete live flight load, applying, feeds]
  refine ⟨fun unknown => ?_, fun table known => ?_⟩
  · obtain ⟨y, taken⟩ := (reads 0).takesDescriptor
    rw [State.takeDescriptor_unknown (ld := { ld with part := bytes.take 5, pos := ld.pos + 5 })
      (Nat.le_trans unknown (Nat.le_of_eq (byteAt_take bytes (show 0 < 5 by decide)).symm))] at taken
    exact failed taken rfl rfl
  intro size record stops
  refine ⟨fun beyond => ?_, fun tabs room inside first => ?_⟩
  · obtain ⟨y, taken⟩ := (reads table).takesDescriptor
    rw [State.takeDescriptor_known (ld := { ld with part := bytes.take 5, pos := ld.pos + 5 })
      ((byteAt_take bytes (by decide)).trans known)] at taken
    dsimp only at taken
    rw [get16_take bytes (show 1 + 1 < 5 by decide), get16_take bytes (show 3 + 1 < 5 by decide)] at taken
    exact failed (taken.trans (congrArg (State.feedImage .apply _) (if_pos beyond))) rfl rfl
  have here : s.Section ld bytes table start count := ⟨reads table, known, rfl, rfl, room, inside⟩
  refine ⟨fun k more whole before refused => ?_, fun whole kept => ?_⟩
  · have step : k * recordSize table ≤ (k + 1) * recordSize table := Nat.mul_le_mul_right _ (Nat.le_succ k)
    obtain ⟨u, applied, fed⟩ := here.stores first k more
      (show 5 + k * recordSize table ≤ bytes.length from Nat.le_trans (Nat.add_le_add_left step 5) whole) before
    obtain ⟨y, taken⟩ := Load.before_takes (u := u) (start := start) (count := count) applying k whole
    rw [State.takeRecord_refused (ld := ld.behind bytes table start count k) (applied.refuses y refused)] at taken
    exact failed (fed.trans taken) applied.link rfl
  · obtain ⟨u, part, now, entry, left, applied, fed⟩ := here.ends first whole kept
    refine ⟨fun more short => ?_, fun more fits => ?_, fun last short => ?_, fun last done => ?_⟩
    · exact failed (rest := []) (fed.trans (State.endSection_overruns more short)) applied.link rfl
    · exact ⟨_, _, finishes (fed.trans (State.endSection_next more fits)), applied.tables, applied.link, applied.mode,
        applied.status, rfl, applying, rfl, rfl, rfl, rfl, rfl, rfl, rfl⟩
    · exact failed (rest := []) (fed.trans (State.endSection_left last short)) applied.link rfl
    · obtain ⟨settled, tables, status, link, standby, running⟩ := u.loadSucceeds_leaves
        { ld with pos := stops, part := part, table := now, entry := entry, left := left }
      exact ⟨_, finishes (fed.trans (State.endSection_done last (Nat.le_of_eq done.symm))), tables.trans applied.tables,
        settled.1, status, link.trans (congrArg (Link.raise · _) applied.link), fun goal => (standby goal).1, running⟩

end Sys2Proof.Machine
end

section
/-! The verify pass (O15). -/

namespace Sys2Proof.Machine

/-! ### The load while the image is read -/

section Reading

variable {s : State} {ld : Load} {image : List Byte} {k : Nat}

/-- R15: the load once the first `k` bytes of the image have been read. -/
def Load.read (ld : Load) (image : List Byte) (k : Nat) : Load :=
  { ld with header := image.take (min k 12), pos := k, crc := crc16 ((image.take k).drop 12) }

theorem Load.read_zero (header : ld.header = []) (pos : ld.pos = 0) (crc : ld.crc = 0xFFFF) : ld.read image 0 = ld := by
  unfold Load.read
  rw [Nat.zero_min, List.take_zero, List.drop_nil, show crc16 [] = 0xFFFF from rfl, ← header, ← pos, ← crc]

theorem Load.read_total (far : 8 ≤ k) : (ld.read image k).total = get32 image 4 := get32_take image (by omega)

theorem Load.read_sections (far : 10 ≤ k) : (ld.read image k).sections = get16 image 8 := get16_take image (by omega)

theorem Load.read_sum (far : 12 ≤ k) : get16 (ld.read image k).header 10 = get16 image 10 := get16_take image (by omega)

/-- A byte of the header. -/
theorem Load.read_header (inside : k < image.length) (header : k < 12) :
    { ld.read image k with header := (ld.read image k).header ++ [image[k]], pos := k + 1 } = ld.read image (k + 1) := by
  have short (n : Nat) (le : n ≤ 12) : (image.take n).drop 12 = [] :=
    List.drop_eq_nil_of_le (Nat.le_trans (List.length_take_le ..) le)
  unfold Load.read
  dsimp only
  rw [Nat.min_eq_left (Nat.le_of_lt header), Nat.min_eq_left header, short k (Nat.le_of_lt header), short (k + 1) header,
    List.take_append_getElem inside]

/-- A byte behind the header. -/
theorem Load.read_body (inside : k < image.length) (body : 12 ≤ k) :
    { ld.read image k with crc := crcByte (ld.read image k).crc image[k], pos := k + 1 } = ld.read image (k + 1) := by
  have grows : (image.take (k + 1)).drop 12 = (image.take k).drop 12 ++ [image[k]] := by
    rw [← List.take_append_getElem inside, List.drop_append_of_le_length]
    rw [List.length_take_of_le (Nat.le_of_lt inside)]
    exact body
  unfold Load.read
  dsimp only
  rw [Nat.min_eq_right body, Nat.min_eq_right (Nat.le_succ_of_le body), grows]
  unfold crc16
  rw [List.foldl_append]
  rfl

/-! ### The checks (R15) -/

/-- R13, R15: the tag, the length and the section count of an image that is read from `ld.address`. -/
def imageTagged (image : List Byte) : Prop := image.take 4 = [0x4F, 0x44, 0x37, 0x32]

def imageFits (ld : Load) (image : List Byte) : Prop :=
  12 ≤ get32 image 4 ∧ ld.address % 16777216 + get32 image 4 ≤ 16777216

def imageCounted (image : List Byte) : Prop := 1 ≤ get16 image 8 ∧ get16 image 8 ≤ 32

theorem State.verifyByte_header (inside : k < image.length) (header : k < 12) :
    s.verifyByte (ld.read image k) image[k] =
      if k + 1 = 4 ∧ (ld.read image (k + 1)).header ≠ imageTag then s.loadFails (ld.read image k) .tag none none
      else if k + 1 = 8 ∧ ((ld.read image (k + 1)).total < 12
          ∨ 16777216 < ld.address % 16777216 + (ld.read image (k + 1)).total) then
        s.loadFails (ld.read image k) .length none none
      else if k + 1 = 10 ∧ ((ld.read image (k + 1)).sections = 0 ∨ 32 < (ld.read image (k + 1)).sections) then
        s.loadFails (ld.read image k) .count none none
      else if k + 1 = 12 ∧ (ld.read image (k + 1)).total ≤ 12 then s.checkCrc (ld.read image (k + 1))
      else s.setLoad (ld.read image (k + 1)) := by
  rw [← Load.read_header inside header]
  exact if_pos header

theorem State.verifyByte_body (inside : k < image.length) (body : 12 ≤ k) :
    s.verifyByte (ld.read image k) image[k] =
      if (ld.read image (k + 1)).total ≤ k + 1 then s.checkCrc (ld.read image (k + 1))
      else s.setLoad (ld.read image (k + 1)) := by
  rw [← Load.read_body inside body]
  exact if_neg (Nat.not_lt.2 body)

/-- R15: the checks that the first `k` bytes of an image have passed, with more bytes to come. -/
structure Load.Passes (ld : Load) (image : List Byte) (k : Nat) : Prop where
  tag : 4 ≤ k → imageTagged image
  length : 8 ≤ k → imageFits ld image
  count : 10 ≤ k → imageCounted image
  more : 12 ≤ k → k < get32 image 4

theorem Load.Passes.le {m : Nat} (h : ld.Passes image m) (le : k ≤ m) : ld.Passes image k :=
  ⟨fun far => h.tag (Nat.le_trans far le), fun far => h.length (Nat.le_trans far le), fun far => h.count (Nat.le_trans far le),
    fun far => Nat.lt_of_le_of_lt le (h.more (Nat.le_trans far le))⟩

theorem State.verifyByte_passes (inside : k < image.length) (h : ld.Passes image (k + 1)) :
    s.verifyByte (ld.read image k) image[k] = s.setLoad (ld.read image (k + 1)) := by
  by_cases header : k < 12
  · rw [State.verifyByte_header inside header, if_neg, if_neg, if_neg, if_neg]
    · rintro ⟨there, short⟩
      rw [Load.read_total (by omega)] at short
      have := h.more (by omega)
      omega
    · rintro ⟨there, wrong⟩
      rw [Load.read_sections (by omega)] at wrong
      have := h.count (by omega)
      unfold imageCounted at this
      omega
    · rintro ⟨there, wrong⟩
      rw [Load.read_total (by omega)] at wrong
      have := h.length (by omega)
      unfold imageFits at this
      omega
    · rintro ⟨there, wrong⟩
      refine wrong ?_
      show image.take (min (k + 1) 12) = _
      rw [there]
      exact h.tag (by omega)
  · rw [State.verifyByte_body inside (Nat.not_lt.1 header), Load.read_total (by omega), if_neg]
    have := h.more (by omega)
    omega

/-! ### The bytes of an image read -/

theorem State.feedVerify_drop (verifying : ld.pass = .verify) (inside : k < image.length) :
    State.feedImage .verify (image.drop k) (s.setLoad (ld.read image k)) =
      State.feedImage .verify (image.drop (k + 1)) ((s.setLoad (ld.read image k)).verifyByte (ld.read image k) image[k]) := by
  rw [List.drop_eq_getElem_cons inside, State.feedImage_cons (show (s.setLoad (ld.read image k)).store.load = _ from rfl)]
  exact if_pos verifying

/-- R15: the first `k` bytes of an image that passes its checks so far. -/
theorem State.feedVerify_reaches (verifying : ld.pass = .verify) (whole : k ≤ image.length) (h : ld.Passes image k) :
    State.feedImage .verify image (s.setLoad (ld.read image 0)) =
      State.feedImage .verify (image.drop k) (s.setLoad (ld.read image k)) := by
  induction k with
  | zero => rfl
  | succ k ih =>
    rw [ih (Nat.le_of_succ_le whole) (h.le (Nat.le_succ k)), State.feedVerify_drop verifying whole,
      State.verifyByte_passes whole h]
    rfl

/-- R15: the last byte of the image is followed by the check of its CRC. -/
theorem State.feedVerify_sums (verifying : ld.pass = .verify) (whole : get32 image 4 ≤ image.length)
    (tagged : imageTagged image) (fits : imageFits ld image) (counted : imageCounted image) :
    State.feedImage .verify image (s.setLoad (ld.read image 0)) =
      State.feedImage .verify (image.drop (get32 image 4))
        ((s.setLoad (ld.read image (get32 image 4 - 1))).checkCrc (ld.read image (get32 image 4))) := by
  have long := fits.1
  obtain ⟨k, ends⟩ : ∃ k, get32 image 4 = k + 1 := ⟨get32 image 4 - 1, by omega⟩
  have inside : k < image.length := by omega
  have total : (ld.read image (k + 1)).total = k + 1 := (Load.read_total (by omega)).trans ends
  have last : (s.setLoad (ld.read image k)).verifyByte (ld.read image k) image[k] =
      (s.setLoad (ld.read image k)).checkCrc (ld.read image (k + 1)) := by
    by_cases header : k < 12
    · rw [State.verifyByte_header inside header, if_neg (by omega), if_neg (by omega), if_neg (by omega),
        if_pos (by omega)]
    · rw [State.verifyByte_body inside (Nat.not_lt.1 header), if_pos (by omega)]
  rw [State.feedVerify_reaches verifying (Nat.le_of_lt inside)
      ⟨fun _ => tagged, fun _ => fits, fun _ => counted, fun _ => by omega⟩,
    State.feedVerify_drop verifying inside, last, ends, Nat.add_sub_cancel]

end Reading

/-! ### The apply pass begins -/

section Begins

variable {s : State} {ld : Load}

/-- R15: the load at the start of the apply pass. -/
def Load.applied (ld : Load) : Load :=
  { ld with pass := .apply, pos := 12, sect := 0, part := [], table := none, entry := 0, left := 0 }

/-- R15: the part with empty tables and the load status APPLYING. -/
def State.applying (s : State) : State :=
  { s.emptyTables with store := { s.emptyTables.store with status := .applying } }

theorem State.beginApply_short (short : ld.total < 17) :
    s.beginApply ld = s.applying.loadFails ld.applied .overrun (some 0) none := if_pos short

theorem State.beginApply_room (room : 17 ≤ ld.total) : s.beginApply ld = s.applying.setLoad ld.applied :=
  if_neg (Nat.not_lt.2 room)

end Begins

/-- Settles O15. -/
theorem verifiedImageIsApplied : Obligations.VerifiedImageIsApplied := by
  unfold Obligations.VerifiedImageIsApplied
  refine ⟨fun s ld image live flight load verifying header pos crc => ?_, fun s data live idle => ?_⟩
  case refine_2 =>
    show Host.Outcome.next (s.live _) = _
    rw [State.live_running _ live]
    dsimp only
    split
    · next f l => exact absurd f (idle.resolve_right (by rw [l]; nofun))
    · rfl
  intro total count tagged fits counted matched fails
  have start : s.landed.setLoad (ld.read image 0) = s.landed := by
    rw [Load.read_zero header pos crc]
    exact State.setLoad_self load
  have failed {u : State} {x : Load} {rest : List Byte} {cause : LoadCause} {sect : Option Nat}
      (feeds : State.feedImage .verify image (s.landed.setLoad (ld.read image 0)) =
        State.feedImage .verify rest (u.loadFails x cause sect none))
      (link : u.link = s.link) (address : x.address = ld.address) : fails cause sect := by
    rw [start] at feeds
    obtain ⟨t, done, settled, status, tables, mode, triggers, attract, report⟩ :=
      State.failsTo live flight load (by rwa [verifying]) link address
    exact ⟨t, done, settled, status, tables, mode, triggers, attract, report⟩
  have breaks (k : Nat) (inside : k < image.length) (passes : ld.Passes image k) {cause : LoadCause}
      (fault : (s.landed.setLoad (ld.read image k)).verifyByte (ld.read image k) image[k] =
        (s.landed.setLoad (ld.read image k)).loadFails (ld.read image k) cause none none) : fails cause none :=
    failed ((State.feedVerify_reaches verifying (Nat.le_of_lt inside) passes).trans
      ((State.feedVerify_drop verifying inside).trans (congrArg (State.feedImage .verify _) fault))) rfl rfl
  have sums (whole : total ≤ image.length) (t : tagged) (f : fits) (c : counted) :=
    State.feedVerify_sums (s := s.landed) verifying whole t f c
  refine ⟨fun inside wrong => ?_, fun inside t wrong => ?_, fun inside t f wrong => ?_,
    fun inside whole t f c wrong => ?_, fun inside whole t f c right short => ?_, fun inside whole t f c right => ?_⟩
  · exact breaks 3 inside ⟨by omega, by omega, by omega, by omega⟩
      ((State.verifyByte_header inside (by decide)).trans (if_pos ⟨rfl, wrong⟩))
  · refine breaks 7 inside ⟨fun _ => t, by omega, by omega, by omega⟩
      ((State.verifyByte_header inside (by decide)).trans ((if_neg (by omega)).trans (if_pos ⟨rfl, ?_⟩)))
    rw [Load.read_total (by decide)]
    exact Classical.byContradiction fun good => wrong (by omega)
  · refine breaks 9 inside ⟨fun _ => t, fun _ => f, by omega, by omega⟩
      ((State.verifyByte_header inside (by decide)).trans
        ((if_neg (by omega)).trans ((if_neg (by omega)).trans (if_pos ⟨rfl, ?_⟩))))
    rw [Load.read_sections (by decide)]
    exact Classical.byContradiction fun good => wrong (by omega)
  · refine failed ((sums whole t f c).trans (congrArg (State.feedImage .verify _) (if_neg ?_))) rfl rfl
    rw [Load.read_sum f.1]
    exact wrong
  · refine failed ((sums whole t f c).trans (congrArg (State.feedImage .verify _)
      ((if_pos ?_).trans (State.beginApply_short ?_)))) rfl rfl
    · rw [Load.read_sum f.1]
      exact right
    · rw [Load.read_total (Nat.le_trans (by decide) f.1)]
      exact short
  · have applies := (sums (Nat.le_of_eq whole) t f c).trans (congrArg (State.feedImage .verify _)
      ((if_pos (by rw [Load.read_sum f.1]; exact right)).trans (State.beginApply_room (by
        rw [Load.read_total (Nat.le_trans (by decide) f.1)]
        omega))))
    rw [start, List.drop_eq_nil_of_le (Nat.le_of_eq whole.symm)] at applies
    refine ⟨_, (exec_imageReadComplete live flight load).trans (by rw [verifying, applies]), ?_⟩
    rw [State.finish_store]
    exact ⟨rfl, rfl, rfl, _, rfl, rfl, rfl, rfl, rfl, rfl, rfl, rfl,
      Load.read_total (ld := ld) (Nat.le_trans (by decide) f.1), Load.read_sections (ld := ld) (Nat.le_trans (by decide) f.1)⟩

end Sys2Proof.Machine
end

section
/-! The record layouts read back (O19): what a record puts, the decoder takes as the same record. -/

namespace Sys2Proof.Machine

/-! ### Numbers, indices and flags -/

section Numbers

variable {n : Nat}

theorem byteAt_lt (bs : List Byte) (k : Nat) : byteAt bs k < 256 := BitVec.isLt _

theorem get16_lt (bs : List Byte) (k : Nat) : get16 bs k < 65536 := by
  have low := byteAt_lt bs k
  have high := byteAt_lt bs (k + 1)
  unfold get16
  omega

theorem byte_toNat (small : n < 256) : (BitVec.ofNat 8 n).toNat = n := Nat.mod_eq_of_lt small

theorem word_toNat (small : n < 65536) : (BitVec.ofNat 8 n).toNat + 256 * (BitVec.ofNat 8 (n / 256)).toNat = n := by
  show n % 256 + 256 * (n / 256 % 256) = n
  omega

theorem long_toNat (small : n < 16777216) :
    (BitVec.ofNat 8 n).toNat + 256 * (BitVec.ofNat 8 (n / 256)).toNat + 65536 * (BitVec.ofNat 8 (n / 65536)).toNat = n := by
  show n % 256 + 256 * (n / 256 % 256) + 65536 * (n / 65536 % 256) = n
  omega

theorem quad_toNat (small : n < 4294967296) :
    (BitVec.ofNat 8 n).toNat + 256 * (BitVec.ofNat 8 (n / 256)).toNat
      + 65536 * ((BitVec.ofNat 8 (n / 65536)).toNat + 256 * (BitVec.ofNat 8 (n / 65536 / 256)).toNat) = n := by
  show n % 256 + 256 * (n / 256 % 256) + 65536 * (n / 65536 % 256 + 256 * (n / 65536 / 256 % 256)) = n
  omega

theorem inRange?_self {lo hi : Nat} (low : lo ≤ n) (high : n ≤ hi) : inRange? lo hi n = some n := if_pos ⟨low, high⟩

theorem inRange?_some {lo hi m : Nat} (h : inRange? lo hi n = some m) : lo ≤ m ∧ m ≤ hi := by
  unfold inRange? at h
  split at h
  · next inside => exact Option.some.inj h ▸ inside
  · nomatch h

/-- The code of an index or of NONE (R191). -/
def indexCode : Option (Fin n) → Nat
  | none => 255
  | some i => i

theorem putIndex_eq (x : Option (Fin n)) : putIndex x = put8 (indexCode x) := by
  cases x <;> rfl

theorem indexCode_lt (le : n ≤ 255) (x : Option (Fin n)) : indexCode x < 256 := by
  cases x with
  | none => exact (show 255 < 256 by decide)
  | some i => exact Nat.lt_of_lt_of_le i.isLt (Nat.le_trans le (by decide))

theorem indexOrNone?_code (le : n ≤ 255) (x : Option (Fin n)) : indexOrNone? n (indexCode x) = some x := by
  cases x with
  | none => rfl
  | some i =>
    unfold indexOrNone?
    rw [if_neg (show indexCode (some i) ≠ 255 from Nat.ne_of_lt (Nat.lt_of_lt_of_le i.isLt le)), show index? n (indexCode (some i)) = some i from index?_val rfl]
    rfl

end Numbers

/-! ### Scene records -/

theorem Source.kindCode_lt (x : Source) : x.kindCode < 256 := by
  unfold Source.kindCode
  split <;> decide

theorem Source.ofCodes?_put {kind number : Nat} {x : Source} (h : Source.ofCodes? kind number = some x) :
    Source.ofCodes? x.kindCode x.number = some x ∧ x.kindCode < 256 ∧ x.number < 256 := by
  unfold Source.ofCodes? at h
  split at h
  · obtain ⟨b, -, rfl⟩ := Option.map_eq_some_iff.1 h
    refine ⟨?_, Source.kindCode_lt _, Nat.lt_trans b.isLt (by decide)⟩
    show (index? 16 b.val).map Source.button = _
    rw [index?_val rfl]
    rfl
  · obtain ⟨z, -, rfl⟩ := Option.map_eq_some_iff.1 h
    refine ⟨?_, Source.kindCode_lt _, Nat.lt_trans z.isLt (by decide)⟩
    show (index? 12 z.val).map Source.zoneEntry = _
    rw [index?_val rfl]
    rfl
  · obtain ⟨z, -, rfl⟩ := Option.map_eq_some_iff.1 h
    refine ⟨?_, Source.kindCode_lt _, Nat.lt_trans z.isLt (by decide)⟩
    show (index? 12 z.val).map Source.zoneClear = _
    rw [index?_val rfl]
    rfl
  · nomatch h

/-- A source of a scene record. -/
def Source.Stored (x : Source) : Prop := Source.ofCodes? x.kindCode x.number = some x ∧ x.kindCode < 256 ∧ x.number < 256

/-- The sources of a scene record: at most two, of the kinds that a record names. -/
def SourcesStored (xs : List Source) : Prop := xs.length ≤ 2 ∧ ∀ x ∈ xs, x.Stored

theorem sources?_stored {bs : List Byte} {xs : List Source} (h : sources? bs = some xs) : SourcesStored xs := by
  unfold sources? at h
  split at h
  · cases h
    exact ⟨by decide, nofun⟩
  · obtain ⟨a, first, rest⟩ := Option.bind_eq_some_iff.1 h
    cases rest
    exact ⟨Nat.le_succ 1, fun x inside => List.mem_singleton.1 inside ▸ Source.ofCodes?_put first⟩
  · obtain ⟨a, first, rest⟩ := Option.bind_eq_some_iff.1 h
    obtain ⟨b, second, rest⟩ := Option.bind_eq_some_iff.1 rest
    cases rest
    refine ⟨Nat.le_refl 2, fun x inside => ?_⟩
    rcases (List.mem_cons.1 inside).imp id List.mem_singleton.1 with rfl | rfl
    · exact Source.ofCodes?_put first
    · exact Source.ofCodes?_put second
  · nomatch h

theorem byteAt_append (front bs : List Byte) (k : Nat) : byteAt (front ++ bs) (front.length + k) = byteAt bs k := by
  unfold byteAt
  rw [List.getD_eq_getElem?_getD, List.getElem?_append_right (Nat.le_add_right ..), Nat.add_sub_cancel_left,
    List.getD_eq_getElem?_getD]

/-- The source entries read back, whatever the 13 bytes before them. -/
theorem sources?_put (front : List Byte) (length : front.length = 13) {xs : List Source} (h : SourcesStored xs) :
    sources? (front ++ putSources xs) = some xs := by
  obtain ⟨short, each⟩ := h
  have behind (k : Nat) : byteAt (front ++ putSources xs) (13 + k) = byteAt (putSources xs) k :=
    length ▸ byteAt_append front (putSources xs) k
  unfold sources?
  rw [behind 0, behind 1, behind 2, behind 3, behind 4]
  match xs, short, each with
  | [], _, _ => rfl
  | [a], _, each =>
    obtain ⟨code, kind, number⟩ := each a (List.mem_singleton.2 rfl)
    show (Source.ofCodes? (BitVec.ofNat 8 _).toNat (BitVec.ofNat 8 _).toNat).bind _ = _
    rw [byte_toNat kind, byte_toNat number, code]
    rfl
  | [a, b], _, each =>
    obtain ⟨code, kind, number⟩ := each a List.mem_cons_self
    obtain ⟨code', kind', number'⟩ := each b (List.mem_cons_of_mem a List.mem_cons_self)
    show (Source.ofCodes? (BitVec.ofNat 8 _).toNat (BitVec.ofNat 8 _).toNat).bind
      (fun a => (Source.ofCodes? (BitVec.ofNat 8 _).toNat (BitVec.ofNat 8 _).toNat).bind _) = _
    rw [byte_toNat kind, byte_toNat number, byte_toNat kind', byte_toNat number', code, code']
    rfl

theorem Retrigger.ofCode?_code (x : Retrigger) : Retrigger.ofCode? x.code = some x := by
  cases x <;> rfl

/-- The bytes of a scene record before its sources. -/
def SceneRec.front (r : SceneRec) : List Byte :=
  [BitVec.ofNat 8 ((if r.enabled then 1 else 0) + (if r.narration then 2 else 0))]
  ++ put8 r.priority ++ put8 r.retrigger.code ++ put8 (indexCode r.zone) ++ put16 r.firstCue ++ put16 r.cooldown
  ++ put16 r.patience ++ put16 r.groupMask.toNat ++ put8 r.axisMask.toNat

theorem SceneRec.put_eq (r : SceneRec) : r.put = r.front ++ putSources r.sources := by
  unfold SceneRec.put SceneRec.front
  rw [putIndex_eq]

theorem SceneRec.decode?_put {r : SceneRec} (low : 1 ≤ r.priority) (high : r.priority ≤ 7) (cooldown : r.cooldown < 65536)
    (patience : r.patience < 65536) (sources : SourcesStored r.sources) : SceneRec.decode? r.put = some r := by
  rw [SceneRec.put_eq]
  have listed := sources?_put r.front rfl sources
  have flags : getBit (r.front ++ putSources r.sources) 0 0 = r.enabled
      ∧ getBit (r.front ++ putSources r.sources) 0 1 = r.narration := by
    show (BitVec.ofNat 8 _).getLsbD 0 = _ ∧ (BitVec.ofNat 8 _).getLsbD 1 = _
    cases r.enabled <;> cases r.narration <;> decide
  have code : r.retrigger.code < 256 := by cases r.retrigger <;> decide
  have h1 : byteAt (r.front ++ putSources r.sources) 1 = r.priority := byte_toNat (by omega)
  have h2 : byteAt (r.front ++ putSources r.sources) 2 = r.retrigger.code := byte_toNat code
  have h3 : byteAt (r.front ++ putSources r.sources) 3 = indexCode r.zone := byte_toNat (indexCode_lt (by decide) _)
  have h4 : get16 (r.front ++ putSources r.sources) 4 = r.firstCue.val := word_toNat (Nat.lt_trans r.firstCue.isLt (by decide))
  have h6 : get16 (r.front ++ putSources r.sources) 6 = r.cooldown := word_toNat cooldown
  have h8 : get16 (r.front ++ putSources r.sources) 8 = r.patience := word_toNat patience
  have h10 : get16 (r.front ++ putSources r.sources) 10 = r.groupMask.toNat := word_toNat r.groupMask.isLt
  have h12 : byteAt (r.front ++ putSources r.sources) 12 = r.axisMask.toNat := byte_toNat r.axisMask.isLt
  unfold SceneRec.decode?
  rw [listed, flags.1, flags.2, h1, h2, h3, h4, h6, h8, h10, h12, inRange?_self low high, Retrigger.ofCode?_code,
    indexOrNone?_code (by decide), index?_val rfl]
  simp only [Option.bind_eq_bind, Option.bind_some, BitVec.ofNat_toNat, BitVec.setWidth_eq]

theorem SceneRec.decode?_stored {bs : List Byte} {r : SceneRec} (h : SceneRec.decode? bs = some r) :
    SceneRec.decode? r.put = some r := by
  unfold SceneRec.decode? at h
  obtain ⟨priority, ranged, h⟩ := Option.bind_eq_some_iff.1 h
  obtain ⟨retrigger, -, h⟩ := Option.bind_eq_some_iff.1 h
  obtain ⟨zone, -, h⟩ := Option.bind_eq_some_iff.1 h
  obtain ⟨firstCue, -, h⟩ := Option.bind_eq_some_iff.1 h
  obtain ⟨sources, listed, h⟩ := Option.bind_eq_some_iff.1 h
  obtain rfl := Option.some.inj h
  obtain ⟨low, high⟩ := inRange?_some ranged
  exact SceneRec.decode?_put low high (get16_lt ..) (get16_lt ..) (sources?_stored listed)

end Sys2Proof.Machine
end

section
/-! The record layouts read back: cues, looks, lighting, sound, zones, inputs and axes (O19). -/

namespace Sys2Proof.Machine

/-! ### Cue records -/

theorem CueKind.ofCode?_code (x : CueKind) : CueKind.ofCode? x.code = some x := by
  cases x <;> rfl

theorem CueKind.code_lt (x : CueKind) : x.code < 256 := by
  unfold CueKind.code
  split <;> decide

theorem CueRec.decode?_put {delay : Nat} (small : delay < 65536) (kind : CueKind) (a b c d e f : Byte)
    (sound : (CueRec.cue? ⟨delay, kind, #v[a, b, c, d, e, f]⟩).isSome = true) :
    CueRec.decode? (CueRec.put ⟨delay, kind, #v[a, b, c, d, e, f]⟩) = some ⟨delay, kind, #v[a, b, c, d, e, f]⟩ := by
  obtain ⟨cue, read⟩ := Option.isSome_iff_exists.1 sound
  have h0 : get16 (CueRec.put ⟨delay, kind, #v[a, b, c, d, e, f]⟩) 0 = delay := word_toNat small
  have h2 : byteAt (CueRec.put ⟨delay, kind, #v[a, b, c, d, e, f]⟩) 2 = kind.code := byte_toNat kind.code_lt
  unfold CueRec.decode?
  rw [h0, h2, CueKind.ofCode?_code]
  show (CueRec.cue? ⟨delay, kind, #v[a, b, c, d, e, f]⟩).bind (fun _ => some _) = _
  rw [read]
  rfl

theorem CueRec.decode?_stored {bs : List Byte} {r : CueRec} (h : CueRec.decode? bs = some r) :
    CueRec.decode? r.put = some r := by
  unfold CueRec.decode? at h
  obtain ⟨kind, -, h⟩ := Option.bind_eq_some_iff.1 h
  obtain ⟨cue, read, h⟩ := Option.bind_eq_some_iff.1 h
  obtain rfl := Option.some.inj h
  exact CueRec.decode?_put (get16_lt ..) _ _ _ _ _ _ _ (Option.isSome_iff_exists.2 ⟨cue, read⟩)

/-! ### Looks, groups, carriers and attract slots -/

theorem LookRec.decode?_stored {bs : List Byte} {r : LookRec} (h : LookRec.decode? bs = some r) :
    LookRec.decode? r.put = some r := by
  unfold LookRec.decode? at h
  obtain ⟨first, start, h⟩ := Option.bind_eq_some_iff.1 h
  obtain ⟨count, number, h⟩ := Option.bind_eq_some_iff.1 h
  obtain ⟨-, start⟩ := inRange?_some start
  obtain ⟨-, number⟩ := inRange?_some number
  split at h
  · next fits =>
    obtain rfl := Option.some.inj h
    have h0 : get16 (LookRec.put ⟨first, count⟩) 0 = first := word_toNat (show first < 65536 by omega)
    have h2 : byteAt (LookRec.put ⟨first, count⟩) 2 = count := byte_toNat (show count < 256 by omega)
    unfold LookRec.decode?
    rw [h0, h2, inRange?_self (Nat.zero_le _) start, inRange?_self (Nat.zero_le _) number]
    exact if_pos fits
  · nomatch h

theorem PoolRec.decode?_stored {bs : List Byte} {r : PoolRec} (h : PoolRec.decode? bs = some r) :
    PoolRec.decode? r.put = some r := by
  unfold PoolRec.decode? at h
  obtain ⟨channel, -, h⟩ := Option.bind_eq_some_iff.1 h
  obtain rfl := Option.some.inj h
  have h0 : byteAt (PoolRec.put ⟨channel, byteAt bs 1⟩) 0 = channel.val := byte_toNat (Nat.lt_trans channel.isLt (by decide))
  have h1 : byteAt (PoolRec.put ⟨channel, byteAt bs 1⟩) 1 = byteAt bs 1 := byte_toNat (byteAt_lt ..)
  unfold PoolRec.decode?
  rw [h0, h1, index?_val rfl]
  rfl

theorem GroupRec.decode?_stored {bs : List Byte} {r : GroupRec} (h : GroupRec.decode? bs = some r) :
    GroupRec.decode? r.put = some r := by
  obtain rfl := Option.some.inj h
  have h0 (b : Bool) : getBit (GroupRec.put ⟨b, get16 bs 1⟩) 0 0 = b := by
    show (if b then 1 else 0 : Byte).getLsbD 0 = b
    cases b <;> decide
  have h1 (b : Bool) : get16 (GroupRec.put ⟨b, get16 bs 1⟩) 1 = get16 bs 1 := word_toNat (get16_lt ..)
  unfold GroupRec.decode?
  rw [h0, h1]

theorem CarrierMode.ofCode?_code (x : CarrierMode) : CarrierMode.ofCode? x.code = some x := by
  cases x <;> rfl

theorem CarrierMode.code_lt (x : CarrierMode) : x.code < 256 := by
  unfold CarrierMode.code
  split <;> decide

theorem CarrierRec.decode?_put {r : CarrierRec} (period : 2 ≤ r.period ∧ r.period ≤ 255)
    (frames : 1 ≤ r.onFrames ∧ r.onFrames ≤ 255) : CarrierRec.decode? r.put = some r := by
  have h0 : byteAt r.put 0 = r.mode.code := byte_toNat r.mode.code_lt
  have h1 : byteAt r.put 1 = r.period := byte_toNat (by omega)
  have h2 : byteAt r.put 2 = r.onFrames := byte_toNat (by omega)
  unfold CarrierRec.decode?
  rw [h0, h1, h2, CarrierMode.ofCode?_code, inRange?_self period.1 period.2, inRange?_self frames.1 frames.2]
  rfl

/-- R4: a stored carrier record is left by the clamp. -/
theorem CarrierRec.clamp_clamp {r : CarrierRec} (period : 2 ≤ r.period) : r.clamp.clamp = r.clamp := by
  by_cases long : r.period ≤ r.onFrames
  · rw [show r.clamp = { r with onFrames := r.period - 1 } from if_pos long]
    exact if_neg (show ¬ r.period ≤ r.period - 1 by omega)
  · have kept : r.clamp = r := if_neg long
    rw [kept, kept]

theorem CarrierRec.decode?_stored {bs : List Byte} {r : CarrierRec} (h : CarrierRec.decode? bs = some r) :
    CarrierRec.decode? r.clamp.put = some r.clamp ∧ r.clamp.clamp = r.clamp := by
  unfold CarrierRec.decode? at h
  obtain ⟨mode, -, h⟩ := Option.bind_eq_some_iff.1 h
  obtain ⟨period, long, h⟩ := Option.bind_eq_some_iff.1 h
  obtain ⟨frames, lit, h⟩ := Option.bind_eq_some_iff.1 h
  obtain rfl := Option.some.inj h
  have long := inRange?_some long
  have lit := inRange?_some lit
  refine ⟨?_, CarrierRec.clamp_clamp long.1⟩
  unfold CarrierRec.clamp
  split
  · exact CarrierRec.decode?_put long (show 1 ≤ period - 1 ∧ period - 1 ≤ 255 by omega)
  · exact CarrierRec.decode?_put long lit

theorem slotCount?_stored {bs : List Byte} {n : Nat} (h : slotCount? bs = some n) : slotCount? (putSlotCount n) = some n := by
  obtain ⟨low, high⟩ := inRange?_some h
  have h0 : byteAt (putSlotCount n) 0 = n := byte_toNat (by omega)
  unfold slotCount?
  rw [h0, inRange?_self low high]

theorem SlotRec.decode?_stored {bs : List Byte} {r : SlotRec} (h : SlotRec.decode? bs = some r) :
    SlotRec.decode? r.put = some r := by
  unfold SlotRec.decode? at h
  obtain ⟨look, -, h⟩ := Option.bind_eq_some_iff.1 h
  obtain ⟨hold, ranged, h⟩ := Option.bind_eq_some_iff.1 h
  obtain rfl := Option.some.inj h
  obtain ⟨low, high⟩ := inRange?_some ranged
  have h0 : byteAt (SlotRec.put ⟨look, hold, get16 bs 2⟩) 0 = look.val := byte_toNat (Nat.lt_trans look.isLt (by decide))
  have h1 : byteAt (SlotRec.put ⟨look, hold, get16 bs 2⟩) 1 = hold := byte_toNat (show hold < 256 by omega)
  have h2 : get16 (SlotRec.put ⟨look, hold, get16 bs 2⟩) 2 = get16 bs 2 := word_toNat (get16_lt ..)
  unfold SlotRec.decode?
  rw [h0, h1, h2, index?_val rfl, inRange?_self low high]
  rfl

/-! ### Channels -/

/-- The four flags of a channel record in their byte. -/
theorem channelFlags_read (curve : OutputCurve) (participates : Bool) (combine : Combine) (align : Alignment) :
    let byte : Byte := BitVec.ofNat 8 ((if curve = .square then 1 else 0) + (if participates then 0 else 2)
      + (if combine = .or then 4 else 0) + (if align = .centre then 8 else 0))
    (if byte.getLsbD 0 then OutputCurve.square else .linear) = curve ∧ (!byte.getLsbD 1) = participates
    ∧ (if byte.getLsbD 2 then Combine.or else .and) = combine
    ∧ (if byte.getLsbD 3 then Alignment.centre else .edge) = align := by
  cases curve <;> cases participates <;> cases combine <;> cases align <;> decide

theorem ChannelRec.decode?_put {r : ChannelRec} (floor : r.floor ≤ 4095) (ceiling : r.ceiling ≤ 4095) (house : r.house ≤ 4095) :
    ChannelRec.decode? r.put = some r := by
  have flags := channelFlags_read r.curve r.participates r.combine r.align
  have h0 : byteAt r.put 0 = r.group.val := byte_toNat (Nat.lt_trans r.group.isLt (by decide))
  have h2 : get16 r.put 2 = r.floor := word_toNat (by omega)
  have h4 : get16 r.put 4 = r.ceiling := word_toNat (by omega)
  have h6 : get16 r.put 6 = r.house := word_toNat (by omega)
  have h8 : byteAt r.put 8 = indexCode r.carrier := by
    unfold ChannelRec.put
    rw [putIndex_eq]
    exact byte_toNat (indexCode_lt (by decide) _)
  have h9 : byteAt r.put 9 = indexCode r.slot := by
    unfold ChannelRec.put
    rw [putIndex_eq, putIndex_eq]
    exact byte_toNat (indexCode_lt (by decide) _)
  unfold ChannelRec.decode?
  rw [h0, h2, h4, h6, h8, h9, index?_val rfl, inRange?_self (Nat.zero_le _) floor, inRange?_self (Nat.zero_le _) ceiling,
    inRange?_self (Nat.zero_le _) house, indexOrNone?_code (by decide), indexOrNone?_code (by decide)]
  obtain ⟨curve, participates, combine, align⟩ := flags
  show some (ChannelRec.mk r.group _ r.floor r.ceiling r.house _ r.carrier _ _ r.slot) = some r
  exact congrArg some (ChannelRec.mk.injEq .. ▸ ⟨rfl, curve, rfl, rfl, rfl, participates, rfl, combine, align, rfl⟩)

theorem ChannelRec.clamp_clamp (r : ChannelRec) : r.clamp.clamp = r.clamp := by
  by_cases short : r.ceiling < r.floor
  · rw [show r.clamp = { r with ceiling := r.floor } from if_pos short]
    exact if_neg (Nat.lt_irrefl _)
  · have kept : r.clamp = r := if_neg short
    rw [kept, kept]

theorem ChannelRec.decode?_clamp {r : ChannelRec} (floor : r.floor ≤ 4095) (ceiling : r.ceiling ≤ 4095)
    (house : r.house ≤ 4095) : ChannelRec.decode? r.clamp.put = some r.clamp := by
  by_cases short : r.ceiling < r.floor
  · rw [show r.clamp = { r with ceiling := r.floor } from if_pos short]
    exact ChannelRec.decode?_put floor floor house
  · rw [show r.clamp = r from if_neg short]
    exact ChannelRec.decode?_put floor ceiling house

theorem ChannelRec.decode?_stored {bs : List Byte} {r : ChannelRec} (h : ChannelRec.decode? bs = some r) :
    ChannelRec.decode? r.clamp.put = some r.clamp ∧ r.clamp.clamp = r.clamp := by
  unfold ChannelRec.decode? at h
  obtain ⟨group, -, h⟩ := Option.bind_eq_some_iff.1 h
  obtain ⟨floor, low, h⟩ := Option.bind_eq_some_iff.1 h
  obtain ⟨ceiling, high, h⟩ := Option.bind_eq_some_iff.1 h
  obtain ⟨house, told, h⟩ := Option.bind_eq_some_iff.1 h
  obtain ⟨carrier, -, h⟩ := Option.bind_eq_some_iff.1 h
  obtain ⟨slot, -, h⟩ := Option.bind_eq_some_iff.1 h
  obtain rfl := Option.some.inj h
  exact ⟨ChannelRec.decode?_clamp (inRange?_some low).2 (inRange?_some high).2 (inRange?_some told).2,
    ChannelRec.clamp_clamp _⟩

end Sys2Proof.Machine
end

section
/-! The record layouts read back: clips, beds, zones, inputs and axes, and the settlement of O19. -/

namespace Sys2Proof.Machine

/-! ### Clips and beds -/

/-- R3: a variant of a clip record. -/
def Variant.Stored (v : Variant) : Prop :=
  v.address ≤ 67108863 ∧ 1 ≤ v.length ∧ v.length ≤ 16777215 ∧ v.address % 16777216 + v.length ≤ 16777216

theorem variantAt?_stored {bs : List Byte} {k : Nat} {v : Variant} (h : variantAt? bs k = some v) : v.Stored := by
  unfold variantAt? at h
  obtain ⟨language, -, h⟩ := Option.bind_eq_some_iff.1 h
  obtain ⟨address, chip, h⟩ := Option.bind_eq_some_iff.1 h
  obtain ⟨length, long, h⟩ := Option.bind_eq_some_iff.1 h
  split at h
  · next fits =>
    obtain rfl := Option.some.inj h
    exact ⟨(inRange?_some chip).2, (inRange?_some long).1, (inRange?_some long).2, fits⟩
  · nomatch h

theorem variants?_stored {bs : List Byte} {k n : Nat} {vs : List Variant} (h : variants? bs k n = some vs) :
    vs.length = n ∧ ∀ v ∈ vs, v.Stored := by
  induction n generalizing k vs with
  | zero =>
    cases h
    exact ⟨rfl, nofun⟩
  | succ n ih =>
    unfold variants? at h
    obtain ⟨v, first, h⟩ := Option.bind_eq_some_iff.1 h
    obtain ⟨rest, others, h⟩ := Option.bind_eq_some_iff.1 h
    obtain rfl := Option.some.inj h
    obtain ⟨length, each⟩ := ih others
    exact ⟨congrArg (· + 1) length, List.forall_mem_cons.2 ⟨variantAt?_stored first, each⟩⟩

/-- A variant entry reads back behind any bytes. -/
theorem variantAt?_put (front back : List Byte) {v : Variant} (h : v.Stored) :
    variantAt? (front ++ (v.put ++ back)) front.length = some v := by
  obtain ⟨chip, positive, long, fits⟩ := h
  have at0 := byteAt_append front (v.put ++ back) 0
  have h0 : byteAt (front ++ (v.put ++ back)) front.length = v.language.val :=
    at0.trans (byte_toNat (Nat.lt_trans v.language.isLt (by decide)))
  have h1 : get32 (front ++ (v.put ++ back)) (front.length + 1) = v.address := by
    unfold get32 get16
    simp only [Nat.add_assoc, byteAt_append]
    exact (Nat.add_assoc ..).symm.trans (quad_toNat (n := v.address) (by omega))
  have h5 : get24 (front ++ (v.put ++ back)) (front.length + 5) = v.length := by
    unfold get24 get16
    simp only [Nat.add_assoc, byteAt_append]
    exact (Nat.add_assoc ..).symm.trans (long_toNat (n := v.length) (by omega))
  unfold variantAt?
  rw [h0, h1, h5, index?_val rfl, inRange?_self (Nat.zero_le _) chip, inRange?_self positive long]
  exact if_pos fits

theorem Variant.put_length (v : Variant) : v.put.length = 8 := rfl

theorem variants?_put (front : List Byte) {n : Nat} {vs : List Variant} (short : vs.length ≤ n) (h : ∀ v ∈ vs, v.Stored) :
    variants? (front ++ putVariants n vs) front.length vs.length = some vs := by
  induction vs generalizing front n with
  | nil => rfl
  | cons v vs ih =>
    cases n with
    | zero => exact absurd short (Nat.not_succ_le_zero _)
    | succ n =>
      obtain ⟨first, others⟩ := List.forall_mem_cons.1 h
      have rest := ih (front ++ v.put) (Nat.le_of_succ_le_succ short) others
      rw [List.length_append, Variant.put_length, List.append_assoc] at rest
      show (variantAt? (front ++ (v.put ++ putVariants n vs)) front.length).bind
        (fun v' => (variants? (front ++ (v.put ++ putVariants n vs)) (front.length + 8) vs.length).bind
          fun vs' => some (v' :: vs')) = _
      rw [variantAt?_put front _ first, rest]
      rfl

theorem ClipRec.decode?_stored {bs : List Byte} {r : ClipRec} (h : ClipRec.decode? bs = some r) :
    ClipRec.decode? r.put = some r := by
  unfold ClipRec.decode? at h
  obtain ⟨count, ranged, h⟩ := Option.bind_eq_some_iff.1 h
  obtain ⟨vs, listed, h⟩ := Option.bind_eq_some_iff.1 h
  obtain rfl := Option.some.inj h
  obtain ⟨low, high⟩ := inRange?_some ranged
  obtain ⟨length, each⟩ := variants?_stored listed
  generalize getBit bs 1 0 = loop
  have h0 : byteAt (ClipRec.put ⟨vs, loop⟩) 0 = vs.length := byte_toNat (show vs.length < 256 by omega)
  have h1 : getBit (ClipRec.put ⟨vs, loop⟩) 1 0 = loop := by
    show (if loop then 1 else 0 : Byte).getLsbD 0 = loop
    cases loop <;> decide
  have rest := variants?_put (put8 vs.length ++ putFlag loop) (n := 4) (by omega) each
  unfold ClipRec.decode?
  rw [h0, h1, inRange?_self (by omega) (by omega)]
  show (variants? (put8 vs.length ++ putFlag loop ++ putVariants 4 vs) 2 vs.length).bind (fun vs' => some _) = _
  rw [show 2 = (put8 vs.length ++ putFlag loop).length from rfl, rest]
  rfl

/-- The code of a clip number or of NONE. -/
def clipCode : Option (Fin 256) → Nat
  | none => 65535
  | some c => c

theorem putClip_eq (x : Option (Fin 256)) : putClip x = put16 (clipCode x) := by
  cases x <;> rfl

theorem clipCode_lt (x : Option (Fin 256)) : clipCode x < 65536 := by
  cases x with
  | none => exact (show 65535 < 65536 by decide)
  | some c => exact Nat.lt_trans c.isLt (by decide)

theorem clipOrNone?_code (x : Option (Fin 256)) : clipOrNone? (clipCode x) = some x := by
  cases x with
  | none => rfl
  | some c =>
    unfold clipOrNone?
    rw [if_neg (show clipCode (some c) ≠ 65535 from Nat.ne_of_lt (Nat.lt_trans c.isLt (by decide))),
      show index? 256 (clipCode (some c)) = some c from index?_val rfl]
    rfl

theorem BedRec.decode?_put {r : BedRec} (gain : r.gain < 256) (duck : r.duck < 256) (step : 1 ≤ r.step ∧ r.step ≤ 255) :
    BedRec.decode? r.put = some r := by
  have put : r.put = put16 (clipCode r.clip) ++ put8 r.gain ++ put8 r.duck ++ put8 r.step := by
    unfold BedRec.put
    rw [putClip_eq]
  have h0 : get16 r.put 0 = clipCode r.clip := put ▸ word_toNat (clipCode_lt _)
  have h2 : byteAt r.put 2 = r.gain := put ▸ byte_toNat gain
  have h3 : byteAt r.put 3 = r.duck := put ▸ byte_toNat duck
  have h4 : byteAt r.put 4 = r.step := put ▸ byte_toNat (Nat.lt_succ_of_le step.2)
  unfold BedRec.decode?
  rw [h0, h2, h3, h4, clipOrNone?_code, inRange?_self step.1 step.2]
  rfl

theorem BedRec.clamp_clamp (r : BedRec) : r.clamp.clamp = r.clamp := by
  unfold BedRec.clamp
  dsimp only
  rw [Nat.min_assoc, Nat.min_self]

theorem BedRec.decode?_stored {bs : List Byte} {r : BedRec} (h : BedRec.decode? bs = some r) :
    BedRec.decode? r.clamp.put = some r.clamp ∧ r.clamp.clamp = r.clamp := by
  unfold BedRec.decode? at h
  obtain ⟨clip, -, h⟩ := Option.bind_eq_some_iff.1 h
  obtain ⟨step, ranged, h⟩ := Option.bind_eq_some_iff.1 h
  obtain rfl := Option.some.inj h
  exact ⟨BedRec.decode?_put (byteAt_lt ..) (Nat.lt_of_le_of_lt (Nat.min_le_left ..) (byteAt_lt bs 3)) (inRange?_some ranged),
    BedRec.clamp_clamp _⟩

/-! ### Zones, sensors and buttons -/

theorem ZoneRec.decode?_stored {bs : List Byte} {r : ZoneRec} (h : ZoneRec.decode? bs = some r) :
    ZoneRec.decode? r.put = some r := by
  unfold ZoneRec.decode? at h
  obtain ⟨entry, enters, h⟩ := Option.bind_eq_some_iff.1 h
  obtain ⟨clear, clears, h⟩ := Option.bind_eq_some_iff.1 h
  obtain ⟨language, -, h⟩ := Option.bind_eq_some_iff.1 h
  obtain ⟨output, -, h⟩ := Option.bind_eq_some_iff.1 h
  dsimp only at h
  generalize BitVec.ofNat 4 (byteAt bs 4) = languages at h
  split at h
  · next offered =>
    obtain rfl := Option.some.inj h
    have enters := inRange?_some enters
    have clears := inRange?_some clears
    have h0 : byteAt (ZoneRec.put ⟨entry, clear, language, languages, output⟩) 0 = entry :=
      byte_toNat (Nat.lt_succ_of_le enters.2)
    have h1 : get16 (ZoneRec.put ⟨entry, clear, language, languages, output⟩) 1 = clear :=
      word_toNat (Nat.lt_succ_of_le clears.2)
    have h3 : byteAt (ZoneRec.put ⟨entry, clear, language, languages, output⟩) 3 = language.val :=
      byte_toNat (Nat.lt_trans language.isLt (by decide))
    have h4 : byteAt (ZoneRec.put ⟨entry, clear, language, languages, output⟩) 4 = languages.toNat :=
      byte_toNat (Nat.lt_trans languages.isLt (by decide))
    have h5 : byteAt (ZoneRec.put ⟨entry, clear, language, languages, output⟩) 5 = output.val :=
      byte_toNat (Nat.lt_trans output.isLt (by decide))
    unfold ZoneRec.decode?
    rw [h0, h1, h3, h4, h5, inRange?_self enters.1 enters.2, inRange?_self clears.1 clears.2, index?_val rfl, index?_val rfl,
      BitVec.ofNat_toNat, BitVec.setWidth_eq]
    exact if_pos offered
  · nomatch h

theorem SensorRec.decode?_put (zone : Option (Fin 12)) (low : Bool) :
    SensorRec.decode? (SensorRec.put ⟨zone, low⟩) = some ⟨zone, low⟩ := by
  have put : SensorRec.put ⟨zone, low⟩ = put8 (indexCode zone) ++ putFlag low ++ [0, 0] := by
    unfold SensorRec.put
    rw [putIndex_eq]
  have h0 : byteAt (SensorRec.put ⟨zone, low⟩) 0 = indexCode zone := put ▸ byte_toNat (indexCode_lt (by decide) _)
  have h1 : byteAt (SensorRec.put ⟨zone, low⟩) 1 = if low then 1 else 0 := by
    rw [put]
    show (if low then 1 else 0 : Byte).toNat = _
    cases low <;> rfl
  unfold SensorRec.decode?
  rw [h0, h1, indexOrNone?_code (by decide)]
  cases low <;> rfl

theorem SensorRec.decode?_stored {bs : List Byte} {r : SensorRec} (_ : SensorRec.decode? bs = some r) :
    SensorRec.decode? r.put = some r := SensorRec.decode?_put r.zone r.activeLow

theorem ButtonRec.decode?_put {debounce : Nat} (low : 1 ≤ debounce) (high : debounce ≤ 255) (function : ButtonFunction)
    (ack manual : Bool) :
    ButtonRec.decode? (ButtonRec.put ⟨debounce, function, ack, manual⟩) = some ⟨debounce, function, ack, manual⟩ := by
  have flags : (BitVec.ofNat 8 ((if ack then 1 else 0) + (if manual then 2 else 0)) : Byte).getLsbD 0 = ack
      ∧ (BitVec.ofNat 8 ((if ack then 1 else 0) + (if manual then 2 else 0)) : Byte).getLsbD 1 = manual := by
    cases ack <;> cases manual <;> decide
  have h0 : byteAt (ButtonRec.put ⟨debounce, function, ack, manual⟩) 0 = debounce := byte_toNat (Nat.lt_succ_of_le high)
  cases function with
  | scene =>
    have h3 (k : Nat) : getBit (ButtonRec.put ⟨debounce, .scene, ack, manual⟩) 3 k =
      (BitVec.ofNat 8 ((if ack then 1 else 0) + (if manual then 2 else 0)) : Byte).getLsbD k := rfl
    unfold ButtonRec.decode?
    rw [h0, h3, h3, flags.1, flags.2, inRange?_self low high]
    rfl
  | language z =>
    have h2 : byteAt (ButtonRec.put ⟨debounce, .language z, ack, manual⟩) 2 = z.val :=
      byte_toNat (Nat.lt_trans z.isLt (by decide))
    have h3 (k : Nat) : getBit (ButtonRec.put ⟨debounce, .language z, ack, manual⟩) 3 k =
      (BitVec.ofNat 8 ((if ack then 1 else 0) + (if manual then 2 else 0)) : Byte).getLsbD k := rfl
    unfold ButtonRec.decode?
    rw [h0, h2, h3, h3, flags.1, flags.2, inRange?_self low high]
    show ((index? 12 z.val).map ButtonFunction.language).bind (fun function' => some _) = _
    rw [index?_val rfl]
    rfl

theorem ButtonRec.decode?_stored {bs : List Byte} {r : ButtonRec} (h : ButtonRec.decode? bs = some r) :
    ButtonRec.decode? r.put = some r := by
  unfold ButtonRec.decode? at h
  obtain ⟨debounce, ranged, h⟩ := Option.bind_eq_some_iff.1 h
  obtain ⟨function, -, h⟩ := Option.bind_eq_some_iff.1 h
  obtain rfl := Option.some.inj h
  obtain ⟨low, high⟩ := inRange?_some ranged
  exact ButtonRec.decode?_put low high ..

/-! ### Axes and profiles -/

theorem getS32_put {bs : List Byte} {k : Nat} {i : Int} (read : get32 bs k = (i % 4294967296).toNat)
    (low : -2147483648 ≤ i) (high : i < 2147483648) : getS32 bs k = i := by
  unfold getS32
  rw [read]
  dsimp only
  split <;> omega

theorem getS32_range (bs : List Byte) (k : Nat) : -2147483648 ≤ getS32 bs k ∧ getS32 bs k < 2147483648 := by
  have low := get16_lt bs k
  have high := get16_lt bs (k + 2)
  unfold getS32 get32
  dsimp only
  split <;> omega

theorem AxisRec.decode?_put {r : AxisRec} (min : -1000000 ≤ r.minPos ∧ r.minPos < 2147483648)
    (max : -2147483648 ≤ r.maxPos ∧ r.maxPos ≤ 1000000) (rate : 10 ≤ r.homeRate ∧ r.homeRate ≤ 5000) (resume : r.resume < 65536) :
    AxisRec.decode? r.put = some r := by
  have put : r.put = putS32 r.minPos ++ putS32 r.maxPos ++ put16 r.homeRate ++ put8 (indexCode r.guard) ++ put16 r.resume
      ++ put8 r.profile := by
    unfold AxisRec.put
    rw [putIndex_eq]
  have h0 : getS32 r.put 0 = r.minPos := getS32_put (put ▸ quad_toNat (by omega)) (by omega) (by omega)
  have h4 : getS32 r.put 4 = r.maxPos := getS32_put (put ▸ quad_toNat (by omega)) (by omega) (by omega)
  have h8 : get16 r.put 8 = r.homeRate := put ▸ word_toNat (by omega)
  have h10 : byteAt r.put 10 = indexCode r.guard := put ▸ byte_toNat (indexCode_lt (by decide) _)
  have h11 : get16 r.put 11 = r.resume := put ▸ word_toNat resume
  have h13 : byteAt r.put 13 = r.profile.val := put ▸ byte_toNat (Nat.lt_trans r.profile.isLt (by decide))
  unfold AxisRec.decode?
  rw [h0, h4, h8, h10, h11, h13, inRange?_self rate.1 rate.2, indexOrNone?_code (by decide), index?_val rfl]
  exact if_pos ⟨min.1, max.2⟩

theorem AxisRec.clamp_clamp (r : AxisRec) : r.clamp.clamp = r.clamp := by
  unfold AxisRec.clamp
  dsimp only
  rw [Int.min_assoc, Int.min_self, Int.max_assoc, Int.max_self]

theorem AxisRec.decode?_stored {bs : List Byte} {r : AxisRec} (h : AxisRec.decode? bs = some r) :
    AxisRec.decode? r.clamp.put = some r.clamp ∧ r.clamp.clamp = r.clamp := by
  unfold AxisRec.decode? at h
  obtain ⟨rate, ranged, h⟩ := Option.bind_eq_some_iff.1 h
  obtain ⟨guard, -, h⟩ := Option.bind_eq_some_iff.1 h
  obtain ⟨profile, -, h⟩ := Option.bind_eq_some_iff.1 h
  dsimp only at h
  split at h
  · next inside =>
    obtain rfl := Option.some.inj h
    have low := getS32_range bs 0
    have high := getS32_range bs 4
    refine ⟨AxisRec.decode?_put ?_ ?_ (inRange?_some ranged) (get16_lt ..), AxisRec.clamp_clamp _⟩
    · show -1000000 ≤ min (getS32 bs 0) 0 ∧ min (getS32 bs 0) 0 < 2147483648
      omega
    · show -2147483648 ≤ max (getS32 bs 4) 0 ∧ max (getS32 bs 4) 0 ≤ 1000000
      omega
  · nomatch h

theorem ProfileRec.decode?_stored {bs : List Byte} {r : ProfileRec} (h : ProfileRec.decode? bs = some r) :
    ProfileRec.decode? r.put = some r := by
  unfold ProfileRec.decode? at h
  obtain ⟨top, fast, h⟩ := Option.bind_eq_some_iff.1 h
  obtain ⟨accel, steep, h⟩ := Option.bind_eq_some_iff.1 h
  obtain rfl := Option.some.inj h
  have fast := inRange?_some fast
  have steep := inRange?_some steep
  have h0 : get16 (ProfileRec.put ⟨top, accel⟩) 0 = top := word_toNat (show top < 65536 by omega)
  have h2 : get16 (ProfileRec.put ⟨top, accel⟩) 2 = accel := word_toNat (show accel < 65536 by omega)
  unfold ProfileRec.decode?
  rw [h0, h2, inRange?_self fast.1 fast.2, inRange?_self steep.1 steep.2]
  rfl

/-! ### Entries of the tables -/

/-- The bytes of a stored record, decoded and written where it stands, leave its table; `clamp` is R4's. -/
theorem entry_readsBack {α : Type} [DecidableEq α] {d : α} {l : List (Nat × α)} {i : Nat} {r : α} {put : α → List Byte}
    {decode? : List Byte → Option α} {clamp : α → α} {tables : List (Nat × α) → Tables} (reads : decode? (put r) = some r)
    (clamped : clamp r = r) :
    ((decode? (put (Table.read d (Table.write d l i r) i))).map fun x =>
      tables (Table.write d (Table.write d l i r) i (clamp x))) = some (tables (Table.write d l i r)) := by
  rw [Table.read_write, if_pos rfl, reads, Option.map_some, clamped, Table.write_write]

/-- Settles O19, table by table. -/
theorem storedRecordsReadBack : Obligations.StoredRecordsReadBack := by
  intro t u table i record stored
  unfold Tables.storeEntry? at stored
  split at stored
  · obtain ⟨r, decoded, rfl⟩ := Option.map_eq_some_iff.1 stored
    exact entry_readsBack (clamp := id) (tables := fun l => { t with scenes := l }) (SceneRec.decode?_stored decoded) rfl
  · obtain ⟨r, decoded, rfl⟩ := Option.map_eq_some_iff.1 stored
    exact entry_readsBack (clamp := id) (tables := fun l => { t with cues := l }) (CueRec.decode?_stored decoded) rfl
  · obtain ⟨r, decoded, rfl⟩ := Option.map_eq_some_iff.1 stored
    exact entry_readsBack (clamp := id) (tables := fun l => { t with looks := l }) (LookRec.decode?_stored decoded) rfl
  · obtain ⟨r, decoded, rfl⟩ := Option.map_eq_some_iff.1 stored
    exact entry_readsBack (clamp := id) (tables := fun l => { t with pool := l }) (PoolRec.decode?_stored decoded) rfl
  · obtain ⟨r, decoded, rfl⟩ := Option.map_eq_some_iff.1 stored
    obtain ⟨reads, clamped⟩ := ChannelRec.decode?_stored decoded
    exact entry_readsBack (tables := fun l => { t with channels := l }) reads clamped
  · obtain ⟨r, decoded, rfl⟩ := Option.map_eq_some_iff.1 stored
    exact entry_readsBack (clamp := id) (tables := fun l => { t with groups := l }) (GroupRec.decode?_stored decoded) rfl
  · obtain ⟨r, decoded, rfl⟩ := Option.map_eq_some_iff.1 stored
    obtain ⟨reads, clamped⟩ := CarrierRec.decode?_stored decoded
    exact entry_readsBack (tables := fun l => { t with carriers := l }) reads clamped
  · split at stored
    · next header =>
      obtain ⟨n, decoded, rfl⟩ := Option.map_eq_some_iff.1 stored
      subst header
      show (slotCount? (putSlotCount n)).map _ = _
      rw [slotCount?_stored decoded, Option.map_some]
    · next slot =>
      obtain ⟨r, decoded, rfl⟩ := Option.map_eq_some_iff.1 stored
      unfold Tables.storeEntry? Tables.putEntry
      dsimp only
      rw [if_neg slot, if_neg slot]
      exact entry_readsBack (clamp := id) (tables := fun l => { t with slots := l }) (SlotRec.decode?_stored decoded) rfl
  · obtain ⟨r, decoded, rfl⟩ := Option.map_eq_some_iff.1 stored
    exact entry_readsBack (clamp := id) (tables := fun l => { t with clips := l }) (ClipRec.decode?_stored decoded) rfl
  · obtain ⟨r, decoded, rfl⟩ := Option.map_eq_some_iff.1 stored
    obtain ⟨reads, clamped⟩ := BedRec.decode?_stored decoded
    exact entry_readsBack (tables := fun l => { t with beds := l }) reads clamped
  · obtain ⟨r, decoded, rfl⟩ := Option.map_eq_some_iff.1 stored
    exact entry_readsBack (clamp := id) (tables := fun l => { t with zones := l }) (ZoneRec.decode?_stored decoded) rfl
  · split at stored
    · next sensor =>
      obtain ⟨r, decoded, rfl⟩ := Option.map_eq_some_iff.1 stored
      unfold Tables.storeEntry? Tables.putEntry
      dsimp only
      rw [if_pos sensor, if_pos sensor]
      exact entry_readsBack (clamp := id) (tables := fun l => { t with sensors := l }) (SensorRec.decode?_stored decoded) rfl
    · next button =>
      obtain ⟨r, decoded, rfl⟩ := Option.map_eq_some_iff.1 stored
      unfold Tables.storeEntry? Tables.putEntry
      dsimp only
      rw [if_neg button, if_neg button]
      exact entry_readsBack (clamp := id) (tables := fun l => { t with buttons := l }) (ButtonRec.decode?_stored decoded) rfl
  · obtain ⟨r, decoded, rfl⟩ := Option.map_eq_some_iff.1 stored
    obtain ⟨reads, clamped⟩ := AxisRec.decode?_stored decoded
    exact entry_readsBack (tables := fun l => { t with axes := l }) reads clamped
  · obtain ⟨r, decoded, rfl⟩ := Option.map_eq_some_iff.1 stored
    exact entry_readsBack (clamp := id) (tables := fun l => { t with profiles := l }) (ProfileRec.decode?_stored decoded) rfl

end Sys2Proof.Machine
end

section
/-! What one record of a TABLE WRITE does to the part (O18). -/

namespace Sys2Proof.Machine

/-! ### One record in the tables -/

/-- R1: a record reaches its own entry alone. -/
theorem Tables.storeEntry?_elsewhere {t u : Tables} {table : Fin 14} {i : Nat} {bs : List Byte}
    (h : t.storeEntry? table i bs = some u) :
    (∀ sc : Fin 64, ¬ (table = 0 ∧ i = sc) → u.scene sc = t.scene sc)
    ∧ (∀ b : Fin 4, ¬ (table = 9 ∧ i = b) → u.bed b = t.bed b)
    ∧ (∀ z : Fin 12, ¬ (table = 10 ∧ i = z) → u.zone z = t.zone z)
    ∧ (∀ b : Fin 16, ¬ (table = 11 ∧ i = 16 + b) → u.button b = t.button b)
    ∧ ∀ a : Fin 8, ¬ (table = 12 ∧ i = a) → u.axis a = t.axis a := by
  unfold Tables.storeEntry? at h
  split at h
  case h_1 =>
    obtain ⟨r, -, rfl⟩ := Option.map_eq_some_iff.1 h
    exact ⟨fun sc other => (Table.read_write ..).trans (if_neg fun same => other ⟨rfl, same.symm⟩),
      fun _ _ => rfl, fun _ _ => rfl, fun _ _ => rfl, fun _ _ => rfl⟩
  case h_10 =>
    obtain ⟨r, -, rfl⟩ := Option.map_eq_some_iff.1 h
    exact ⟨fun _ _ => rfl, fun b other => (Table.read_write ..).trans (if_neg fun same => other ⟨rfl, same.symm⟩),
      fun _ _ => rfl, fun _ _ => rfl, fun _ _ => rfl⟩
  case h_11 =>
    obtain ⟨r, -, rfl⟩ := Option.map_eq_some_iff.1 h
    exact ⟨fun _ _ => rfl, fun _ _ => rfl,
      fun z other => (Table.read_write ..).trans (if_neg fun same => other ⟨rfl, same.symm⟩), fun _ _ => rfl, fun _ _ => rfl⟩
  case h_12 =>
    split at h
    · obtain ⟨r, -, rfl⟩ := Option.map_eq_some_iff.1 h
      exact ⟨fun _ _ => rfl, fun _ _ => rfl, fun _ _ => rfl, fun _ _ => rfl, fun _ _ => rfl⟩
    · next button =>
      obtain ⟨r, -, rfl⟩ := Option.map_eq_some_iff.1 h
      exact ⟨fun _ _ => rfl, fun _ _ => rfl, fun _ _ => rfl,
        fun b other => (Table.read_write ..).trans (if_neg fun same => other ⟨rfl, by omega⟩), fun _ _ => rfl⟩
  case h_13 =>
    obtain ⟨r, -, rfl⟩ := Option.map_eq_some_iff.1 h
    exact ⟨fun _ _ => rfl, fun _ _ => rfl, fun _ _ => rfl, fun _ _ => rfl,
      fun a other => (Table.read_write ..).trans (if_neg fun same => other ⟨rfl, same.symm⟩)⟩
  case h_8 =>
    split at h <;> obtain ⟨r, -, rfl⟩ := Option.map_eq_some_iff.1 h <;>
      exact ⟨fun _ _ => rfl, fun _ _ => rfl, fun _ _ => rfl, fun _ _ => rfl, fun _ _ => rfl⟩
  all_goals
    obtain ⟨r, -, rfl⟩ := Option.map_eq_some_iff.1 h
    exact ⟨fun _ _ => rfl, fun _ _ => rfl, fun _ _ => rfl, fun _ _ => rfl, fun _ _ => rfl⟩

/-! ### One record in the other blocks -/

section Stored

variable {s t : State} {table : Fin 14} {i : Nat} {bs : List Byte}

/-- R157, R170: a stored record reaches the tables, the zones and the axes alone. -/
theorem State.storeRecord?_rest (h : s.storeRecord? table i bs = some t) :
    { t with store := s.store, monitor := s.monitor, motion := s.motion } = s
    ∧ { t.monitor with zones := s.monitor.zones } = s.monitor ∧ { t.motion with axes := s.motion.axes } = s.motion := by
  obtain ⟨u, -, ⟨-, rfl⟩ | ⟨z, -, -, rfl⟩ | ⟨-, -, rfl⟩⟩ := State.storeRecord?_some h
  · exact ⟨rfl, rfl, rfl⟩
  · exact ⟨rfl, rfl, rfl⟩
  · exact ⟨rfl, rfl, rfl⟩

/-- R170: a stored zone record sets the language of its zone. -/
theorem State.storeRecord?_zone (h : s.storeRecord? table i bs = some t) (z : Fin 12) :
    t.monitor.zones[z] = if table = 10 ∧ i = z then
      { s.monitor.zones[z] with language := (t.store.tables.zone z).language } else s.monitor.zones[z] := by
  obtain ⟨u, -, ⟨axes, rfl⟩ | ⟨w, zones, here, rfl⟩ | ⟨-, outside, rfl⟩⟩ := State.storeRecord?_some h
  · rw [if_neg fun both => absurd (both.1.symm.trans axes) (by decide)]
    rfl
  · show (s.monitor.zones.set w _)[z] = _
    rw [Vector.getElem_setFin]
    by_cases same : w = z
    · subst same
      rw [if_pos rfl, if_pos ⟨zones, here.symm⟩]
      rfl
    · rw [if_neg same, if_neg fun both => same (Fin.ext (here.trans both.2))]
  · refine (if_neg fun both => ?_).symm
    have := outside both.1
    omega

theorem State.storeRecord?_zoneState (h : s.storeRecord? table i bs = some t) (z : Fin 12) :
    (t.monitor.zones[z]).state = (s.monitor.zones[z]).state := by
  rw [State.storeRecord?_zone h]
  split <;> rfl

/-- R157, R159, R160: a stored axis record acts on its axis: the limits first, then the change of its hold condition. -/
theorem State.storeRecord?_axis (h : s.storeRecord? table i bs = some t) (a : Fin 8) :
    t.motion.axes[a] = if table = 12 ∧ i = a then
      Axis.holdChange ((s.motion.axes[a]).limitsRewritten (t.store.tables.axis a)) (t.store.tables.axis a)
        (s.holdPresent a) (t.holdPresent a) else s.motion.axes[a] := by
  obtain ⟨u, stored, ⟨axes, rfl⟩ | ⟨w, zones, -, rfl⟩ | ⟨other, -, rfl⟩⟩ := State.storeRecord?_some h
  · subst axes
    have held : ((s.setTables u).axesRewritten s fun a => decide (a.val = i)).holdPresent a = (s.setTables u).holdPresent a :=
      State.holdPresent_congr rfl rfl fun _ => rfl
    rw [State.axesRewritten_axis, held]
    by_cases own : i = a
    · rw [if_pos (decide_eq_true own.symm), if_pos ⟨rfl, own⟩]
      rfl
    · have record : u.axis a = s.store.tables.axis a := (Tables.storeEntry?_elsewhere stored).2.2.2.2 a fun both => own both.2
      have present : (s.setTables u).holdPresent a = s.holdPresent a := State.holdPresent_congr rfl record fun _ => rfl
      rw [if_neg (by rw [decide_eq_false (Ne.symm own)]; exact Bool.false_ne_true), if_neg fun both => own both.2, present,
        Axis.holdChange_same]
      rfl
  · rw [if_neg fun both => absurd (zones.symm.trans both.1) (by decide)]
    rfl
  · rw [if_neg fun both => other both.1]
    rfl

/-- R21, R133, R174: a record written in STANDBY reaches the scenes, the beds and the lamps alone. -/
theorem State.recordWritten_rest (s : State) (table : Fin 14) (i : Nat) :
    { s.recordWritten table i with engine := s.engine, sound := s.sound, monitor := s.monitor } = s
    ∧ { (s.recordWritten table i).engine with scenes := s.engine.scenes } = s.engine
    ∧ { (s.recordWritten table i).sound with beds := s.sound.beds } = s.sound
    ∧ { (s.recordWritten table i).monitor with lamps := s.monitor.lamps } = s.monitor := by
  unfold State.recordWritten
  split
  · split <;> exact ⟨rfl, rfl, rfl, rfl⟩
  · split
    · split <;> exact ⟨rfl, rfl, rfl, rfl⟩
    · split
      · split
        · split <;> exact ⟨rfl, rfl, rfl, rfl⟩
        · exact ⟨rfl, rfl, rfl, rfl⟩
      · exact ⟨rfl, rfl, rfl, rfl⟩

theorem State.recordWritten_scene (s : State) (table : Fin 14) (i : Nat) (sc : Fin 64) :
    (s.recordWritten table i).engine.scenes[sc] =
      if table = 0 ∧ i = sc then (s.engine.scenes[sc]).rewritten (s.store.tables.scene sc) else s.engine.scenes[sc] := by
  by_cases scenes : table = 0
  · subst scenes
    unfold State.recordWritten
    rw [if_pos rfl]
    by_cases inside : i < 64
    · rw [index?_val (i := ⟨i, inside⟩) rfl]
      refine (Vector.getElem_setFin ..).trans ?_
      by_cases same : i = sc
      · subst same
        rw [if_pos rfl, if_pos ⟨rfl, rfl⟩]
      · rw [if_neg fun h => same (congrArg Fin.val h), if_neg fun both => same both.2]
    · rw [index?_ge (Nat.not_lt.1 inside), if_neg (show ¬ ((0 : Fin 14) = 0 ∧ i = sc) by omega)]
  · rw [if_neg fun both => scenes both.1]
    unfold State.recordWritten
    rw [if_neg scenes]
    split
    · split <;> rfl
    · split
      · split
        · split <;> rfl
        · rfl
      · rfl

theorem State.recordWritten_bed (s : State) (table : Fin 14) (i : Nat) (b : Fin 4) :
    (s.recordWritten table i).sound.beds[b] =
      if table = 9 ∧ i = b then (s.sound.beds[b]).load (s.store.tables.bed b) else s.sound.beds[b] := by
  by_cases beds : table = 9
  · subst beds
    unfold State.recordWritten
    rw [if_neg (by decide), if_pos rfl]
    by_cases inside : i < 4
    · rw [index?_val (i := ⟨i, inside⟩) rfl]
      refine (Vector.getElem_setFin ..).trans ?_
      by_cases same : i = b
      · subst same
        rw [if_pos rfl, if_pos ⟨rfl, rfl⟩]
      · rw [if_neg fun h => same (congrArg Fin.val h), if_neg fun both => same both.2]
    · rw [index?_ge (Nat.not_lt.1 inside), if_neg (show ¬ ((9 : Fin 14) = 9 ∧ i = b) by omega)]
  · rw [if_neg fun both => beds both.1]
    unfold State.recordWritten
    split
    · split <;> rfl
    · split
      · split
        · split <;> rfl
        · rfl
      · rfl

theorem State.recordWritten_lamp (s : State) (table : Fin 14) (i : Nat) (b : Fin 16) :
    (s.recordWritten table i).monitor.lamps[b] =
      if table = 11 ∧ i = 16 + b then s.lampReset b s.monitor.lamps[b] else s.monitor.lamps[b] := by
  by_cases buttons : table = 11
  · subst buttons
    unfold State.recordWritten
    rw [if_neg (by decide), if_neg (by decide), if_pos rfl]
    by_cases inside : i < 32
    · rw [index?_val (i := ⟨i, inside⟩) rfl]
      dsimp only
      by_cases button : 16 ≤ i
      · have number : (Fin.ofNat 16 (i - 16)).val = i - 16 := Nat.mod_eq_of_lt (by omega)
        rw [if_pos button, State.initialLamp_lamp]
        by_cases same : i = 16 + b
        · rw [if_pos (Fin.ext (number.trans (by omega))), if_pos ⟨rfl, same⟩]
        · rw [if_neg fun own => same (by have := congrArg Fin.val own; omega), if_neg fun both => same both.2]
      · rw [if_neg button, if_neg (show ¬ ((11 : Fin 14) = 11 ∧ i = 16 + b) by omega)]
    · rw [index?_ge (Nat.not_lt.1 inside), if_neg (show ¬ ((11 : Fin 14) = 11 ∧ i = 16 + b) by omega)]
  · rw [if_neg fun both => buttons both.1]
    unfold State.recordWritten
    split
    · split <;> rfl
    · split
      · split <;> rfl
      · rfl

/-- R174: outside SHOW a lamp in its initial mode shows what its button's function gives. -/
theorem State.lampReset_standby (mode : s.store.mode = .standby) (b : Fin 16) (x : Lamp) :
    s.lampReset b x =
      { x with
        mode := if (s.store.tables.button b).manual then .off else .auto
        pattern := if (s.store.tables.button b).manual then .off else
          match (s.store.tables.button b).function with | .language _ => .on | .scene => .off
        blink := 0
        flash := 0 } := by
  unfold State.lampReset Lamp.setMode ButtonRec.initialMode autoPattern
  rw [mode]
  cases (s.store.tables.button b).function <;> cases (s.store.tables.button b).manual <;> rfl

end Stored

end Sys2Proof.Machine
end

section
/-! Proof about TABLE WRITE (O18): the records go to their entries one after another, and each scene, bed, zone, lamp and
axis takes at most the one record that is its own. -/

namespace Sys2Proof.Machine

/-! ### What one of several steps does -/

/-- Of the steps i, i + 1, … that each act where a value of its own stands, at most one is the value's own: whatever the
record that it reads becomes, no other step changes value or record. -/
theorem takenOnce {α β : Type} {P : Prop} [Decidable P] {i p k : Nat} {x : Nat → α} {r : Nat → β} {f : α → β → β → α}
    (moves : ∀ j, j < k → x (j + 1) = if P ∧ i + j = p then f (x j) (r j) (r (j + 1)) else x j)
    (keeps : ∀ j, j < k → ¬ (P ∧ i + j = p) → r (j + 1) = r j) :
    (P ∧ i ≤ p ∧ p < i + k → x k = f (x 0) (r 0) (r k)) ∧ (¬ (P ∧ i ≤ p ∧ p < i + k) → x k = x 0 ∧ r k = r 0) := by
  induction k with
  | zero => exact ⟨fun within => by omega, fun _ => ⟨rfl, rfl⟩⟩
  | succ k ih =>
    obtain ⟨hit, missed⟩ := ih (fun j hj => moves j (Nat.lt_succ_of_lt hj)) fun j hj => keeps j (Nat.lt_succ_of_lt hj)
    have last := moves k (Nat.lt_succ_self k)
    by_cases own : P ∧ i + k = p
    · obtain ⟨value, record⟩ := missed (by omega)
      rw [if_pos own, value, record] at last
      exact ⟨fun _ => last, fun other => absurd ⟨own.1, by omega⟩ other⟩
    · rw [if_neg own] at last
      have record := keeps k (Nat.lt_succ_self k) own
      rw [last, record]
      exact ⟨fun within => hit ⟨within.1, within.2.1, by
          have apart : i + k ≠ p := fun last => own ⟨within.1, last⟩
          omega⟩,
        fun other => missed fun within => other ⟨within.1, by omega⟩⟩

/-! ### The records of a TABLE WRITE -/

/-- R6: the payload's record number j. -/
def payloadRecord (table : Fin 14) (payload : List Byte) (j : Nat) : List Byte :=
  (payload.drop (j * recordSize table)).take (recordSize table)

/-- R6: one record of a TABLE WRITE is stored, with its effects. -/
def State.acceptsRecord (s : State) (table : Fin 14) (i : Nat) (bs : List Byte) : State :=
  ((s.storeRecord? table i bs).getD s).recordWritten table i

/-- R6: the part after the first records of a payload, stored from entry i on. -/
def State.afterRecords (s : State) (table : Fin 14) (i : Nat) (payload : List Byte) : Nat → State
  | 0 => s
  | j + 1 => (s.afterRecords table i payload j).acceptsRecord table (i + j) (payloadRecord table payload j)

/-- R6: the first k records of a payload are all stored, and the tables are `tabs j` after j of them. -/
def StoresFirst (s : State) (table : Fin 14) (i : Nat) (payload : List Byte) (tabs : Nat → Tables) (k : Nat) : Prop :=
  tabs 0 = s.store.tables ∧ ∀ j, j < k → i + j < tableEntries table ∧
    (tabs j).storeEntry? table (i + j) (payloadRecord table payload j) = some (tabs (j + 1))

section Writes

variable {s : State} {table : Fin 14} {i k : Nat} {payload : List Byte} {tabs : Nat → Tables}

theorem State.storeRecord?_of_stored {bs : List Byte} {u : Tables} (h : s.store.tables.storeEntry? table i bs = some u) :
    ∃ t, s.storeRecord? table i bs = some t ∧ t.store = { s.store with tables := u } := by
  unfold State.storeRecord?
  rw [h]
  refine ⟨_, rfl, ?_⟩
  dsimp only
  split
  · split <;> rfl
  · split <;> rfl

theorem State.storeRecord?_none {bs : List Byte} (h : s.store.tables.storeEntry? table i bs = none) :
    s.storeRecord? table i bs = none := by
  unfold State.storeRecord?
  rw [h]
  rfl

theorem State.recordWritten_store (s : State) (table : Fin 14) (i : Nat) : (s.recordWritten table i).store = s.store :=
  (congrArg State.store (s.recordWritten_rest table i).1 :)

theorem State.recordWritten_motion (s : State) (table : Fin 14) (i : Nat) : (s.recordWritten table i).motion = s.motion :=
  (congrArg State.motion (s.recordWritten_rest table i).1 :)

theorem State.recordWritten_zones (s : State) (table : Fin 14) (i : Nat) :
    (s.recordWritten table i).monitor.zones = s.monitor.zones :=
  (congrArg Monitor.zones (s.recordWritten_rest table i).2.2.2 :)

/-- The tables after j records, and the record after them: it is stored, and then takes its further effects. -/
theorem State.afterRecords_store (h : StoresFirst s table i payload tabs k) {j : Nat} (within : j ≤ k) :
    (s.afterRecords table i payload j).store = { s.store with tables := tabs j } := by
  induction j with
  | zero => exact (congrArg (fun t => { s.store with tables := t }) h.1.symm : _)
  | succ j ih =>
    have before := ih (by omega)
    have stored := (h.2 j (by omega)).2
    have tables : (s.afterRecords table i payload j).store.tables = tabs j := by rw [before]
    obtain ⟨t, offered, store⟩ := State.storeRecord?_of_stored (tables ▸ stored)
    unfold State.afterRecords State.acceptsRecord
    rw [offered, State.recordWritten_store]
    rw [before] at store
    exact store

theorem State.afterRecords_next (h : StoresFirst s table i payload tabs k) {j : Nat} (within : j < k) :
    ∃ t, (s.afterRecords table i payload j).storeRecord? table (i + j) (payloadRecord table payload j) = some t
      ∧ t.store.tables = tabs (j + 1) ∧ t.store.mode = s.store.mode
      ∧ s.afterRecords table i payload (j + 1) = t.recordWritten table (i + j) := by
  have tables : (s.afterRecords table i payload j).store.tables = tabs j := by
    rw [State.afterRecords_store h (Nat.le_of_lt within)]
  obtain ⟨t, offered, store⟩ := State.storeRecord?_of_stored (tables ▸ (h.2 j within).2)
  refine ⟨t, offered, by rw [store], by rw [store, State.afterRecords_store h (Nat.le_of_lt within)], ?_⟩
  show State.recordWritten ((State.storeRecord? ..).getD _) table (i + j) = _
  rw [offered]
  rfl

/-- R6: a TABLE WRITE stores its first records and goes on with the others. -/
theorem State.writeRecords_after (h : StoresFirst s table i payload tabs k) {n : Nat} (within : k ≤ n) :
    State.writeRecords table n s i payload 0 =
      State.writeRecords table (n - k) (s.afterRecords table i payload k) (i + k) (payload.drop (k * recordSize table)) k := by
  induction k with
  | zero => rw [Nat.zero_mul]; rfl
  | succ k ih =>
    obtain ⟨t, offered, -, -, after⟩ := State.afterRecords_next h (Nat.lt_succ_self k)
    rw [ih ⟨h.1, fun j hj => h.2 j (by omega)⟩ (by omega), show n - k = n - (k + 1) + 1 by omega, after]
    show (if tableEntries table ≤ i + k then _ else _) = _
    rw [if_neg (Nat.not_le.2 (h.2 k (by omega)).1),
      show List.take (recordSize table) (payload.drop (k * recordSize table)) = payloadRecord table payload k from rfl, offered,
      List.drop_drop, Nat.succ_mul]
    rfl

/-- R6: a TABLE WRITE whose records are all stored, or that ends at the first that is not. -/
theorem State.writeRecords_all (h : StoresFirst s table i payload tabs k) :
    State.writeRecords table k s i payload 0 = (s.afterRecords table i payload k, k, true) := by
  rw [State.writeRecords_after h (Nat.le_refl k), Nat.sub_self]
  rfl

theorem State.writeRecords_stops (h : StoresFirst s table i payload tabs k) {n : Nat} (within : k < n)
    (stops : tableEntries table ≤ i + k ∨ (tabs k).storeEntry? table (i + k) (payloadRecord table payload k) = none) :
    State.writeRecords table n s i payload 0 = (s.afterRecords table i payload k, k, false) := by
  rw [State.writeRecords_after h (Nat.le_of_lt within), show n - k = n - k - 1 + 1 by omega]
  show (if tableEntries table ≤ i + k then _ else _) = _
  rcases stops with past | refused
  · exact if_pos past
  · split
    · rfl
    · have tables : (s.afterRecords table i payload k).store.tables = tabs k := by rw [State.afterRecords_store h (Nat.le_refl k)]
      rw [show List.take (recordSize table) (payload.drop (k * recordSize table)) = payloadRecord table payload k from rfl,
        State.storeRecord?_none (tables ▸ refused)]

/-! ### What the records leave and set -/

/-- R6: the later state differs from the earlier one in the tables, the scenes, the beds, the zones, the lamps and the axes
alone. -/
structure OnlyRecorded (s t : State) : Prop where
  part : { t with
    store := s.store
    engine := s.engine
    sound := s.sound
    monitor := s.monitor
    motion := s.motion } = s
  engine : { t.engine with scenes := s.engine.scenes } = s.engine
  sound : { t.sound with beds := s.sound.beds } = s.sound
  monitor : { t.monitor with zones := s.monitor.zones, lamps := s.monitor.lamps } = s.monitor
  motion : { t.motion with axes := s.motion.axes } = s.motion

theorem OnlyRecorded.refl (s : State) : OnlyRecorded s s := ⟨rfl, rfl, rfl, rfl, rfl⟩

theorem OnlyRecorded.trans {s t u : State} (first : OnlyRecorded s t) (second : OnlyRecorded t u) : OnlyRecorded s u where
  part := (congrArg (fun x : State => { x with
    store := s.store
    engine := s.engine
    sound := s.sound
    monitor := s.monitor
    motion := s.motion }) second.part :).trans first.part
  engine := (congrArg (fun x : Engine => { x with scenes := s.engine.scenes }) second.engine :).trans first.engine
  sound := (congrArg (fun x : Sound => { x with beds := s.sound.beds }) second.sound :).trans first.sound
  monitor := (congrArg (fun x : Monitor => { x with zones := s.monitor.zones, lamps := s.monitor.lamps })
    second.monitor :).trans first.monitor
  motion := (congrArg (fun x : Motion => { x with axes := s.motion.axes }) second.motion :).trans first.motion

theorem State.storeRecord?_onlyRecorded {t : State} {bs : List Byte} (h : s.storeRecord? table i bs = some t) :
    OnlyRecorded s t := by
  obtain ⟨u, -, ⟨-, rfl⟩ | ⟨z, -, -, rfl⟩ | ⟨-, -, rfl⟩⟩ := State.storeRecord?_some h
  · exact ⟨rfl, rfl, rfl, rfl, rfl⟩
  · exact ⟨rfl, rfl, rfl, rfl, rfl⟩
  · exact ⟨rfl, rfl, rfl, rfl, rfl⟩

theorem State.recordWritten_onlyRecorded (s : State) (table : Fin 14) (i : Nat) :
    OnlyRecorded s (s.recordWritten table i) := by
  obtain ⟨part, engine, sound, monitor⟩ := s.recordWritten_rest table i
  exact
    { part := (congrArg (fun x : State => { x with store := s.store, motion := s.motion }) part :)
      engine := engine
      sound := sound
      monitor := (congrArg (fun x : Monitor => { x with zones := s.monitor.zones }) monitor :)
      motion := congrArg (fun x : Motion => { x with axes := s.motion.axes }) (s.recordWritten_motion table i) }

theorem State.afterRecords_onlyRecorded (h : StoresFirst s table i payload tabs k) {j : Nat} (within : j ≤ k) :
    OnlyRecorded s (s.afterRecords table i payload j) := by
  induction j with
  | zero => exact .refl s
  | succ j ih =>
    obtain ⟨t, offered, -, -, after⟩ := State.afterRecords_next h (Nat.lt_of_succ_le within)
    rw [after]
    exact (ih (by omega)).trans ((State.storeRecord?_onlyRecorded offered).trans (t.recordWritten_onlyRecorded table (i + j)))

/-- R21: the scene of a stored record. -/
theorem State.afterRecords_scene (h : StoresFirst s table i payload tabs k) (sc : Fin 64) :
    (table = 0 ∧ i ≤ sc ∧ sc < i + k → (s.afterRecords table i payload k).engine.scenes[sc] =
      (s.engine.scenes[sc]).rewritten ((tabs k).scene sc))
    ∧ (¬ (table = 0 ∧ i ≤ sc ∧ sc < i + k) →
      (s.afterRecords table i payload k).engine.scenes[sc] = s.engine.scenes[sc]) := by
  refine And.imp id (fun missed other => (missed other).1) (takenOnce (P := table = 0) (i := i) (p := sc) (k := k)
    (x := fun j => (s.afterRecords table i payload j).engine.scenes[sc]) (r := fun j => (tabs j).scene sc)
    (f := fun x _ r => x.rewritten r) (fun j within => ?_)
    fun j within => (Tables.storeEntry?_elsewhere (h.2 j within).2).1 sc)
  obtain ⟨t, offered, tables, -, after⟩ := State.afterRecords_next h within
  have kept : t.engine = (s.afterRecords table i payload j).engine :=
    (congrArg State.engine (State.storeRecord?_rest offered).1 :)
  rw [after, State.recordWritten_scene, kept, tables]

/-- R133: the bed of a stored record. -/
theorem State.afterRecords_bed (h : StoresFirst s table i payload tabs k) (b : Fin 4) :
    (table = 9 ∧ i ≤ b ∧ b < i + k → (s.afterRecords table i payload k).sound.beds[b] =
      (s.sound.beds[b]).load ((tabs k).bed b))
    ∧ (¬ (table = 9 ∧ i ≤ b ∧ b < i + k) →
      (s.afterRecords table i payload k).sound.beds[b] = s.sound.beds[b]) := by
  refine And.imp id (fun missed other => (missed other).1) (takenOnce (P := table = 9) (i := i) (p := b) (k := k)
    (x := fun j => (s.afterRecords table i payload j).sound.beds[b]) (r := fun j => (tabs j).bed b)
    (f := fun x _ r => x.load r) (fun j within => ?_)
    fun j within => (Tables.storeEntry?_elsewhere (h.2 j within).2).2.1 b)
  obtain ⟨t, offered, tables, -, after⟩ := State.afterRecords_next h within
  have kept : t.sound = (s.afterRecords table i payload j).sound := State.storeRecord?_sound offered
  rw [after, State.recordWritten_bed, kept, tables]

/-- R170: the zone of a stored record. -/
theorem State.afterRecords_zone (h : StoresFirst s table i payload tabs k) (z : Fin 12) :
    (table = 10 ∧ i ≤ z ∧ z < i + k → (s.afterRecords table i payload k).monitor.zones[z] =
      { s.monitor.zones[z] with language := ((tabs k).zone z).language })
    ∧ (¬ (table = 10 ∧ i ≤ z ∧ z < i + k) →
      (s.afterRecords table i payload k).monitor.zones[z] = s.monitor.zones[z]) := by
  refine And.imp id (fun missed other => (missed other).1) (takenOnce (P := table = 10) (i := i) (p := z) (k := k)
    (x := fun j => (s.afterRecords table i payload j).monitor.zones[z]) (r := fun j => (tabs j).zone z)
    (f := fun x _ r => { x with language := r.language }) (fun j within => ?_)
    fun j within => (Tables.storeEntry?_elsewhere (h.2 j within).2).2.2.1 z)
  obtain ⟨t, offered, tables, -, after⟩ := State.afterRecords_next h within
  rw [after, State.recordWritten_zones, State.storeRecord?_zone offered, tables]

theorem State.afterRecords_zoneState (h : StoresFirst s table i payload tabs k) {j : Nat} (within : j ≤ k) (z : Fin 12) :
    ((s.afterRecords table i payload j).monitor.zones[z]).state = (s.monitor.zones[z]).state := by
  obtain ⟨hit, missed⟩ := State.afterRecords_zone (k := j) ⟨h.1, fun m hm => h.2 m (by omega)⟩ z
  by_cases own : table = 10 ∧ i ≤ z ∧ z < i + j
  · rw [hit own]
  · rw [missed own]

/-- R174: the lamp of a stored button record. -/
theorem State.afterRecords_lamp (h : StoresFirst s table i payload tabs k) (mode : s.store.mode = .standby) (b : Fin 16) :
    (table = 11 ∧ i ≤ 16 + b ∧ 16 + b < i + k → (s.afterRecords table i payload k).monitor.lamps[b] =
      { s.monitor.lamps[b] with
        mode := if ((tabs k).button b).manual then .off else .auto
        pattern := if ((tabs k).button b).manual then .off else
          match ((tabs k).button b).function with | .language _ => .on | .scene => .off
        blink := 0
        flash := 0 })
    ∧ (¬ (table = 11 ∧ i ≤ 16 + b ∧ 16 + b < i + k) →
      (s.afterRecords table i payload k).monitor.lamps[b] = s.monitor.lamps[b]) := by
  refine And.imp id (fun missed other => (missed other).1) (takenOnce (P := table = 11) (i := i) (p := 16 + b) (k := k)
    (x := fun j => (s.afterRecords table i payload j).monitor.lamps[b]) (r := fun j => (tabs j).button b)
    (f := fun x _ r => { x with
      mode := if r.manual then .off else .auto
      pattern := if r.manual then .off else match r.function with | .language _ => .on | .scene => .off
      blink := 0
      flash := 0 }) (fun j within => ?_)
    fun j within => (Tables.storeEntry?_elsewhere (h.2 j within).2).2.2.2.1 b)
  obtain ⟨t, offered, tables, standby, after⟩ := State.afterRecords_next h within
  have kept : t.monitor.lamps = (s.afterRecords table i payload j).monitor.lamps :=
    (congrArg Monitor.lamps (State.storeRecord?_rest offered).2.1 :)
  have lamp := State.recordWritten_lamp t table (i + j) b
  rw [State.lampReset_standby (standby.trans mode), kept, tables, ← after] at lamp
  exact lamp

/-- R159: the hold condition that an axis of this record has. -/
def State.holdsWith (s : State) (r : AxisRec) : Bool :=
  s.motion.house || match r.guard with
    | none => false
    | some z => decide ((s.monitor.zones[z]).state ≠ .clear)

theorem State.afterRecords_holdPresent (h : StoresFirst s table i payload tabs k) {j : Nat} (within : j ≤ k) (a : Fin 8) :
    (s.afterRecords table i payload j).holdPresent a = s.holdsWith ((tabs j).axis a) := by
  have house : (s.afterRecords table i payload j).motion.house = s.motion.house :=
    (congrArg Motion.house (State.afterRecords_onlyRecorded h within).motion :)
  have tables : (s.afterRecords table i payload j).store.tables = tabs j := by rw [State.afterRecords_store h within]
  unfold State.holdPresent State.holdsWith
  rw [house, tables]
  cases ((tabs j).axis a).guard with
  | none => rfl
  | some z =>
    show (_ || decide (((s.afterRecords table i payload j).monitor.zones[z]).state ≠ .clear)) = _
    rw [State.afterRecords_zoneState h within]

/-- R157, R159, R160: the axis of a stored record. -/
theorem State.afterRecords_axis (h : StoresFirst s table i payload tabs k) (a : Fin 8) :
    (table = 12 ∧ i ≤ a ∧ a < i + k → (s.afterRecords table i payload k).motion.axes[a] =
      Axis.holdChange ((s.motion.axes[a]).limitsRewritten ((tabs k).axis a)) ((tabs k).axis a)
        (s.holdsWith ((tabs 0).axis a)) (s.holdsWith ((tabs k).axis a)))
    ∧ (¬ (table = 12 ∧ i ≤ a ∧ a < i + k) →
      (s.afterRecords table i payload k).motion.axes[a] = s.motion.axes[a]) := by
  refine And.imp id (fun missed other => (missed other).1) (takenOnce (P := table = 12) (i := i) (p := a) (k := k)
    (x := fun j => (s.afterRecords table i payload j).motion.axes[a]) (r := fun j => (tabs j).axis a)
    (f := fun x before r => Axis.holdChange (x.limitsRewritten r) r (s.holdsWith before) (s.holdsWith r)) (fun j within => ?_)
    fun j within => (Tables.storeEntry?_elsewhere (h.2 j within).2).2.2.2.2 a)
  obtain ⟨t, offered, tables, -, after⟩ := State.afterRecords_next h within
  have later : t.holdPresent a = s.holdsWith ((tabs (j + 1)).axis a) := by
    rw [← State.afterRecords_holdPresent h within a, after]
    exact State.holdPresent_congr (congrArg Motion.house (t.recordWritten_motion ..)).symm
      (congrArg (fun st : Store => st.tables.axis a) (t.recordWritten_store ..)).symm
      fun z => by rw [State.recordWritten_zones]
  rw [after, State.recordWritten_motion, State.storeRecord?_axis offered, tables,
    State.afterRecords_holdPresent h (Nat.le_of_lt within), later]

/-- R157: an axis outside its new soft limits loses its homing. -/
theorem Axis.limitsRewritten_eq (x : Axis) (r : AxisRec) :
    x.limitsRewritten r = if x.homed = true ∧ (x.position < r.minPos ∨ r.maxPos < x.position) then
      { x with
        state := .unhomed
        homed := false
        rate := 0
        acc := 0
        target := none
        profile := none
        ending := none
        follow := none
        pendingMove := none
        wait := none
        cause := none } else x := by
  unfold Axis.limitsRewritten
  simp only [Bool.and_eq_true, Bool.or_eq_true, decide_eq_true_eq]
  rfl

end Writes

/-! ### TABLE WRITE -/

section Request

variable {s : State} {payload : List Byte} {rest : List Request}

theorem exec_tableWrite : Serves .tableWrite State.finishLink 0x09 false wholeRecords State.answerTableWrite := fun _ => rfl

theorem wholeRecords_true (size : payload ≠ []) (whole : payload.length % recordSize s.link.cursor.table = 0) :
    wholeRecords s payload = true := by
  unfold wholeRecords
  rw [decide_eq_true whole, decide_eq_true (List.length_pos_iff.2 size)]
  rfl

theorem wholeRecords_false (h : payload = [] ∨ payload.length % recordSize s.link.cursor.table ≠ 0) :
    wholeRecords s payload = false := by
  unfold wholeRecords
  rcases h with rfl | part
  · exact Bool.and_false _
  · rw [decide_eq_false part]
    rfl

/-- R6: what a TABLE WRITE answers in STANDBY, when its records end so. -/
theorem State.answerTableWrite_standby (mode : s.store.mode = .standby) {t : State} {k : Nat} {all : Bool}
    (writes : State.writeRecords s.link.cursor.table (payload.length / recordSize s.link.cursor.table) s s.link.cursor.index
      payload 0 = (t, k, all)) :
    State.answerTableWrite payload s = (t.advanceCursor k, (if all then 0 else 3) :: put8 k) := by
  unfold State.answerTableWrite
  rw [if_neg (not_not_intro mode)]
  dsimp only
  rw [writes]
  cases all <;> rfl

end Request

/-- Settles O18. -/
theorem tableWriteStoresTheRecord : Obligations.TableWriteStoresTheRecord := by
  refine ⟨Axis.actsOnHolds, fun s payload rest next => ?_⟩
  intro c size n record answered
  refine ⟨fun mode part => ?_, fun mode some whole => ?_, fun tabs k mode some whole within start stored => ?_⟩
  · show exec .tableWrite s = _
    rw [exec_tableWrite, State.serve_next next, State.answer_badLength (s := s.took rest) (.inr mode) (wholeRecords_false part)]
  · by_cases loading : s.store.mode = .loading
    · exact exec_tableWrite.refused next loading
    · exact exec_tableWrite.own next (.inr loading) (wholeRecords_true some whole) (if_pos mode)
  · intro written wrote
    have first : StoresFirst (s.took rest) c.table c.index payload tabs k := ⟨start, stored⟩
    have wrote_of : ∀ all : Bool, State.writeRecords c.table n (s.took rest) c.index payload 0 =
        ((s.took rest).afterRecords c.table c.index payload k, k, all) → wrote (if all then 0 else 3) := by
      intro all writes
      have only := State.afterRecords_onlyRecorded first (Nat.le_refl k)
      have link : ((s.took rest).afterRecords c.table c.index payload k).link = (s.took rest).link :=
        (congrArg State.link only.part :)
      have answers := State.answerTableWrite_standby (s := s.took rest) mode writes
      have loading : s.store.mode ≠ .loading := by rw [mode]; exact nofun
      refine ⟨_, exec_tableWrite.own next (.inr loading) (wholeRecords_true some whole) answers, ?_⟩
      rw [State.advanceCursor_eq, link]
      refine ⟨(congrArg State.pending only.part :), (congrArg State.frame only.part :),
        State.afterRecords_store first (Nat.le_refl k), rfl, only.engine, (congrArg State.light only.part :), only.sound,
        only.monitor, only.motion, fun sc => ?_, State.afterRecords_bed first, State.afterRecords_zone first,
        State.afterRecords_lamp first mode, fun a => ?_⟩
      · refine (State.afterRecords_scene first sc).imp (fun hit own => (hit own).trans ?_) id
        unfold SceneRun.rewritten
        cases ((tabs k).scene sc).enabled <;> rfl
      · intro r was limited present before after
        refine (State.afterRecords_axis first a).imp (fun hit own => (hit own).trans ?_) id
        rw [Axis.limitsRewritten_eq, start]
        rfl
    refine ⟨fun all => wrote_of true ?_, fun partly stops => wrote_of false ?_⟩
    · rw [← all]
      exact State.writeRecords_all first
    · exact State.writeRecords_stops first partly stops

end Sys2Proof.Machine
end

section
/-! Proof about IDENT, STATUS and QUERY (O10): the bytes of each reply, field by field. -/

namespace Sys2Proof.Machine

/-! ### Commands and operands -/

theorem exec_ident : Serves .ident State.finishLink 0x01 true (exactly 0) (fun _ s => (s, okWith s.link.identFields)) :=
  fun _ => rfl

theorem exec_status : Serves .status State.finishLink 0x02 true (exactly 0) (fun _ s => (s, okWith s.statusFields)) :=
  fun _ => rfl

theorem exec_query : Serves .query State.finishLink 0x03 true (exactly 2) State.answerQuery := fun _ => rfl

section Query

variable {s : State} {rest : List Request} {selection index : Byte}

/-- R190: a QUERY of a selection carries its fields. -/
theorem exec_query_selected (next : s.RequestNext 0x03 [selection, index] rest) {chosen : Selection} {fields : List Byte}
    (operand : queryOperand? [selection, index] = some chosen) (same : (s.took rest).queryFields chosen = fields) :
    exec .query s = .next ((s.took rest).replied 0x03 (0 :: fields)).finishLink := by
  refine exec_query.own next (.inl rfl) rfl ?_
  rw [State.answerQuery, operand, ← same]
  rfl

/-- R190: a QUERY of nothing that can be selected. -/
theorem exec_query_refused (next : s.RequestNext 0x03 [selection, index] rest)
    (operand : queryOperand? [selection, index] = none) :
    exec .query s = .next ((s.took rest).replied 0x03 [3]).finishLink := by
  refine exec_query.own next (.inl rfl) rfl ?_
  rw [State.answerQuery, operand]
  rfl

/-- R190: an index of a selection, inside and outside its range. -/
theorem selected {n : Nat} {f : Fin n → Selection} {i : Fin n} (own : index.toNat = i.val) :
    (index? n index.toNat).map f = some (f i) := by
  rw [index?_val own]
  rfl

theorem unselected {n : Nat} {f : Fin n → Selection} (outside : n ≤ index.toNat) : (index? n index.toNat).map f = none := by
  rw [index?_ge outside]
  rfl

theorem queryOperand?_outside (outside : 10 ≤ selection.toNat) : queryOperand? [selection, index] = none := by
  unfold queryOperand?
  rw [show byteAt [selection, index] 0 = selection.toNat from rfl]
  obtain ⟨more, beyond⟩ := Nat.exists_eq_add_of_le' outside
  rw [beyond]
  rfl

end Query

/-! ### Fields -/

theorem put16_zero : put16 0 = [0, 0] := by decide

theorem append_same {a b c d : List Byte} (front : a = c) (back : b = d) : a ++ b = c ++ d := by rw [front, back]

theorem flatten_singletons {α : Type} {f : α → Byte} {g : α → List Byte} (same : ∀ x, g x = [f x]) (xs : List α) :
    xs.map f = (xs.map g).flatten := by
  induction xs with
  | nil => rfl
  | cons x xs ih => rw [List.map_cons, List.map_cons, List.flatten_cons, ih, same]; rfl

/-- R20: nobody holds a scene that no player runs. -/
theorem Engine.holder_none {e : Engine} {sc : Fin 64}
    (none_runs : ∀ (p : Fin 8) (r : Run), e.players[p] = some r → r.scene ≠ sc) : e.holder sc = none := by
  refine List.find?_eq_none.2 fun p _ => ?_
  rw [decide_eq_true_eq]
  intro same
  obtain ⟨r, running, scene⟩ := Option.map_eq_some_iff.1 same
  exact none_runs p r running scene

theorem State.queryFields_scene (s : State) (sc : Fin 64) : s.queryFields (.scene sc) =
    put8 (s.engine.scenes[sc]).state.code ++ put16 (s.engine.scenes[sc]).cooldown ++ putFlag (s.engine.scenes[sc]).again
      ++ putOpt 1 (fun (p : Fin 8) => put8 p.val) (s.engine.holder sc) := rfl

/-- R39: QUERY of a FREE player and of one that runs a scene. -/
theorem State.queryPlayerFields_free {s : State} {p : Fin 8} (free : s.engine.players[p] = none) :
    s.queryPlayerFields p = List.replicate 32 0 := by
  unfold State.queryPlayerFields
  rw [free]
  rfl

theorem State.queryPlayerFields_running {s : State} {p : Fin 8} {r : Run} (running : s.engine.players[p] = some r) :
    s.queryPlayerFields p = put8 (playerStateCode (some r)) ++ [1] ++ put8 r.scene ++ [1] ++ put8 r.priority ++ [1]
      ++ put8 r.order ++ [1] ++ put16 r.cue ++ [1] ++ put16 r.phase.delay
      ++ (putOpt 9 Await.put r.phase.await?
        ++ putOpt 2 (fun (x : Run) => put16 x.cue) (if r.phase = .blocked then some r else none))
      ++ [1] ++ put8 r.loops.length ++ (r.loops.map LoopEntry.put).flatten ++ [1] ++ putIndex r.voice ++ [1]
      ++ put8 r.executed := by
  unfold State.queryPlayerFields
  rw [running]
  simp only [Option.filter, Option.bind, putList, putOpt, decide_eq_true_eq, List.append_assoc, List.cons_append,
    List.nil_append]

/-- R39: the await record of an AWAITING player. -/
theorem Await.put_eq (a : Await) : a.put = put8 a.cond.code ++ [a.operand]
    ++ (match a.timeout with | none => [0, 0, 0] | some n => [1] ++ put16 n) ++ put16 a.target
    ++ (match a.cond with
        | .button _ => [1] ++ putFlag a.seen
        | .voiceDone | .axisDone _ | .axesDone | .zoneClear _ | .zoneOccupied _ => [0, 0]) := by
  unfold Await.put
  refine append_same (append_same (append_same rfl ?_) rfl) ?_
  · cases a.timeout <;> rfl
  · cases a.cond <;> rfl

/-- R143: a burst of a voice's stream is in flight. -/
theorem Sound.inFlight_voice (x : Sound) (v : Fin 4) : putFlag (x.inFlight (voiceStream v)) = match x.flight with
    | some (.stream n _ _ _) => putFlag (decide (n.val = v.val))
    | some .image => [0]
    | none => [0] := by
  have number : (voiceStream v).val = v.val := Nat.mod_eq_of_lt (by omega)
  unfold Sound.inFlight
  rcases x.flight with _ | ⟨n, _, _, _⟩ | _
  · rfl
  · exact congrArg putFlag (decide_eq_decide.2 (by rw [Fin.ext_iff, number]))
  · rfl

/-- R180: the code of a lamp's mode (log entry 29). -/
theorem LampMode.put_code (mode : LampMode) : put8 mode.code = match mode with
    | .off => [0] | .on => [1] | .slow => [2] | .fast => [3] | .auto => [0xFF] := by
  cases mode <;> rfl

/-- Settles O10. -/
theorem informationIsReported : Obligations.InformationIsReported := by
  intro s rest link m tables owner player
  have owner_code : ∀ o : GroupOwner, [o.code] = owner o := fun o => by cases o <;> rfl
  have player_index : ∀ p : Option (Fin 8), putIndex p = player p := fun p => by cases p <;> rfl
  refine ⟨fun next => exec_ident.own next (.inl rfl) rfl rfl,
    fun next => exec_status.own next (.inl rfl) rfl (congrArg (fun fields => (s.took rest, 0 :: fields)) ?_),
    fun selection index next => ?_⟩
  · unfold State.statusFields
    iterate 11 refine append_same ?_ rfl
    refine (List.append_assoc ..).trans (append_same rfl ?_)
    show put8 s.store.status.code ++ putOpt 1 _ s.store.status.cause = _
    cases s.store.status <;> rfl
  · intro carries refused
    have fields : ∀ {chosen : Selection} {bytes : List Byte}, queryOperand? [selection, index] = some chosen →
        (s.took rest).queryFields chosen = bytes → carries bytes := exec_query_selected next
    have nothing : queryOperand? [selection, index] = none → refused := exec_query_refused next
    refine ⟨?_, ?_, ?_, ?_, ?_, ?_, ?_, ?_, ?_, ?_, ?_, ?_, ?_, ?_, ?_, ?_, ?_, ?_,
      fun outside => nothing (queryOperand?_outside outside)⟩
    · rintro rfl outside
      exact nothing (unselected outside)
    · rintro sc rfl own x record
      refine ⟨fun p r running scene first => fields (selected own) ?_, fun nobody => fields (selected own) ?_⟩
      · rw [State.queryFields_scene]
        have holder : (s.took rest).engine.holder sc = some p := Engine.holder_eq running scene first
        rw [holder]
        exact (List.append_assoc record [1] (put8 p)).symm
      · rw [State.queryFields_scene]
        have holder : (s.took rest).engine.holder sc = none := Engine.holder_none nobody
        rw [holder]
        rfl
    · rintro rfl outside
      exact nothing (unselected outside)
    · rintro p rfl own
      refine ⟨fun free => fields (selected own) ?_, fun r running => ?_⟩
      · exact State.queryPlayerFields_free (s := s.took rest) free
      · have carried := State.queryPlayerFields_running (s := s.took rest) running
        obtain ⟨scene, priority, order, cue, phase, loops, voice, executed, frame⟩ := r
        intro shown
        refine fields (selected own) (carried.trans ?_)
        refine append_same (append_same (append_same (append_same (append_same (append_same (append_same (append_same
          (append_same ?_ ?_) ?_) rfl) rfl) rfl) rfl) ?_) rfl) rfl
        · iterate 9 refine append_same ?_ rfl
          cases phase <;> rfl
        · rcases phase with _ | _ | _
          · rfl
          · exact put16_zero
          · exact put16_zero
        · rcases phase with _ | a | _
          · rfl
          · exact congrArg (fun bytes => 1 :: bytes ++ [0, 0, 0]) a.put_eq
          · rfl
        · cases voice <;> rfl
    · rintro rfl
      exact fields (chosen := .queue) rfl (append_same (append_same rfl rfl) rfl)
    · rintro rfl
      refine fields (chosen := .claims) rfl (append_same (append_same (append_same ?_ ?_) ?_) ?_)
      · exact flatten_singletons (fun g => (owner_code _).symm) _
      · exact congrArg List.flatten (List.map_congr_left fun a _ => player_index _)
      · exact congrArg List.flatten (List.map_congr_left fun v _ => player_index _)
      · refine congrArg List.flatten (List.map_congr_left fun p _ => ?_)
        show putOpt 1 _ s.engine.players[p] = _
        cases s.engine.players[p] <;> rfl
    · rintro rfl outside
      exact nothing (unselected outside)
    · rintro c rfl own r x phase
      refine fields (selected own) ?_
      show State.queryChannelFields _ c = _
      unfold State.queryChannelFields
      refine append_same (append_same (append_same (append_same ?_ ?_) ?_) rfl) rfl
      · refine (List.append_assoc _ (put16 x.active.duty) (putFlag x.active.house)).symm.trans
          (append_same (append_same ?_ rfl) rfl)
        refine (List.append_assoc _ (put16 x.staged.duty) (putFlag x.staged.house)).symm.trans
          (append_same (append_same ?_ rfl) rfl)
        iterate 10 refine append_same ?_ rfl
        exact append_same rfl (owner_code _)
      · show [phaseCode phase] = _
        rcases phase with _ | _ | _ <;> rfl
      · show put8 (r.slot.getD (autoSlot c)) = _
        cases r.slot <;> rfl
    · rintro rfl outside
      exact nothing (unselected outside)
    · rintro g rfl own x
      refine fields (selected own) ?_
      show State.queryGroupFields _ g = _
      unfold State.queryGroupFields
      iterate 6 refine append_same ?_ rfl
      exact append_same (owner_code _) (congrArg put8 (List.countP_eq_length_filter ..).symm)
    · rintro rfl outside
      exact nothing (unselected outside)
    · rintro v rfl own x
      refine fields (selected own) ?_
      show State.queryVoiceFields _ v = _
      unfold State.queryVoiceFields
      refine append_same (append_same (append_same ?_ rfl) rfl) (Sound.inFlight_voice s.sound v)
      · iterate 5 refine append_same ?_ rfl
        refine append_same (append_same (append_same (player_index _) rfl) ?_) ?_
        · show putOpt 1 _ x.clip = _
          cases x.clip <;> rfl
        · show putOpt 2 _ x.variant = _
          cases x.variant <;> rfl
    · rintro rfl outside
      exact nothing (unselected outside)
    · rintro b rfl own x
      refine fields (selected own) ?_
      show State.queryBedFields _ b = _
      unfold State.queryBedFields
      iterate 12 refine append_same ?_ rfl
      show putClip x.clip = _
      cases x.clip <;> rfl
    · rintro rfl outside
      exact nothing (unselected outside)
    · rintro a rfl own x move
      refine fields (selected own) ?_
      show State.queryAxisFields _ a = _
      unfold State.queryAxisFields
      iterate 5 refine append_same ?_ rfl
      refine append_same (append_same (append_same (append_same (append_same (append_same (append_same (append_same rfl
        ?_) ?_) ?_) ?_) ?_) ?_) ?_) (player_index _)
      · show putOpt 4 _ x.target = _
        cases x.target <;> rfl
      · show putOpt 1 _ x.profile = _
        cases x.profile <;> rfl
      · show putOpt 1 _ x.ending = _
        cases x.ending <;> rfl
      · show putOpt 6 _ x.follow = _
        rcases x.follow with _ | _ | _ <;> rfl
      · show putOpt 5 _ x.pendingMove = _
        cases x.pendingMove <;> rfl
      · show putOpt 2 _ x.wait = _
        cases x.wait <;> rfl
      · show putOpt 1 _ x.cause = _
        cases x.cause <;> rfl
    · rintro rfl outside
      exact nothing (unselected outside)
    · rintro z rfl own x mapped
      refine fields (selected own) ?_
      show State.queryZoneFields _ z = _
      unfold State.queryZoneFields
      refine (List.append_assoc _ (putFlag m.estop.asserted) (put8 m.estop.count)).symm.trans
        (append_same (append_same ?_ rfl) rfl)
      refine (List.append_assoc _ (putFlag m.house.asserted) (put8 m.house.count)).symm.trans
        (append_same (append_same ?_ rfl) rfl)
      refine append_same (append_same (append_same (append_same ?_ rfl) rfl) rfl)
        (congrArg List.flatten (List.map_congr_left fun i _ =>
          append_same (append_same (append_same (LampMode.put_code _) rfl) rfl) rfl))
      exact (List.append_assoc ..).symm

end Sys2Proof.Machine
end
